-- ==== Sys2Proof/Word.lean ====
section
/-!
DEFINITION. The word types of the SK-96: the widths the manual gives its registers, fields and cells.
-/
namespace Sys2Proof

/-- A byte of memory. -/
abbrev Byte := BitVec 8
/-- A halfword: the unit of instruction fetch (R153). -/
abbrev Half := BitVec 16
/-- A binary32 lane, an e register, an instruction word (R46, R153). -/
abbrev Word := BitVec 32
/-- A doubleword: a p register, bits 63:0 of a g register, a control register (R46, R305). -/
abbrev Dword := BitVec 64
/-- The 128 bits of a g register (R46). -/
abbrev Qword := BitVec 128
/-- The 2,048 bits of a v register (R46). -/
abbrev Vword := BitVec 2048
/-- The number of a g register (R157). -/
abbrev GIdx := BitVec 6
/-- The number of a v register (R157). -/
abbrev VIdx := BitVec 5
/-- The number of a p register (R157). -/
abbrev PIdx := BitVec 3

end Sys2Proof
end

