-- ==== Sys2Proof/Syntax.lean ====
section
/-!
DEFINITION. The instructions and events of spec/opcode_table.json: one constructor for each of its 446 rows. Operand fields
keep the width and the letter the table gives them, the one in the lowest bits first (d, a, b for the R format); a row that
the table gives no encoding is an event of the machine, and its operands say where it happens and with what data.
-/
namespace Sys2Proof

/-- A host or CXL access to device memory that arrives through the system die (R118, R386): the function, the physical
address, and the bytes of a write, or none for a read of `count` bytes. -/
structure HostAccess where
  fn : Nat
  addr : Nat
  count : Nat
  data : Option (List Byte)
deriving DecidableEq, Repr

/-- A 128-bit value that crosses a Dziac link with its tag and taint (R293). -/
structure FrameVal where
  bits : Qword
  tag : Bool
  taint : Bool
deriving DecidableEq, Repr

/-- A handle message that crosses a Dziac link (R288, R291, R294, R295, R299). The first four are for a callee's own device: an
invocation of mode 4, a released INVON with the upstream value for the core where it lives. The others are for the entry of an id. -/
inductive FrameMsg where
  | invoke (key : Word) (code frame : FrameVal) (args : List FrameVal)
  | start (core : Nat) (value code : FrameVal) (args : List FrameVal)
  | send (payload : FrameVal)
  | invon (code : FrameVal) (args : List FrameVal) (handle : Dword)
  | bind
  | fulfil (value : FrameVal)
  | brk (user : Word)
  | drop
  /-- the responsible strand parked, was killed or exited, its place left the partition, or the upstream handle broke -/
  | lost (reason : Nat) (cause : BitVec 8) (user : Word) (origin : Dword)
deriving DecidableEq, Repr

/-- The operation of an AMO or a RED that crosses a link (R202): the one that RED's field gives, a swap, or a compare and swap. -/
inductive FrameAmo where
  | red (op : BitVec 3) (signed : Bool)
  | swap
  | cas (expected : Dword)
deriving DecidableEq, Repr

/-- An access to this device's memory by a strand of another one (R118, R394): a read, bytes, a granule with its tag, an AMO or RED of one
word, or a state operation, which leaves its word as its own law, law table and clocks give it there. -/
inductive FrameOp where
  | read (count : Nat)
  | write (bytes : List Byte) (taint : Bool)
  | writeCap (value : FrameVal)
  | amo (op : FrameAmo) (wide : Bool) (operand : Dword) (taint : Bool)
  | state (word : Qword) (taint : Bool)
deriving DecidableEq, Repr

/-- What a Dziac frame carries to this device (R393, R394): a memory access by a strand of another device, or a message of its source
number for a handle id, with its sequence number (R299). -/
inductive FrameBody where
  | access (addr : Nat) (op : FrameOp)
  | handle (src seq : Nat) (id : Dword) (msg : FrameMsg)
deriving DecidableEq, Repr

/-- A Dziac frame (R393): the sending device, its partition set, and what it carries. -/
structure Frame where
  device : Nat
  dset : Nat
  body : FrameBody
deriving DecidableEq, Repr

/-- The instructions and events of the SK-96. -/
inductive Instr where
  /-- ADD (R168): gD := gA + gB modulo 2^64. -/
  | add (d : GIdx) (a : GIdx) (b : GIdx)
  /-- SUB (R168): gD := gA − gB modulo 2^64. -/
  | sub (d : GIdx) (a : GIdx) (b : GIdx)
  /-- MUL (R168): gD := low 64 bits of gA × gB. -/
  | mul (d : GIdx) (a : GIdx) (b : GIdx)
  /-- MULH (R168): gD := high 64 bits of the signed 128-bit product. -/
  | mulh (d : GIdx) (a : GIdx) (b : GIdx)
  /-- MULHZ (R168): gD := high 64 bits of the unsigned 128-bit product. -/
  | mulhz (d : GIdx) (a : GIdx) (b : GIdx)
  /-- ADDW (R168): gD := sign-extended 32-bit sum. -/
  | addw (d : GIdx) (a : GIdx) (b : GIdx)
  /-- SUBW (R168): gD := sign-extended 32-bit difference. -/
  | subw (d : GIdx) (a : GIdx) (b : GIdx)
  /-- NEG (R168): gD := 0 − gA modulo 2^64. -/
  | neg (d : GIdx) (a : GIdx)
  /-- DIV (R168): Signed 64-bit quotient under R59. -/
  | div (d : GIdx) (a : GIdx) (b : GIdx)
  /-- DIVZ (R168): Unsigned 64-bit quotient under R59. -/
  | divz (d : GIdx) (a : GIdx) (b : GIdx)
  /-- REM (R168): Signed 64-bit remainder under R59. -/
  | rem (d : GIdx) (a : GIdx) (b : GIdx)
  /-- REMZ (R168): Unsigned 64-bit remainder under R59. -/
  | remz (d : GIdx) (a : GIdx) (b : GIdx)
  /-- MIN (R168): Signed minimum. -/
  | min (d : GIdx) (a : GIdx) (b : GIdx)
  /-- MAX (R168): Signed maximum. -/
  | max (d : GIdx) (a : GIdx) (b : GIdx)
  /-- MINZ (R168): Unsigned minimum. -/
  | minz (d : GIdx) (a : GIdx) (b : GIdx)
  /-- MAXZ (R168): Unsigned maximum. -/
  | maxz (d : GIdx) (a : GIdx) (b : GIdx)
  /-- AND (R168): Bitwise AND. -/
  | and (d : GIdx) (a : GIdx) (b : GIdx)
  /-- OR (R168): Bitwise OR. -/
  | or (d : GIdx) (a : GIdx) (b : GIdx)
  /-- XOR (R168): Bitwise XOR. -/
  | xor (d : GIdx) (a : GIdx) (b : GIdx)
  /-- ANDN (R168): gA AND NOT gB. -/
  | andn (d : GIdx) (a : GIdx) (b : GIdx)
  /-- ORN (R168): gA OR NOT gB. -/
  | orn (d : GIdx) (a : GIdx) (b : GIdx)
  /-- SHL (R168): Shift left by gB[5:0]. -/
  | shl (d : GIdx) (a : GIdx) (b : GIdx)
  /-- SHR (R168): Logical shift right by gB[5:0]. -/
  | shr (d : GIdx) (a : GIdx) (b : GIdx)
  /-- SAR (R168): Arithmetic shift right by gB[5:0]. -/
  | sar (d : GIdx) (a : GIdx) (b : GIdx)
  /-- ROL (R168): Rotate left by gB[5:0]. -/
  | rol (d : GIdx) (a : GIdx) (b : GIdx)
  /-- CLZ (R168): Count leading zeros. -/
  | clz (d : GIdx) (a : GIdx)
  /-- CTZ (R168): Count trailing zeros. -/
  | ctz (d : GIdx) (a : GIdx)
  /-- POPC (R168): Count set bits. -/
  | popc (d : GIdx) (a : GIdx)
  /-- BREV (R168): Reverse bit order. -/
  | brev (d : GIdx) (a : GIdx)
  /-- BSWAP (R168): Reverse byte order. -/
  | bswap (d : GIdx) (a : GIdx)
  /-- SEXT (R168): Sign-extend the low 8, 16 or 32 bits. -/
  | sext (d : GIdx) (a : GIdx) (w : BitVec 2)
  /-- ZEXT (R168): Zero-extend the low 8, 16 or 32 bits. -/
  | zext (d : GIdx) (a : GIdx) (w : BitVec 2)
  /-- ADDI (R169): gD := gA + sext(I9). -/
  | addi (d : GIdx) (a : GIdx) (i : BitVec 9)
  /-- ANDI (R169): gD := gA AND sext(I9). -/
  | andi (d : GIdx) (a : GIdx) (i : BitVec 9)
  /-- ORI (R169): gD := gA OR sext(I9). -/
  | ori (d : GIdx) (a : GIdx) (i : BitVec 9)
  /-- XORI (R169): gD := gA XOR sext(I9). -/
  | xori (d : GIdx) (a : GIdx) (i : BitVec 9)
  /-- SHLI (R169): Shift left by an immediate amount. -/
  | shli (d : GIdx) (a : GIdx) (i : GIdx)
  /-- SHRI (R169): Logical shift right by an immediate amount. -/
  | shri (d : GIdx) (a : GIdx) (i : GIdx)
  /-- SARI (R169): Arithmetic shift right by an immediate amount. -/
  | sari (d : GIdx) (a : GIdx) (i : GIdx)
  /-- ROLI (R169): Rotate left by an immediate amount. -/
  | roli (d : GIdx) (a : GIdx) (i : GIdx)
  /-- CMPI (R171): Compare gA with an immediate and write a predicate. -/
  | cmpi (p : PIdx) (c : PIdx) (a : GIdx) (i : BitVec 9)
  /-- CMP (R171): 64-bit compare into a predicate. -/
  | cmp (p : PIdx) (c : PIdx) (a : GIdx) (b : GIdx)
  /-- CMP_W (R171): 32-bit compare into a predicate. -/
  | cmpW (p : PIdx) (c : PIdx) (a : GIdx) (b : GIdx)
  /-- SEL (R172): Select gA or gB by a predicate bit. -/
  | sel (d : GIdx) (a : GIdx) (b : GIdx) (p : PIdx)
  /-- LI (R170): gD := sext(I15). -/
  | li (d : GIdx) (i : BitVec 15)
  /-- LIE (R170): gD := cat(e1, e0) + sext(I15). -/
  | lie (d : GIdx) (i : BitVec 15)
  /-- BFX (R173): Extract a signed bit field. -/
  | bfx (d : GIdx) (a : GIdx) (b : GIdx)
  /-- BFXZ (R173): Extract an unsigned bit field. -/
  | bfxz (d : GIdx) (a : GIdx) (b : GIdx)
  /-- BFI (R173): Insert a bit field into gD. -/
  | bfi (d : GIdx) (a : GIdx) (b : GIdx)
  /-- PAND (R174): Predicate AND. -/
  | pand (d : PIdx) (a : PIdx) (b : PIdx)
  /-- POR (R174): Predicate OR. -/
  | por (d : PIdx) (a : PIdx) (b : PIdx)
  /-- PXOR (R174): Predicate XOR. -/
  | pxor (d : PIdx) (a : PIdx) (b : PIdx)
  /-- PANDN (R174): Predicate AND NOT. -/
  | pandn (d : PIdx) (a : PIdx) (b : PIdx)
  /-- PNOT (R174): Predicate NOT. -/
  | pnot (d : PIdx) (a : PIdx)
  /-- PMOVG (R174): Move a predicate to a g register. -/
  | pmovg (d : GIdx) (a : PIdx)
  /-- PFROMG (R174): Move a g register to a predicate. -/
  | pfromg (d : PIdx) (a : GIdx)
  /-- PCNT (R174): Count set bits of a predicate. -/
  | pcnt (d : GIdx) (a : PIdx)
  /-- CADD (R175): Move a capability's address by gB, re-encoding its bounds. -/
  | cadd (d : GIdx) (a : GIdx) (b : GIdx)
  /-- CSETB (R176): Narrow a capability's bounds, or a seal key's type range. -/
  | csetb (d : GIdx) (a : GIdx) (b : GIdx)
  /-- CANDP (R175): Remove permissions from a capability. -/
  | candp (d : GIdx) (a : GIdx) (b : GIdx)
  /-- CGET (R177): Read one property of a capability as data. -/
  | cget (d : GIdx) (a : GIdx) (s : GIdx)
  /-- CSEAL (R178): Seal a capability with an object type under a seal key. -/
  | cseal (d : GIdx) (a : GIdx) (b : GIdx)
  /-- CUNSEAL (R178): Unseal a capability under a seal key. -/
  | cunseal (d : GIdx) (a : GIdx) (b : GIdx)
  /-- CTAG (R179): Re-tag a capability pattern under a covering authority. -/
  | ctag (d : GIdx) (a : GIdx) (b : GIdx)
  /-- CCLR (R175): Copy a register with its tag cleared. -/
  | cclr (d : GIdx) (a : GIdx)
  /-- CADDI (R175): Move a capability's address by an immediate. -/
  | caddi (d : GIdx) (a : GIdx) (i : BitVec 9)
  /-- MOV (R180): Copy all 128 bits with tag and taint. -/
  | mov (d : GIdx) (a : GIdx)
  /-- MOVE (R180): Move gA[31:0] to an e register. -/
  | move (d : PIdx) (a : GIdx)
  /-- MOVG (R180): Move an e register to a g register. -/
  | movg (d : GIdx) (a : PIdx)
  /-- VINS (R180): Insert gA[31:0] into one lane of a v register. -/
  | vins (d : VIdx) (a : GIdx) (b : GIdx)
  /-- VEXT (R180): Extract one lane of a v register into gD. -/
  | vext (d : GIdx) (a : VIdx) (b : GIdx)
  /-- VBCG (R180): Broadcast gA[31:0] to every lane. -/
  | vbcg (d : VIdx) (a : GIdx)
  /-- DADD (R181): binary64 addition. -/
  | dadd (d : GIdx) (a : GIdx) (b : GIdx)
  /-- DSUB (R181): binary64 subtraction. -/
  | dsub (d : GIdx) (a : GIdx) (b : GIdx)
  /-- DMUL (R181): binary64 multiplication. -/
  | dmul (d : GIdx) (a : GIdx) (b : GIdx)
  /-- DDIV (R181): binary64 division. -/
  | ddiv (d : GIdx) (a : GIdx) (b : GIdx)
  /-- DMIN (R181): binary64 minimumNumber. -/
  | dmin (d : GIdx) (a : GIdx) (b : GIdx)
  /-- DMAX (R181): binary64 maximumNumber. -/
  | dmax (d : GIdx) (a : GIdx) (b : GIdx)
  /-- DSQRT (R181): binary64 square root. -/
  | dsqrt (d : GIdx) (a : GIdx)
  /-- DFMA (R181): binary64 fused multiply-add into gD. -/
  | dfma (d : GIdx) (a : GIdx) (b : GIdx)
  /-- FADD (R181): binary32 addition. -/
  | fadd (d : GIdx) (a : GIdx) (b : GIdx)
  /-- FSUB (R181): binary32 subtraction. -/
  | fsub (d : GIdx) (a : GIdx) (b : GIdx)
  /-- FMUL (R181): binary32 multiplication. -/
  | fmul (d : GIdx) (a : GIdx) (b : GIdx)
  /-- FDIV (R181): binary32 division. -/
  | fdiv (d : GIdx) (a : GIdx) (b : GIdx)
  /-- FMIN (R181): binary32 minimumNumber. -/
  | fmin (d : GIdx) (a : GIdx) (b : GIdx)
  /-- FMAX (R181): binary32 maximumNumber. -/
  | fmax (d : GIdx) (a : GIdx) (b : GIdx)
  /-- FSQRT (R181): binary32 square root. -/
  | fsqrt (d : GIdx) (a : GIdx)
  /-- FFMA (R181): binary32 fused multiply-add into gD. -/
  | ffma (d : GIdx) (a : GIdx) (b : GIdx)
  /-- D2I (R182): binary64 to signed 64-bit integer. -/
  | d2i (d : GIdx) (a : GIdx)
  /-- I2D (R182): Signed 64-bit integer to binary64. -/
  | i2d (d : GIdx) (a : GIdx)
  /-- F2D (R182): binary32 to binary64. -/
  | f2d (d : GIdx) (a : GIdx)
  /-- D2F (R182): binary64 to binary32. -/
  | d2f (d : GIdx) (a : GIdx)
  /-- F2I (R182): binary32 to signed 64-bit integer. -/
  | f2i (d : GIdx) (a : GIdx)
  /-- I2F (R182): Signed 64-bit integer to binary32. -/
  | i2f (d : GIdx) (a : GIdx)
  /-- D2Z (R182): binary64 to unsigned 64-bit integer. -/
  | d2z (d : GIdx) (a : GIdx)
  /-- Z2D (R182): Unsigned 64-bit integer to binary64. -/
  | z2d (d : GIdx) (a : GIdx)
  /-- FCMP_D (R183): binary64 compare into a predicate. -/
  | fcmpD (p : PIdx) (c : PIdx) (a : GIdx) (b : GIdx)
  /-- FCMP_S (R183): binary32 compare into a predicate. -/
  | fcmpS (p : PIdx) (c : PIdx) (a : GIdx) (b : GIdx)
  /-- BR (R184): Unconditional PC-relative branch. -/
  | br (i : BitVec 21)
  /-- CALL (R184): Branch and write the link to g1. -/
  | call (i : BitVec 21)
  /-- BRC (R184): Branch when bit 0 of a predicate differs from N. -/
  | brc (p : PIdx) (n : Bool) (i : BitVec 17)
  /-- JR (R186): Jump through a code capability. -/
  | jr (a : GIdx)
  /-- JALR (R186): Jump through a capability and write the link. -/
  | jalr (d : GIdx) (a : GIdx)
  /-- RET (R186): Jump through g1. -/
  | ret
  /-- LOOP (R184): Decrement gD and branch while nonzero. -/
  | loop (d : GIdx) (i : BitVec 9)
  /-- REP (R188): Repeat the following vector or matrix body with staggered v registers. -/
  | rep (a : GIdx) (s : GIdx) (l : PIdx)
  /-- FOLLOW (R190): Create a follow group led by this strand. -/
  | follow (a : GIdx) (i : GIdx)
  /-- DETACH (R190): Detach an attached follower from its leader's stream. -/
  | detach
  /-- RJOIN (R37): Wait to re-attach to, or join, a follow group. -/
  | rjoin (i : GIdx)
  /-- FQUIT (R190): Leave a follow group, or end it when executed by the leader. -/
  | fquit
  /-- SPAWN (R191): Create a child strand in a free slot with copied g registers. -/
  | spawn (a : GIdx) (b : GIdx)
  /-- SPAWNC (R191): As SPAWN, also copying a range of v registers. -/
  | spawnc (a : GIdx) (b : GIdx)
  /-- ENQG (R192): Push a task record to the device-wide queue segment of its key. -/
  | enqg (a : GIdx)
  /-- ENQL (R192): Push a task record to a core's ready ring in the cluster. -/
  | enql (a : GIdx) (b : GIdx)
  /-- JDEC (R193): Decrement a join counter and push its record when it reaches zero. -/
  | jdec (d : GIdx) (a : GIdx)
  /-- EXIT (R194): End the strand under R31. -/
  | exit
  /-- YIELD (R194): Forgo the next issue turn. -/
  | yield
  /-- NOP (R194): No effect. -/
  | nop
  /-- SLEEP (R194): Wait until 2^k ns of TIME have passed. -/
  | sleep (k : GIdx)
  /-- LD (R196): Scalar load of 1, 2, 4 or 8 bytes, sign- or zero-extended. -/
  | ld (d : GIdx) (a : GIdx) (z : BitVec 2) (x : Bool) (i : GIdx)
  /-- ST (R196): Scalar store of 1, 2, 4 or 8 bytes. -/
  | st (d : GIdx) (a : GIdx) (z : BitVec 2) (i : GIdx)
  /-- LDQ (R197): 16-byte load, tag cleared. -/
  | ldq (d : GIdx) (a : GIdx) (b : GIdx)
  /-- STQ (R197): 16-byte store, granule tag cleared. -/
  | stq (d : GIdx) (a : GIdx) (b : GIdx)
  /-- LDC (R197): Load a capability with its tag when permitted. -/
  | ldc (d : GIdx) (a : GIdx) (b : GIdx)
  /-- STC (R54): Store a capability with its tag under the STC rules. -/
  | stc (d : GIdx) (a : GIdx) (b : GIdx)
  /-- LDX (R197): Indexed 64-bit load. -/
  | ldx (d : GIdx) (a : GIdx) (b : GIdx)
  /-- STX (R197): Indexed 64-bit store. -/
  | stx (d : GIdx) (a : GIdx) (b : GIdx)
  /-- PREF (R197): Prefetch a line into L1 or its L2 home. -/
  | pref (l : Bool) (a : GIdx) (b : GIdx)
  /-- LDA (R200): Acquire load at a scope. -/
  | lda (d : GIdx) (a : GIdx) (w : BitVec 2) (f : PIdx)
  /-- STL (R200): Release store at a scope. -/
  | stl (d : GIdx) (a : GIdx) (w : BitVec 2) (f : PIdx)
  /-- AMOADD (R201): Atomic add at the word's serialising point. -/
  | amoadd (d : GIdx) (a : GIdx) (b : GIdx) (f : PIdx)
  /-- AMOAND (R201): Atomic AND. -/
  | amoand (d : GIdx) (a : GIdx) (b : GIdx) (f : PIdx)
  /-- AMOOR (R201): Atomic OR. -/
  | amoor (d : GIdx) (a : GIdx) (b : GIdx) (f : PIdx)
  /-- AMOXOR (R201): Atomic XOR. -/
  | amoxor (d : GIdx) (a : GIdx) (b : GIdx) (f : PIdx)
  /-- AMOMIN (R201): Atomic minimum. -/
  | amomin (d : GIdx) (a : GIdx) (b : GIdx) (f : PIdx)
  /-- AMOMAX (R201): Atomic maximum. -/
  | amomax (d : GIdx) (a : GIdx) (b : GIdx) (f : PIdx)
  /-- AMOSWAP (R201): Atomic swap, up to 16 B with tag. -/
  | amoswap (d : GIdx) (a : GIdx) (b : GIdx) (f : PIdx)
  /-- AMOCAS (R201): Atomic compare-and-swap, result in p7. -/
  | amocas (d : GIdx) (a : GIdx) (b : GIdx) (f : PIdx)
  /-- AMOFADD (R201): Atomic binary64 add, a taint source. -/
  | amofadd (d : GIdx) (a : GIdx) (b : GIdx) (f : PIdx)
  /-- RED (R202): Non-returning reduction applied at the home, possibly combined. -/
  | red (o : PIdx) (a : GIdx) (b : GIdx) (f : PIdx)
  /-- FENCE_ACQ (R203): Acquire fence at a scope. -/
  | fenceAcq (s : PIdx)
  /-- FENCE_REL (R203): Release fence at a scope, flushing combining entries. -/
  | fenceRel (s : PIdx)
  /-- FENCE_FULL (R203): Full fence at a scope. -/
  | fenceFull (s : PIdx)
  /-- FENCE_CLEAN (R203): Write a line's dirty bytes to the scope's completion point. -/
  | fenceClean (a : GIdx) (s : PIdx)
  /-- FENCE_INV (R203): Drop the core's L1 copy of a line, discarding dirty bytes. -/
  | fenceInv (a : GIdx) (s : PIdx)
  /-- FENCE_CLEANINV (R203): Clean then invalidate a line. -/
  | fenceCleaninv (a : GIdx) (s : PIdx)
  /-- WAIT (R199): Wait until the outstanding counters fall to their limits. -/
  | wait (l : VIdx) (s : VIdx) (c : VIdx) (t : VIdx)
  /-- WAITA (R204): Wait until a memory word meets a condition. -/
  | waita (s : PIdx) (c : PIdx) (a : GIdx) (b : GIdx) (k : PIdx)
  /-- BINIT (R206): Initialise a barrier word with its expected count. -/
  | binit (a : GIdx) (b : GIdx)
  /-- BARR (R206): Arrive at a barrier. -/
  | barr (d : GIdx) (a : GIdx)
  /-- BARB (R206): Arrive and add expected bytes to a barrier. -/
  | barb (d : GIdx) (a : GIdx) (b : GIdx)
  /-- BWAIT (R206): Wait for a barrier phase to flip. -/
  | bwait (a : GIdx) (b : GIdx)
  /-- BARW (R206): Arrive at a barrier and wait for the phase. -/
  | barw (d : GIdx) (a : GIdx)
  /-- BDROP (R206): Decrease a barrier's expected count. -/
  | bdrop (a : GIdx)
  /-- CPDN (R243): Read a channel's CPDONE value and test an id. -/
  | cpdn (d : GIdx) (a : GIdx) (c : PIdx)
  /-- WAITID (R243): Wait until a copy transfer id has completed. -/
  | waitid (a : GIdx) (c : PIdx)
  /-- CPERR (R243): Read and clear a channel's error record. -/
  | cperr (d : GIdx) (c : PIdx)
  /-- COPY (R238): Push a linear copy command to the quad's copy engine. -/
  | copy (d : GIdx) (a : GIdx) (b : GIdx)
  /-- COPY2 (R238): Push a strided two-dimensional copy. -/
  | copy2 (d : GIdx) (a : GIdx) (b : GIdx)
  /-- COPYP (R240): Pack codes into an operand buffer. -/
  | copyp (d : GIdx) (a : GIdx) (b : GIdx)
  /-- COPYZ (R241): Expand compressed codes into an operand buffer. -/
  | copyz (d : GIdx) (a : GIdx) (b : GIdx)
  /-- COPYF (R239): Copy, then write a completion flag. -/
  | copyf (d : GIdx) (a : GIdx) (b : GIdx)
  /-- COPYT (R242): Copy, then issue a carried TMMA. -/
  | copyt (d : GIdx) (a : GIdx) (b : GIdx)
  /-- COPYB (R239): Copy, crediting each landed byte to a barrier. -/
  | copyb (d : GIdx) (a : GIdx) (b : GIdx)
  /-- STMR (R245): Make v28–v31 a read stream over a pattern. -/
  | stmr (d : VIdx) (a : GIdx)
  /-- STMW (R245): Make v28–v31 a write stream over a pattern. -/
  | stmw (d : VIdx) (a : GIdx)
  /-- STMX (R245): Read a stream's status. -/
  | stmx (d : GIdx) (a : VIdx)
  /-- STMD (R245): End a stream. -/
  | stmd (a : VIdx)
  /-- GATH (R247): Gather elements by an index list. -/
  | gath (d : GIdx) (a : GIdx) (b : GIdx)
  /-- GATHS (R247): Gather reading each 64-B line once. -/
  | gaths (d : GIdx) (a : GIdx) (b : GIdx)
  /-- SCAT (R247): Scatter elements by an index list. -/
  | scat (d : GIdx) (a : GIdx) (b : GIdx)
  /-- SCATA (R247): Scatter-add at each indexed word's home. -/
  | scata (d : GIdx) (a : GIdx) (b : GIdx)
  /-- SCATO (R250): Append scatter entries to a log area. -/
  | scato (d : GIdx) (a : GIdx) (b : GIdx)
  /-- LOGM (R251): Merge a log area deterministically into its targets. -/
  | logm (a : GIdx)
  /-- GREST (R249): Reissue a partial gather or scatter for unfinished elements. -/
  | grest (d : GIdx) (a : GIdx) (b : GIdx)
  /-- VFADD (R210): binary32 lane addition. -/
  | vfadd (d : VIdx) (a : VIdx) (b : VIdx) (m : PIdx)
  /-- VFSUB (R210): binary32 lane subtraction. -/
  | vfsub (d : VIdx) (a : VIdx) (b : VIdx) (m : PIdx)
  /-- VFMUL (R210): binary32 lane multiplication. -/
  | vfmul (d : VIdx) (a : VIdx) (b : VIdx) (m : PIdx)
  /-- VFDIV (R210): binary32 lane division. -/
  | vfdiv (d : VIdx) (a : VIdx) (b : VIdx) (m : PIdx)
  /-- VFMIN (R210): binary32 lane minimumNumber. -/
  | vfmin (d : VIdx) (a : VIdx) (b : VIdx) (m : PIdx)
  /-- VFMAX (R210): binary32 lane maximumNumber. -/
  | vfmax (d : VIdx) (a : VIdx) (b : VIdx) (m : PIdx)
  /-- VFABS (R210): binary32 lane absolute value. -/
  | vfabs (d : VIdx) (a : VIdx) (m : PIdx)
  /-- VFNEG (R210): binary32 lane negation. -/
  | vfneg (d : VIdx) (a : VIdx) (m : PIdx)
  /-- VFMA (R210): Lane fused a × b + d. -/
  | vfma (d : VIdx) (a : VIdx) (b : VIdx) (m : PIdx)
  /-- VFMS (R210): Lane fused a × b − d. -/
  | vfms (d : VIdx) (a : VIdx) (b : VIdx) (m : PIdx)
  /-- VFNMA (R210): Lane fused d − a × b. -/
  | vfnma (d : VIdx) (a : VIdx) (b : VIdx) (m : PIdx)
  /-- VFSQRT (R210): Lane square root. -/
  | vfsqrt (d : VIdx) (a : VIdx) (m : PIdx)
  /-- VFRSQ (R66): Correctly rounded lane reciprocal square root. -/
  | vfrsq (d : VIdx) (a : VIdx) (m : PIdx)
  /-- VFRCP (R66): Correctly rounded lane reciprocal. -/
  | vfrcp (d : VIdx) (a : VIdx) (m : PIdx)
  /-- VFEX2 (R66): Correctly rounded lane 2^x. -/
  | vfex2 (d : VIdx) (a : VIdx) (m : PIdx)
  /-- VFLG2 (R66): Correctly rounded lane log2 x. -/
  | vflg2 (d : VIdx) (a : VIdx) (m : PIdx)
  /-- VBADD (R211): Packed bfloat16 addition. -/
  | vbadd (d : VIdx) (a : VIdx) (b : VIdx) (m : PIdx)
  /-- VBMUL (R211): Packed bfloat16 multiplication. -/
  | vbmul (d : VIdx) (a : VIdx) (b : VIdx) (m : PIdx)
  /-- VBFMA (R211): Packed bfloat16 fused multiply-add. -/
  | vbfma (d : VIdx) (a : VIdx) (b : VIdx) (m : PIdx)
  /-- VHADD (R211): Packed binary16 addition. -/
  | vhadd (d : VIdx) (a : VIdx) (b : VIdx) (m : PIdx)
  /-- VHMUL (R211): Packed binary16 multiplication. -/
  | vhmul (d : VIdx) (a : VIdx) (b : VIdx) (m : PIdx)
  /-- VHFMA (R211): Packed binary16 fused multiply-add. -/
  | vhfma (d : VIdx) (a : VIdx) (b : VIdx) (m : PIdx)
  /-- VADD (R212): 32-bit lane integer addition. -/
  | vadd (d : VIdx) (a : VIdx) (b : VIdx) (m : PIdx)
  /-- VSUB (R212): 32-bit lane integer subtraction. -/
  | vsub (d : VIdx) (a : VIdx) (b : VIdx) (m : PIdx)
  /-- VMUL (R212): 32-bit lane integer multiplication. -/
  | vmul (d : VIdx) (a : VIdx) (b : VIdx) (m : PIdx)
  /-- VMIN (R212): Signed lane minimum. -/
  | vmin (d : VIdx) (a : VIdx) (b : VIdx) (m : PIdx)
  /-- VMAX (R212): Signed lane maximum. -/
  | vmax (d : VIdx) (a : VIdx) (b : VIdx) (m : PIdx)
  /-- VMINZ (R212): Unsigned lane minimum. -/
  | vminz (d : VIdx) (a : VIdx) (b : VIdx) (m : PIdx)
  /-- VMAXZ (R212): Unsigned lane maximum. -/
  | vmaxz (d : VIdx) (a : VIdx) (b : VIdx) (m : PIdx)
  /-- VABS (R212): Lane integer absolute value. -/
  | vabs (d : VIdx) (a : VIdx) (m : PIdx)
  /-- VAND (R212): Lane AND. -/
  | vand (d : VIdx) (a : VIdx) (b : VIdx) (m : PIdx)
  /-- VOR (R212): Lane OR. -/
  | vor (d : VIdx) (a : VIdx) (b : VIdx) (m : PIdx)
  /-- VXOR (R212): Lane XOR. -/
  | vxor (d : VIdx) (a : VIdx) (b : VIdx) (m : PIdx)
  /-- VANDN (R212): Lane AND NOT. -/
  | vandn (d : VIdx) (a : VIdx) (b : VIdx) (m : PIdx)
  /-- VSHL (R212): Lane shift left. -/
  | vshl (d : VIdx) (a : VIdx) (b : VIdx) (m : PIdx)
  /-- VSHR (R212): Lane logical shift right. -/
  | vshr (d : VIdx) (a : VIdx) (b : VIdx) (m : PIdx)
  /-- VSAR (R212): Lane arithmetic shift right. -/
  | vsar (d : VIdx) (a : VIdx) (b : VIdx) (m : PIdx)
  /-- VNOT (R212): Lane NOT. -/
  | vnot (d : VIdx) (a : VIdx) (m : PIdx)
  /-- VFCMP (R213): Floating lane compare into a predicate. -/
  | vfcmp (p : PIdx) (a : VIdx) (b : VIdx) (m : PIdx) (c : PIdx)
  /-- VICMP (R213): Integer lane compare into a predicate. -/
  | vicmp (p : PIdx) (a : VIdx) (b : VIdx) (m : PIdx) (c : PIdx)
  /-- VSEL (R214): Select lanes of vA or vB by a predicate. -/
  | vsel (d : VIdx) (a : VIdx) (b : VIdx) (m : PIdx)
  /-- VPRM (R214): Permute lanes of vA by indices in vB. -/
  | vprm (d : VIdx) (a : VIdx) (b : VIdx) (m : PIdx)
  /-- VZIP (R214): Interleave two vectors. -/
  | vzip (d : VIdx) (a : VIdx) (b : VIdx) (m : PIdx)
  /-- VUNZ (R214): De-interleave two vectors. -/
  | vunz (d : VIdx) (a : VIdx) (b : VIdx) (m : PIdx)
  /-- VSLD (R214): Slide lanes across vA and vB by e0[5:0]. -/
  | vsld (d : VIdx) (a : VIdx) (b : VIdx) (m : PIdx)
  /-- VCMPR (R214): Compress active lanes to the bottom. -/
  | vcmpr (d : VIdx) (a : VIdx) (m : PIdx)
  /-- VEXPD (R214): Expand low lanes into active lanes. -/
  | vexpd (d : VIdx) (a : VIdx) (m : PIdx)
  /-- VMOV (R214): Masked vector copy. -/
  | vmov (d : VIdx) (a : VIdx) (m : PIdx)
  /-- VRADD (R215): Tree reduction sum into lane 0. -/
  | vradd (d : VIdx) (a : VIdx) (m : PIdx)
  /-- VRMAX (R215): Maximum reduction into lane 0. -/
  | vrmax (d : VIdx) (a : VIdx) (m : PIdx)
  /-- VRMIN (R215): Minimum reduction into lane 0. -/
  | vrmin (d : VIdx) (a : VIdx) (m : PIdx)
  /-- VRIADD (R215): Integer sum reduction modulo 2^32. -/
  | vriadd (d : VIdx) (a : VIdx) (m : PIdx)
  /-- VSCAN (R215): Inclusive binary32 prefix scan. -/
  | vscan (d : VIdx) (a : VIdx) (m : PIdx)
  /-- VISCAN (R215): Inclusive integer prefix scan. -/
  | viscan (d : VIdx) (a : VIdx) (m : PIdx)
  /-- VDOT (R215): Tree dot product into lane 0. -/
  | vdot (d : VIdx) (a : VIdx) (b : VIdx) (m : PIdx)
  /-- VDEC (R216): Decode codes through a table slot to binary32. -/
  | vdec (d : VIdx) (a : VIdx) (s : BitVec 2) (q : BitVec 2) (m : PIdx)
  /-- VENC (R216): Encode binary32 lanes into codes through slot 2. -/
  | venc (d : VIdx) (a : VIdx) (q : BitVec 2) (m : PIdx)
  /-- VF2B (R216): Narrow binary32 to bfloat16. -/
  | vf2b (d : VIdx) (a : VIdx) (b : VIdx) (m : PIdx)
  /-- VB2F (R216): Widen bfloat16 to binary32. -/
  | vb2f (d : VIdx) (a : VIdx) (x : Bool) (m : PIdx)
  /-- VF2H (R216): Narrow binary32 to binary16. -/
  | vf2h (d : VIdx) (a : VIdx) (b : VIdx) (m : PIdx)
  /-- VH2F (R216): Widen binary16 to binary32. -/
  | vh2f (d : VIdx) (a : VIdx) (x : Bool) (m : PIdx)
  /-- VI2F (R216): Signed 32-bit integer lanes to binary32. -/
  | vi2f (d : VIdx) (a : VIdx) (m : PIdx)
  /-- VF2I (R216): binary32 lanes to signed 32-bit integers. -/
  | vf2i (d : VIdx) (a : VIdx) (m : PIdx)
  /-- VLD (R217): Contiguous vector load. -/
  | vld (d : VIdx) (a : GIdx) (b : GIdx)
  /-- VST (R217): Contiguous vector store. -/
  | vst (d : VIdx) (a : GIdx) (b : GIdx)
  /-- VLDS (R217): Strided vector load. -/
  | vlds (d : VIdx) (a : GIdx) (b : GIdx)
  /-- VSTS (R217): Strided vector store. -/
  | vsts (d : VIdx) (a : GIdx) (b : GIdx)
  /-- VLDX (R217): Indexed vector load. -/
  | vldx (d : VIdx) (a : GIdx) (b : VIdx)
  /-- VSTX (R217): Indexed vector store. -/
  | vstx (d : VIdx) (a : GIdx) (b : VIdx)
  /-- VLDB (R217): Broadcast load of one element. -/
  | vldb (d : VIdx) (a : GIdx) (b : GIdx)
  /-- TMMA (R224): Matrix multiply-accumulate of operand buffers into a tile. -/
  | tmma (n : BitVec 2) (z : Bool) (hBit : Bool) (c : Bool) (a : GIdx) (b : GIdx)
  /-- TZERO (R231): Set a tile to +0 and clear its taint. -/
  | tzero (n : BitVec 2)
  /-- TZERO_R (R219): Free a tile. -/
  | tzeroR (n : BitVec 2)
  /-- TST (R232): Store a tile region as binary32. -/
  | tst (n : BitVec 2) (a : GIdx) (b : GIdx)
  /-- TST_BF (R232): Store a tile region as bfloat16. -/
  | tstBf (n : BitVec 2) (a : GIdx) (b : GIdx)
  /-- TST_CD (R232): Store a tile region as codes through slot 2. -/
  | tstCd (n : BitVec 2) (a : GIdx) (b : GIdx)
  /-- TCVT (R232): Write a tile region as an operand buffer. -/
  | tcvt (n : BitVec 2) (a : GIdx)
  /-- TLD (R231): Load a tile region from binary32. -/
  | tld (n : BitVec 2) (a : GIdx) (b : GIdx)
  /-- TLD_BF (R231): Load a tile region from bfloat16. -/
  | tldBf (n : BitVec 2) (a : GIdx) (b : GIdx)
  /-- TCMT (R41): Commit the shadow accumulator into the tile. -/
  | tcmt (n : BitVec 2)
  /-- TDSC (R41): Discard the shadow accumulator. -/
  | tdsc (n : BitVec 2)
  /-- TADD (R231): Add binary32 elements from memory into a tile. -/
  | tadd (n : BitVec 2) (a : GIdx) (b : GIdx)
  /-- TBLD (R234): Load and validate a decode table into a slot. -/
  | tbld (s : BitVec 2) (a : GIdx)
  /-- TBST (R234): Store a slot's decode-table image. -/
  | tbst (s : BitVec 2) (a : GIdx)
  /-- TBINF (R234): Read a slot's table summary. -/
  | tbinf (d : GIdx) (s : BitVec 2)
  /-- SRD (R255): Read a state word advanced to now, storing nothing. -/
  | srd (d : GIdx) (a : GIdx)
  /-- SADV (R255): Advance and re-anchor a state word. -/
  | sadv (d : GIdx) (a : GIdx)
  /-- SUPD (R98): Advance to an event tick, add an input and re-anchor. -/
  | supd (d : GIdx) (a : GIdx) (b : GIdx)
  /-- SSET (R255): Set a state word's values and law at the current tick. -/
  | sset (a : GIdx) (b : GIdx)
  /-- SARM (R258): Arm a state word and predict its crossing. -/
  | sarm (d : GIdx) (a : GIdx)
  /-- SDIS (R255): Disarm a state word and remove its calendar entry. -/
  | sdis (d : GIdx) (a : GIdx)
  /-- SSWP (R259): Register or withdraw a state region with the sweeper. -/
  | sswp (a : GIdx) (b : GIdx)
  /-- SRAW (R257): Read a state word raw or advanced, all 128 bits. -/
  | sraw (d : GIdx) (a : GIdx) (m : GIdx)
  /-- VSRD (R261): Read 64 state words' advanced V0 into lanes. -/
  | vsrd (d : VIdx) (a : GIdx)
  /-- VSADV (R261): Advance and re-anchor 64 state words. -/
  | vsadv (d : VIdx) (a : GIdx)
  /-- VSUPD (R261): Update 64 state words with lane inputs. -/
  | vsupd (d : VIdx) (a : GIdx) (b : VIdx)
  /-- VSRDY (R261): Read 64 state words' advanced V1 into lanes. -/
  | vsrdy (d : VIdx) (a : GIdx)
  /-- SLAW (R264): Make a changed law entry effective at every home unit. -/
  | slaw (a : GIdx)
  /-- SCLKR (R263): Read the crew's logical clock. -/
  | sclkr (d : GIdx)
  /-- SCLKW (R265): Set the crew's logical clock and wait for due firings. -/
  | sclkw (a : GIdx)
  /-- SCLKA (R265): Advance the crew's logical clock and wait for due firings. -/
  | sclka (d : GIdx) (a : GIdx)
  /-- EVPOP (R266): Take the least record from the crew's event queue. -/
  | evpop (a : GIdx)
  /-- EVWAIT (R263): Wait until the crew's event queue holds a record. -/
  | evwait
  /-- STIME (R263): Read TIME shifted by STICK.K, tainted. -/
  | stime (d : GIdx)
  /-- CHBND (R270): Bind a chain descriptor and start its stages. -/
  | chbnd (d : GIdx) (a : GIdx) (b : GIdx)
  /-- CHFLD (R284): Ask January to fold a chain and wait. -/
  | chfld (a : GIdx)
  /-- CHSPR (R284): Ask January to spread a chain and wait. -/
  | chspr (a : GIdx)
  /-- CHEQ (R284): Mark an equivalence-point boundary in a stage. -/
  | cheq (d : GIdx) (a : GIdx)
  /-- CHST (R285): Read chain or pipe status, or a pipe end. -/
  | chst (d : GIdx) (a : GIdx) (b : GIdx)
  /-- CHEND (R284): Close a pipe normally or as broken. -/
  | chend (a : GIdx) (p : PIdx) (k : Bool)
  /-- CHWT (R284): Wait until a chain has ended and free its state. -/
  | chwt (d : GIdx) (a : GIdx)
  /-- GET (R281): Take the next g item from a pipe, waiting or switching. -/
  | get (d : GIdx) (p : PIdx)
  /-- PUT (R281): Send a g item into a pipe, waiting or switching. -/
  | put (d : GIdx) (p : PIdx)
  /-- GETT (R281): Take a pipe item without waiting. -/
  | gett (d : GIdx) (p : PIdx)
  /-- PUTT (R281): Send a pipe item without waiting. -/
  | putt (d : GIdx) (p : PIdx)
  /-- VGET (R281): Take a v item from a pipe. -/
  | vget (d : VIdx) (p : PIdx)
  /-- VPUT (R281): Send a v item into a pipe. -/
  | vput (d : VIdx) (p : PIdx)
  /-- GETE (R282): Take an item or learn that the pipe has ended. -/
  | gete (d : GIdx) (p : PIdx)
  /-- INVOKE (R294): Invoke a service and return a handle at once. -/
  | invoke (d : GIdx) (a : GIdx)
  /-- INVON (R295): Run code on an upstream handle's value once it resolves. -/
  | invon (d : GIdx) (a : GIdx) (b : GIdx)
  /-- INVAT (R294): Invoke a service with an explicit placement word. -/
  | invat (d : GIdx) (a : GIdx) (b : GIdx)
  /-- SENDH (R294): Send a message to a handle. -/
  | sendh (a : GIdx) (b : GIdx)
  /-- AWAIT (R297): Wait for a handle to resolve; breakage reported in p7. -/
  | await (d : GIdx) (a : GIdx)
  /-- AWAITT (R297): Wait for a handle; breakage traps with cause 0x0B. -/
  | awaitt (d : GIdx) (a : GIdx)
  /-- POLLH (R297): Test a handle without waiting. -/
  | pollh (d : GIdx) (a : GIdx)
  /-- HDROP (R297): Drop a handle so its entry frees on resolution. -/
  | hdrop (a : GIdx)
  /-- HBIND (R297): Bind a mailbox to a handle and take responsibility. -/
  | hbind (a : GIdx) (b : GIdx)
  /-- HFUL (R297): Fulfil a handle with a value. -/
  | hful (a : GIdx) (b : GIdx)
  /-- HBRK (R297): Break a handle explicitly. -/
  | hbrk (a : GIdx) (b : GIdx)
  /-- HSTAT (R297): Read a handle's state and reason. -/
  | hstat (d : GIdx) (a : GIdx)
  /-- EXT (R303): Load a 16-bit half of an e register. -/
  | ext (k : PIdx) (w : Bool) (i : BitVec 16)
  /-- CSRR (R304): Read a control register. -/
  | csrr (d : GIdx) (i : BitVec 15)
  /-- CSRW (R304): Write a control register's RW fields. -/
  | csrw (d : GIdx) (i : BitVec 15)
  /-- TRAP (R308): Take a deliberate trap with the cause in A. -/
  | trap (a : GIdx)
  /-- ERET (R308): Return from a trap handler to TEPC. -/
  | eret
  /-- SRET (R308): Resume or kill a PARKED strand of the partition. -/
  | sret (d : GIdx) (a : GIdx)
  /-- ECALL (R308): Park the strand and post a call record to the supervisor. -/
  | ecall
  /-- TLBIR (R309): Invalidate translations of a range and wait for acknowledgement. -/
  | tlbir (a : GIdx) (b : GIdx)
  /-- TLBIRA (R309): Invalidate translations of a range without waiting. -/
  | tlbira (a : GIdx) (b : GIdx)
  /-- TLBIA (R309): Invalidate the whole address space without waiting. -/
  | tlbia
  /-- TLBW (R309): Wait until the strand's asynchronous invalidations are acknowledged. -/
  | tlbw
  /-- PREQ (R311): Halt or resume every strand of a launch. -/
  | preq (a : GIdx) (b : GIdx)
  /-- SCTX (R408): Save a HALTED slot's context and free the slot. -/
  | sctx (a : GIdx) (b : GIdx)
  /-- LCTX (R410): Load a save area into its FREE slot as HALTED. -/
  | lctx (a : GIdx) (b : GIdx)
  /-- PINS (R311): Make a scratchpad page resident and pin it. -/
  | pins (a : GIdx)
  /-- UNPN (R311): Unpin a scratchpad page. -/
  | unpn (a : GIdx)
  /-- MIGR (R402): Copy a migrating leaf to a new frame, switch the PTE and invalidate. -/
  | migr (a : GIdx) (b : GIdx)
  /-- TELW (R311): Append a software record to the telemetry ring. -/
  | telw (a : GIdx)
  /-- C_MOV (R161): 16-bit MOV. -/
  | cMov (d : VIdx) (a : VIdx)
  /-- C_ADD (R161): 16-bit ADD gD, gD, gA. -/
  | cAdd (d : VIdx) (a : VIdx)
  /-- C_SUB (R161): 16-bit SUB gD, gD, gA. -/
  | cSub (d : VIdx) (a : VIdx)
  /-- C_ADDI (R161): 16-bit ADDI with a 5-bit signed immediate. -/
  | cAddi (d : VIdx) (i : VIdx)
  /-- C_LI (R161): 16-bit LI with a 5-bit signed immediate. -/
  | cLi (d : VIdx) (i : VIdx)
  /-- C_SHLI (R161): 16-bit SHLI by 0–31. -/
  | cShli (d : VIdx) (i : VIdx)
  /-- C_SHRI (R161): 16-bit SHRI by 0–31. -/
  | cShri (d : VIdx) (i : VIdx)
  /-- C_AND (R161): 16-bit AND gD, gD, gA. -/
  | cAnd (d : VIdx) (a : VIdx)
  /-- C_OR (R161): 16-bit OR gD, gD, gA. -/
  | cOr (d : VIdx) (a : VIdx)
  /-- C_XOR (R161): 16-bit XOR gD, gD, gA. -/
  | cXor (d : VIdx) (a : VIdx)
  /-- C_LD (R161): 16-bit 64-bit load at [gA]. -/
  | cLd (d : VIdx) (a : VIdx)
  /-- C_ST (R161): 16-bit 64-bit store at [gA]. -/
  | cSt (d : VIdx) (a : VIdx)
  /-- C_BR (R161): 16-bit unconditional branch. -/
  | cBr (i : BitVec 10)
  /-- C_BRC (R161): 16-bit conditional branch on a predicate. -/
  | cBrc (p : PIdx) (n : Bool) (i : GIdx)
  /-- C_RET (R161): 16-bit RET. -/
  | cRet
  /-- C_EXIT (R161): 16-bit EXIT. -/
  | cExit
  /-- C_NOP (R161): 16-bit NOP. -/
  | cNop
  /-- C_WAIT0 (R161): 16-bit WAIT with all limits zero. -/
  | cWait0
  /-- C_GET (R161): 16-bit GET from a pipe. -/
  | cGet (d : VIdx) (p : PIdx)
  /-- C_PUT (R161): 16-bit PUT into a pipe. -/
  | cPut (d : VIdx) (p : PIdx)
  /-- C_CHEQ (R161): 16-bit CHEQ. -/
  | cCheq (d : VIdx) (a : VIdx)
  /-- C_CMPEQ (R161): 16-bit 64-bit CMP.EQ into p7. -/
  | cCmpeq (d : VIdx) (a : VIdx)
  /-- C_CMPLT (R161): 16-bit 64-bit CMP.LT into p7. -/
  | cCmplt (d : VIdx) (a : VIdx)
  /-- C_YIELD (R161): 16-bit YIELD. -/
  | cYield
  /-- ILLEGAL_INSTRUCTION (R162): A fetched pattern that is reserved or lacks privilege traps with no other effect. -/
  | illegalInstruction (word : Word) (half : Bool)
  /-- WAKE (R33): A WAITING strand becomes READY once its wait condition holds. -/
  | wake (slot : Nat)
  /-- WAITA_TIMEOUT (R204): A WAITA's timeout class expires and the wait ends with p7 all ones, tainted. -/
  | waitaTimeout (slot : Nat)
  /-- SLEEP_EXPIRY (R194): A SLEEP's interval of device TIME has passed and the strand becomes READY. -/
  | sleepExpiry (slot : Nat)
  /-- RJOIN_TIMEOUT (R37): After 1,024 cycles a waiting follower continues detached and its missed-join count rises. -/
  | rjoinTimeout (slot : Nat)
  /-- FOLLOWER_LAG_DETACH (R36): A follower 16 instructions behind its hop's stream detaches. -/
  | followerLagDetach (slot : Nat)
  /-- FOLLOWER_ISSUE (R35): An attached follower issues a forwarded instruction with its own registers. -/
  | followerIssue (slot : Nat)
  /-- STRAND_RETIRE (R31): An exited strand retires once L and T are zero, releasing tiles and freeing the slot. -/
  | strandRetire (slot : Nat)
  /-- ENGINE_TAKE (R44): A quad engine takes the head entry of a core's dispatch queue in rotation. -/
  | engineTake (core : Nat)
  /-- TMMA_KBLOCK (R226): The matrix array folds one K-block of a TMMA into its tile. -/
  | tmmaKblock (core : Nat)
  /-- ACCUM_OP_COMPLETE (R231): An accumulator operation writes its tile or memory and T falls. -/
  | accumOpComplete (core : Nat)
  /-- RECHECK_COMPLETE (R84): A background recheck finishes and writes its telemetry record. -/
  | recheckComplete (quad : Nat)
  /-- CHKN_WRITE (R81): A write to CHKN is rounded to a power of two and resets the core's TMMA count. -/
  | chknWrite (core : Nat) (value : Dword)
  /-- STICK_WRITE (R104): A write to STICK clamps K and changes the tick seen by armed TSRC 0 entries. -/
  | stickWrite (slot : Nat) (value : Dword)
  /-- BALANCE_ROUND (R39): Every 4,096 cycles the cluster's balancer levels its cores' ready rings. -/
  | balanceRound (cluster : Nat)
  /-- DISPATCH (R329): A FREE slot takes a task record from its ready ring or a queue segment and starts a strand. -/
  | dispatch (slot : Nat)
  /-- DISPATCH_RETRY (R331): A slot that found every source empty tries again after 64 cycles. -/
  | dispatchRetry (slot : Nat)
  /-- HELD_RECORD_PUSH (R288): A record held at a full segment is appended once there is room. -/
  | heldRecordPush (part slice : Nat)
  /-- PAGE_FILL (R121): A scratchpad page is translated, given a slot, filled from its frame and pinned. -/
  | pageFill (slot page : Nat)
  /-- PAGE_DRAIN (R122): Dirty bytes of an unpinned scratchpad page drain to their frame. -/
  | pageDrain (core page : Nat)
  /-- L1_EVICT (R125): An L1 line is evicted and its dirty bytes reach the L2 home. -/
  | l1Evict (core line : Nat)
  /-- ROW_CACHE_FILL (R119): A row-cache miss opens a row, writing back a victim, poisoning units on uncorrectable errors. -/
  | rowCacheFill (unit : Nat) (bad : Bool)
  /-- HOME_REQUEST (R148): A request is served at a serialising point, same-cycle ties lower source number first. -/
  | homeRequest (index : Nat)
  /-- ROUTER_MERGE (R128): A router merges two matching atomic requests into one. -/
  | routerMerge (first second : Nat)
  /-- COMBINING_FLUSH (R127): A combining-buffer entry is flushed to its home as one RED. -/
  | combiningFlush (core : Nat)
  /-- ORPHAN_REDUCTION (R145): A RED whose write fails at its home is dropped and reported with cause 0x14. -/
  | orphanReduction (index : Nat)
  /-- PAGE_WALK (R396): A walker reads the page tables at their homes and returns a leaf or a fault. -/
  | pageWalk (slot : Nat) (va : Dword)
  /-- STALLED_WRITE_RETRY (R402): A write stalled on M = 1 retries its walk after an invalidation or every 10 µs. -/
  | stalledWriteRetry (slot : Nat)
  /-- TLB_INVALIDATE_ACK (R310): An invalidation is acknowledged once translations are dropped and accesses drained. -/
  | tlbInvalidateAck (index : Nat)
  /-- MIGRATION_COMMIT (R402): MIGR's copy is done, the PTE is switched and its invalidation completes. -/
  | migrationCommit (index : Nat)
  /-- COPY_UNIT_LAND (R416): The copy engine reads and writes one aligned 8-B unit of a command. -/
  | copyUnitLand (core index : Nat)
  /-- COPY_COMPLETE (R236): A copy command completes in id order, writing its flag or issuing its TMMA. -/
  | copyComplete (core index : Nat)
  /-- COPY_ERROR (R237): A fault after issue ends a command in error and sets the channel's error record. -/
  | copyError (core index : Nat) (cause : BitVec 8) (addr : Dword)
  /-- GATHER_ELEMENT (R247): A fabric interface serves one gather or scatter element at its home. -/
  | gatherElement (core index element : Nat)
  /-- GATHER_COMPLETE (R248): A gather or scatter command completes, possibly partial. -/
  | gatherComplete (core index : Nat)
  /-- VECTOR_LOAD_COMPLETE (R218): A vector load's lanes are written and L falls. -/
  | vectorLoadComplete (slot index : Nat) (lanes : Dword)
  /-- VSTATE_LANE (R262): A lane of a vector state instruction is served at its word's home. -/
  | vstateLane (slot index lane : Nat)
  /-- CALENDAR_FIRE (R104): A calendar entry's time source reaches t* and a firing request goes to the word's home. -/
  | calendarFire (cluster index : Nat)
  /-- FIRE_REQUEST_SERVE (R104): The home checks the crossing, posts the record and enqueues any task, or predicts again. -/
  | fireRequestServe (index : Nat)
  /-- HELD_FIRING_POST (R107): A firing held for a full event queue is posted once there is room. -/
  | heldFiringPost (cluster index : Nat)
  /-- SWEEP_PASS (R110): The sweeper starts a pass over registered regions on its time or LCLK trigger. -/
  | sweepPass (cluster : Nat)
  /-- SWEEP_WORD (R110): The sweeper visits one word, storing fixed steps, setting W or applying R105. -/
  | sweepWord (cluster : Nat)
  /-- CHAIN_POLICY_SAMPLE (R276): Every 65,536 cycles an occupancy-policy chain is sampled and may trigger a switch. -/
  | chainPolicySample (cluster chain : Nat)
  /-- CHAIN_FOLD (R277): At a cut, January folds a spread chain into one slot. -/
  | chainFold (cluster chain : Nat)
  /-- CHAIN_SPREAD (R277): At a cut, January spreads a folded chain across cores. -/
  | chainSpread (cluster chain : Nat)
  /-- CHAIN_TRIGGER_TIMEOUT (R276): No cut came within 2 µs and the trigger ends as its kind gives. -/
  | chainTriggerTimeout (cluster chain : Nat)
  /-- CHAIN_STATE_FREE (R441): A chain's state is freed, releasing January's slot. -/
  | chainStateFree (cluster chain : Nat)
  /-- HANDLE_MESSAGE (R291): A message reaches a handle entry and changes its state as the table gives. -/
  | handleMessage (index : Nat)
  /-- MAILBOX_DELIVER (R296): A message is delivered into a mailbox slot and WR is released. -/
  | mailboxDeliver (part serial : Nat)
  /-- HANDLE_LINK_TIMEOUT (R291): Link retry for a handle message fails with no delivery within 1 ms and the handle breaks. -/
  | handleLinkTimeout (part serial : Nat)
  /-- SPILL_CATCH (R342): A message for a halted context is caught in the cluster's spill ring. -/
  | spillCatch (index : Nat)
  /-- SPILL_REPLAY (R342): Held messages replay at resume in arrival order. -/
  | spillReplay (cluster : Nat)
  /-- PREEMPT_REQUEST (R339): A pre-emption request reaches every core of the crew and halting begins. -/
  | preemptRequest (part age cluster : Nat) (requester : Nat)
  /-- COPY_DRAIN_EXPIRY (R339): The 1 µs copy drain budget ends and started copies stop at a unit. -/
  | copyDrainExpiry (part age cluster : Nat)
  /-- PREEMPT_HALT_COMPLETE (R340): Every strand of the crew is HALTED and a cause 0x11 record is posted. -/
  | preemptHaltComplete (part age cluster : Nat)
  /-- CREW_RESUME (R343): A halted crew resumes on its cluster, acquiring at DEVICE scope. -/
  | crewResume (part age cluster : Nat)
  /-- FAULT_RECORD_PLACE (R337): After its hold the fault writer places a record in the queue with VALID last. -/
  | faultRecordPlace (part : Nat)
  /-- TELEMETRY_RECORD_PLACE (R418): After its hold the telemetry writer places a record in its reserved slot. -/
  | telemetryRecordPlace (part : Nat)
  /-- DOORBELL (R314): A doorbell write makes the launch unit read and validate a launch record. -/
  | doorbell (part : Nat) (qidx : Nat) (source : Nat)
  /-- DEPENDENCE_RESOLVED (R318): A launch's dependence handle resolves; the launch becomes READY or is rejected. -/
  | dependenceResolved (part age : Nat)
  /-- CREW_PLACE (R320): A free cluster is given to the best candidate crew and its strands or chain are created. -/
  | crewPlace (part : Nat)
  /-- PRIORITY_PREEMPT (R322): A waiting priority-0 candidate pre-empts a priority-3 crew. -/
  | priorityPreempt (part : Nat)
  /-- QUANTUM_EXPIRY (R322): A crew's quantum ends while a candidate waits and the crew is pre-empted. -/
  | quantumExpiry (part : Nat)
  /-- LAUNCH_END (R324): A launch ends, freeing its clusters, dropping handles and withdrawing regions. -/
  | launchEnd (part age : Nat)
  /-- THERMAL_CLOCK_STEP (R16): Near a limit the arithmetic clock is lowered one step, no lower than 0.6 GHz. -/
  | thermalClockStep (mhz : Nat)
  /-- THERMAL_HOLD (R16): A limit exceeded at 0.6 GHz pre-empts every partition and holds the dies idle. -/
  | thermalHold
  /-- THERMAL_RELEASE (R16): The limit clears and the saved contexts resume. -/
  | thermalRelease
  /-- INPUT_OUT_OF_RANGE (R15): The 54 V input leaves 50–58 V and the compute dies are kept unpowered. -/
  | inputOutOfRange
  /-- RESET (R382): Module power-on or reset starts boot stage 0. -/
  | reset
  /-- BOOT_STAGE1 (R382): The first stage verifies the owner block and its listed images. -/
  | bootStage1
  /-- BOOT_STAGE2 (R382): Device firmware trains layers and ports, brings up links and releases the dies. -/
  | bootStage2 (layers : BitVec 144) (peers : List (Option (BitVec 8))) (lock : Bool)
  /-- DZIAC_FRAME_RECEIVE (R393): A Dziac link frame arrives; a CRC failure is retried, then dropped and counted. -/
  | dziacFrameReceive (port : Nat) (crcOk retryOk : Bool) (frame : Frame)
  /-- HOST_ACCESS (R118): A host access to device memory arrives through the system die and is served at its home. -/
  | hostAccess (access : HostAccess)
  /-- FUNCTION_LEVEL_RESET (R386): An FLR of a VF halts and kills every launch of its partition and frees its queue indices. -/
  | functionLevelReset (vf : Nat)
  /-- PARTITION_ACTIVATE (R390): PCTL bit 8 activates a partition after its checks and builds the standing launch. -/
  | partitionActivate (part : Nat)
  /-- PARTITION_DEACTIVATE (R390): PCTL bit 9 deactivates a partition with no launch but the standing one. -/
  | partitionDeactivate (part : Nat)
  /-- RESIZE_REQUEST (R392): An RSZ write is checked and accepted or refused; leaving clusters take no placement. -/
  | resizeRequest (part : Nat) (value : Dword)
  /-- RESIZE_LEAVE_CLEAR (R392): Once no crew holds a leaving cluster, pages drain, records move and routers take the pending bitmap. -/
  | resizeLeaveClear (part : Nat)
  /-- RESIZE_COMMIT (R392): After every router acknowledges, the new bitmap becomes current and vector 2 is raised. -/
  | resizeCommit (part : Nat)
  /-- LAYER_ADD (R405): LAYCMD op 1 adds a layer to the partition. -/
  | layerAdd (part : Nat) (value : Dword)
  /-- LAYER_PREDICTIVE_REMOVE (R405): LAYCMD op 2 posts a memory event with a grace period. -/
  | layerPredictiveRemove (part : Nat) (value : Dword)
  /-- LAYER_FINAL_REMOVE (R407): LAYCMD op 3 commits removal of a layer, dropping its lines. -/
  | layerFinalRemove (part : Nat) (value : Dword)
  /-- LAYCMD_NOP (R404): LAYCMD op 0 performs no operation. -/
  | laycmdNop (part : Nat) (value : Dword)
  /-- LAYER_ERROR_LIMIT (R405): A layer's error rate crosses a limit and the firmware issues op 2 or op 3 itself. -/
  | layerErrorLimit (layer : Nat) (final : Bool)
  /-- ATTEST_REQUEST (R385): A write of AREQ.REQ starts an attestation report. -/
  | attestRequest (part : Nat) (value : Dword)
  /-- ATTEST_DONE (R385): The attestation report is complete; DONE is set and vector 3 raised. -/
  | attestDone (part : Nat)
  /-- SYSRES_RESUME (R388): A SYSRES write with KILL 0 resumes a parked strand. -/
  | sysresResume (value : Dword)
  /-- SYSRES_KILL (R388): A SYSRES write with KILL 1 kills a parked strand or chain stages. -/
  | sysresKill (value : Dword)
  /-- INTMASK_WRITE (R389): A write to INTMASK masks vectors and delivers pending events of cleared bits. -/
  | intmaskWrite (part : Nat) (value : Dword)
  /-- COUNTER_CLEAR (R419): A PF write clears a partition counter. -/
  | counterClear (part offset : Nat)
  /-- GLOBAL_COUNTER_CLEAR (R420): A PF write clears a device-wide counter. -/
  | globalCounterClear (offset : Nat)
  /-- SYSERR_CLEAR (R442): A PF write sets SYSERR to zero. -/
  | syserrClear
  /-- FIRMWARE_UPDATE (R424): An FWCTL GO write verifies a staged image and writes it to flash. -/
  | firmwareUpdate (value : Dword)
  /-- FIRMWARE_UPDATE_COMMIT (R424): An FWCTL GO write with COMMIT also raises the RPMC minimum version. -/
  | firmwareUpdateCommit (value : Dword)
  /-- FIRMWARE_UPDATE_DONE (R423): The flash update finishes and FWST reports its result. -/
  | firmwareUpdateDone
  /-- REGISTER_WRITE (R389): A write to a register without a row of its own sets its RW fields. -/
  | registerWrite (who : Nat) (addr : Nat) (value : Dword)
  /-- STORE_COMPLETE (R198): A store, STL, RED or stream push has been written or released at its completion point, and the strand's S counter falls. -/
  | storeComplete (slot : Nat)
  /-- INPUT_BACK_IN_RANGE (R15): The 54 V input returns to 50–58 V, THR.INPUT clears and the power stage again powers the compute dies. -/
  | inputBackInRange
  /-- THERMAL_CLOCK_RAISE (R421): Once temperature and power fall back from their limits, the arithmetic clock is raised toward 1.4 GHz, and a CLK change record is posted. -/
  | thermalClockRaise (mhz : Nat)
deriving DecidableEq, Repr

end Sys2Proof
end

