-- ==== Sys2Proof/Machine/Fields.lean ====
section
/-!
DEFINITION. The field values the manual calls illegal although no must-be-zero bit is set (R157, R160, R162 and the class
chapters): one test per instruction, used by the decoder and by well-formedness alike.
-/
namespace Sys2Proof.Machine

/-- A scope code that is assigned (R131, R160). -/
def scopeOk (s : BitVec 3) : Bool := s != 7

/-- The addresses of R305 that CSRR accepts. -/
def csrReadable (a : Nat) : Bool :=
  decide (a ≤ 0x0005) || (decide (0x0010 ≤ a) && decide (a ≤ 0x0016)) || a == 0x0020 || a == 0x0021 ||
  (decide (0x0030 ≤ a) && decide (a ≤ 0x0032)) || a == 0x0040 || a == 0x0041 ||
  (decide (0x0050 ≤ a) && decide (a ≤ 0x0057)) || (decide (0x0060 ≤ a) && decide (a ≤ 0x0066)) ||
  (decide (0x4000 ≤ a) && decide (a ≤ 0x4005))

/-- The addresses of R305 that CSRW accepts: no read-only register and not LCLK (R162). -/
def csrWritable (a : Nat) : Bool :=
  (decide (0x0010 ≤ a) && decide (a ≤ 0x0016)) || a == 0x0020 || a == 0x0021 || a == 0x0031 || a == 0x0032 ||
  a == 0x0040 || (decide (0x0060 ≤ a) && decide (a ≤ 0x0066)) || a == 0x4000 || a == 0x4001

/-- TRAP's legal codes (R308). -/
def trapCodeOk (a : Nat) : Bool := (decide (1 ≤ a) && decide (a ≤ 0x10)) || a == 0x12 || a == 0x13

/-- CHST's legal selectors (R285). -/
def chstSelOk (b : Nat) : Bool := b == 0 || (decide (8 ≤ b) && decide (b ≤ 23))

/-- v28 to v31 (R245). -/
def streamReg (v : VIdx) : Bool := decide (28 ≤ v.toNat)

end Sys2Proof.Machine

namespace Sys2Proof

/-- Whether every field of an instruction holds a value the manual assigns. -/
def Instr.fieldsOk : Instr → Bool
  | .lda _ _ _ f => Machine.scopeOk f
  | .stl _ _ _ f => Machine.scopeOk f
  | .amoadd _ _ _ f => Machine.scopeOk f
  | .amoand _ _ _ f => Machine.scopeOk f
  | .amoor _ _ _ f => Machine.scopeOk f
  | .amoxor _ _ _ f => Machine.scopeOk f
  | .amomin _ _ _ f => Machine.scopeOk f
  | .amomax _ _ _ f => Machine.scopeOk f
  | .amoswap _ _ _ f => Machine.scopeOk f
  | .amocas _ _ _ f => Machine.scopeOk f
  | .amofadd _ _ _ f => Machine.scopeOk f
  | .red _ _ _ f => Machine.scopeOk f
  | .fenceAcq s => Machine.scopeOk s
  | .fenceRel s => Machine.scopeOk s
  | .fenceFull s => Machine.scopeOk s
  | .fenceClean _ s => Machine.scopeOk s
  | .fenceInv _ s => Machine.scopeOk s
  | .fenceCleaninv _ s => Machine.scopeOk s
  | .waita s _ _ _ _ => Machine.scopeOk s
  | .sext _ _ w => w != 3
  | .zext _ _ w => w != 3
  | .cget _ _ s => decide (s.toNat ≤ 9)
  | .sleep k => decide (k.toNat ≤ 40)
  | .stmr d _ => Machine.streamReg d
  | .stmw d _ => Machine.streamReg d
  | .stmx _ a => Machine.streamReg a
  | .stmd a => Machine.streamReg a
  | .trap a => Machine.trapCodeOk a.toNat
  | .csrr _ i => Machine.csrReadable i.toNat
  | .csrw _ i => Machine.csrWritable i.toNat
  | .sraw _ _ m => decide (m.toNat ≤ 1)
  | .chst _ _ b => Machine.chstSelOk b.toNat
  | _ => true

end Sys2Proof
end

