-- ==== Sys2Proof/WellFormed.lean ====
section
/-!
DEFINITION. Which instructions have words, and which of those are well formed: the rows of the table that are events have no
encoding (spec/opcode_table.json gives them no match), and every other instruction must hold field values the manual assigns.
-/
namespace Sys2Proof

/-- Whether an instruction is an event of the machine, which no word encodes. -/
def Instr.isEvent : Instr → Bool
  | .illegalInstruction _ _ => true
  | .wake _ => true
  | .waitaTimeout _ => true
  | .sleepExpiry _ => true
  | .rjoinTimeout _ => true
  | .followerLagDetach _ => true
  | .followerIssue _ => true
  | .strandRetire _ => true
  | .engineTake _ => true
  | .tmmaKblock _ => true
  | .accumOpComplete _ => true
  | .recheckComplete _ => true
  | .chknWrite _ _ => true
  | .stickWrite _ _ => true
  | .balanceRound _ => true
  | .dispatch _ => true
  | .dispatchRetry _ => true
  | .heldRecordPush _ _ => true
  | .pageFill _ _ => true
  | .pageDrain _ _ => true
  | .l1Evict _ _ => true
  | .rowCacheFill _ _ => true
  | .homeRequest _ => true
  | .routerMerge _ _ => true
  | .combiningFlush _ => true
  | .orphanReduction _ => true
  | .pageWalk _ _ => true
  | .stalledWriteRetry _ => true
  | .tlbInvalidateAck _ => true
  | .migrationCommit _ => true
  | .copyUnitLand _ _ => true
  | .copyComplete _ _ => true
  | .copyError _ _ _ _ => true
  | .gatherElement _ _ _ => true
  | .gatherComplete _ _ => true
  | .vectorLoadComplete _ _ _ => true
  | .vstateLane _ _ _ => true
  | .calendarFire _ _ => true
  | .fireRequestServe _ => true
  | .heldFiringPost _ _ => true
  | .sweepPass _ => true
  | .sweepWord _ => true
  | .chainPolicySample _ _ => true
  | .chainFold _ _ => true
  | .chainSpread _ _ => true
  | .chainTriggerTimeout _ _ => true
  | .chainStateFree _ _ => true
  | .handleMessage _ => true
  | .mailboxDeliver _ _ => true
  | .handleLinkTimeout _ _ => true
  | .spillCatch _ => true
  | .spillReplay _ => true
  | .preemptRequest _ _ _ _ => true
  | .copyDrainExpiry _ _ _ => true
  | .preemptHaltComplete _ _ _ => true
  | .crewResume _ _ _ => true
  | .faultRecordPlace _ => true
  | .telemetryRecordPlace _ => true
  | .doorbell _ _ _ => true
  | .dependenceResolved _ _ => true
  | .crewPlace _ => true
  | .priorityPreempt _ => true
  | .quantumExpiry _ => true
  | .launchEnd _ _ => true
  | .thermalClockStep _ => true
  | .thermalHold => true
  | .thermalRelease => true
  | .inputOutOfRange => true
  | .reset => true
  | .bootStage1 => true
  | .bootStage2 _ _ _ => true
  | .dziacFrameReceive _ _ _ _ => true
  | .hostAccess _ => true
  | .functionLevelReset _ => true
  | .partitionActivate _ => true
  | .partitionDeactivate _ => true
  | .resizeRequest _ _ => true
  | .resizeLeaveClear _ => true
  | .resizeCommit _ => true
  | .layerAdd _ _ => true
  | .layerPredictiveRemove _ _ => true
  | .layerFinalRemove _ _ => true
  | .laycmdNop _ _ => true
  | .layerErrorLimit _ _ => true
  | .attestRequest _ _ => true
  | .attestDone _ => true
  | .sysresResume _ => true
  | .sysresKill _ => true
  | .intmaskWrite _ _ => true
  | .counterClear _ _ => true
  | .globalCounterClear _ => true
  | .syserrClear => true
  | .firmwareUpdate _ => true
  | .firmwareUpdateCommit _ => true
  | .firmwareUpdateDone => true
  | .registerWrite _ _ _ => true
  | .storeComplete _ => true
  | .inputBackInRange => true
  | .thermalClockRaise _ => true
  | _ => false

/-- A well-formed instruction: one that some word encodes. -/
def Instr.WellFormed (i : Instr) : Prop := i.isEvent = false ∧ i.fieldsOk = true

end Sys2Proof
end

