-- ==== Sys2Proof/Decode.lean ====
section
/-!
DEFINITION. Decoding (R153 to R163) and, after it, encoding: every instruction is read from the fields R154, R156, R158 and
R161 give it, a pattern that is no instruction is rejected by name, and `encode` lays a well-formed instruction's words out
from the same tables. Lean's runtime has no tag for a constructor past the 245th that carries operands, so the functions that
build such constructors are marked noncomputable: the kernel evaluates them, the compiler does not.
-/
namespace Sys2Proof

/-- Why a bit pattern is not an instruction (R162). -/
inductive Reject where
  /-- fewer bytes than the instruction needs -/
  | truncated
  | reservedMajor
  | reservedSelector
  | reservedHalf
  | mustBeZero
  /-- a scope, selector, register or address value the manual calls illegal -/
  | illegalField
deriving DecidableEq, Repr

/-- The scheduling hint of a word (R154, R155): it never changes a result. -/
structure Hint where
  sch : Bool
  ver : BitVec 2
deriving DecidableEq, Repr

/-- The hint kwas writes when none is given (R165). -/
def Hint.none : Hint := ⟨false, 0⟩

/-- A decoded instruction with its hint and its size in bytes. -/
structure Decoded where
  insn : Instr
  hint : Hint
  size : Nat
deriving DecidableEq, Repr

/-- Must-be-zero fields are checked after the selector (R162). -/
def zero (c : Prop) [Decidable c] (i : Instr) : Except Reject Instr := if c then .ok i else .error .mustBeZero

/-- Major 0x00 (R158), R format. -/
def decMajor00 (w : Word) : Except Reject Instr :=
  if w.extractLsb' 29 3 = 0#3 then .ok (.add (w.extractLsb' 11 6) (w.extractLsb' 17 6) (w.extractLsb' 23 6))
  else if w.extractLsb' 29 3 = 1#3 then .ok (.sub (w.extractLsb' 11 6) (w.extractLsb' 17 6) (w.extractLsb' 23 6))
  else if w.extractLsb' 29 3 = 2#3 then .ok (.mul (w.extractLsb' 11 6) (w.extractLsb' 17 6) (w.extractLsb' 23 6))
  else if w.extractLsb' 29 3 = 3#3 then .ok (.mulh (w.extractLsb' 11 6) (w.extractLsb' 17 6) (w.extractLsb' 23 6))
  else if w.extractLsb' 29 3 = 4#3 then .ok (.mulhz (w.extractLsb' 11 6) (w.extractLsb' 17 6) (w.extractLsb' 23 6))
  else if w.extractLsb' 29 3 = 5#3 then .ok (.addw (w.extractLsb' 11 6) (w.extractLsb' 17 6) (w.extractLsb' 23 6))
  else if w.extractLsb' 29 3 = 6#3 then .ok (.subw (w.extractLsb' 11 6) (w.extractLsb' 17 6) (w.extractLsb' 23 6))
  else if w.extractLsb' 29 3 = 7#3 then zero (w.extractLsb' 23 6 = 0#6) (.neg (w.extractLsb' 11 6) (w.extractLsb' 17 6))
  else .error .reservedSelector

/-- Major 0x01 (R158), R format. -/
def decMajor01 (w : Word) : Except Reject Instr :=
  if w.extractLsb' 29 3 = 0#3 then .ok (.div (w.extractLsb' 11 6) (w.extractLsb' 17 6) (w.extractLsb' 23 6))
  else if w.extractLsb' 29 3 = 1#3 then .ok (.divz (w.extractLsb' 11 6) (w.extractLsb' 17 6) (w.extractLsb' 23 6))
  else if w.extractLsb' 29 3 = 2#3 then .ok (.rem (w.extractLsb' 11 6) (w.extractLsb' 17 6) (w.extractLsb' 23 6))
  else if w.extractLsb' 29 3 = 3#3 then .ok (.remz (w.extractLsb' 11 6) (w.extractLsb' 17 6) (w.extractLsb' 23 6))
  else if w.extractLsb' 29 3 = 4#3 then .ok (.min (w.extractLsb' 11 6) (w.extractLsb' 17 6) (w.extractLsb' 23 6))
  else if w.extractLsb' 29 3 = 5#3 then .ok (.max (w.extractLsb' 11 6) (w.extractLsb' 17 6) (w.extractLsb' 23 6))
  else if w.extractLsb' 29 3 = 6#3 then .ok (.minz (w.extractLsb' 11 6) (w.extractLsb' 17 6) (w.extractLsb' 23 6))
  else if w.extractLsb' 29 3 = 7#3 then .ok (.maxz (w.extractLsb' 11 6) (w.extractLsb' 17 6) (w.extractLsb' 23 6))
  else .error .reservedSelector

/-- Major 0x02 (R158), R format. -/
def decMajor02 (w : Word) : Except Reject Instr :=
  if w.extractLsb' 29 3 = 0#3 then .ok (.and (w.extractLsb' 11 6) (w.extractLsb' 17 6) (w.extractLsb' 23 6))
  else if w.extractLsb' 29 3 = 1#3 then .ok (.or (w.extractLsb' 11 6) (w.extractLsb' 17 6) (w.extractLsb' 23 6))
  else if w.extractLsb' 29 3 = 2#3 then .ok (.xor (w.extractLsb' 11 6) (w.extractLsb' 17 6) (w.extractLsb' 23 6))
  else if w.extractLsb' 29 3 = 3#3 then .ok (.andn (w.extractLsb' 11 6) (w.extractLsb' 17 6) (w.extractLsb' 23 6))
  else if w.extractLsb' 29 3 = 4#3 then .ok (.orn (w.extractLsb' 11 6) (w.extractLsb' 17 6) (w.extractLsb' 23 6))
  else if w.extractLsb' 29 3 = 5#3 then .ok (.shl (w.extractLsb' 11 6) (w.extractLsb' 17 6) (w.extractLsb' 23 6))
  else if w.extractLsb' 29 3 = 6#3 then .ok (.shr (w.extractLsb' 11 6) (w.extractLsb' 17 6) (w.extractLsb' 23 6))
  else if w.extractLsb' 29 3 = 7#3 then .ok (.sar (w.extractLsb' 11 6) (w.extractLsb' 17 6) (w.extractLsb' 23 6))
  else .error .reservedSelector

/-- Major 0x03 (R158), R format. -/
def decMajor03 (w : Word) : Except Reject Instr :=
  if w.extractLsb' 29 3 = 0#3 then .ok (.rol (w.extractLsb' 11 6) (w.extractLsb' 17 6) (w.extractLsb' 23 6))
  else if w.extractLsb' 29 3 = 1#3 then zero (w.extractLsb' 23 6 = 0#6) (.clz (w.extractLsb' 11 6) (w.extractLsb' 17 6))
  else if w.extractLsb' 29 3 = 2#3 then zero (w.extractLsb' 23 6 = 0#6) (.ctz (w.extractLsb' 11 6) (w.extractLsb' 17 6))
  else if w.extractLsb' 29 3 = 3#3 then zero (w.extractLsb' 23 6 = 0#6) (.popc (w.extractLsb' 11 6) (w.extractLsb' 17 6))
  else if w.extractLsb' 29 3 = 4#3 then zero (w.extractLsb' 23 6 = 0#6) (.brev (w.extractLsb' 11 6) (w.extractLsb' 17 6))
  else if w.extractLsb' 29 3 = 5#3 then zero (w.extractLsb' 23 6 = 0#6) (.bswap (w.extractLsb' 11 6) (w.extractLsb' 17 6))
  else if w.extractLsb' 29 3 = 6#3 then zero (w.extractLsb' 25 4 = 0#4) (.sext (w.extractLsb' 11 6) (w.extractLsb' 17 6) (w.extractLsb' 23 2))
  else if w.extractLsb' 29 3 = 7#3 then zero (w.extractLsb' 25 4 = 0#4) (.zext (w.extractLsb' 11 6) (w.extractLsb' 17 6) (w.extractLsb' 23 2))
  else .error .reservedSelector

/-- Major 0x04 (R158), I format. -/
def decMajor04 (w : Word) : Except Reject Instr :=
  .ok (.addi (w.extractLsb' 11 6) (w.extractLsb' 17 6) (w.extractLsb' 23 9))

/-- Major 0x05 (R158), I format. -/
def decMajor05 (w : Word) : Except Reject Instr :=
  .ok (.andi (w.extractLsb' 11 6) (w.extractLsb' 17 6) (w.extractLsb' 23 9))

/-- Major 0x06 (R158), I format. -/
def decMajor06 (w : Word) : Except Reject Instr :=
  .ok (.ori (w.extractLsb' 11 6) (w.extractLsb' 17 6) (w.extractLsb' 23 9))

/-- Major 0x07 (R158), I format. -/
def decMajor07 (w : Word) : Except Reject Instr :=
  .ok (.xori (w.extractLsb' 11 6) (w.extractLsb' 17 6) (w.extractLsb' 23 9))

/-- Major 0x08 (R158), I format. -/
def decMajor08 (w : Word) : Except Reject Instr :=
  if w.extractLsb' 30 2 = 0#2 then zero (w.extractLsb' 29 1 = 0#1) (.shli (w.extractLsb' 11 6) (w.extractLsb' 17 6) (w.extractLsb' 23 6))
  else if w.extractLsb' 30 2 = 1#2 then zero (w.extractLsb' 29 1 = 0#1) (.shri (w.extractLsb' 11 6) (w.extractLsb' 17 6) (w.extractLsb' 23 6))
  else if w.extractLsb' 30 2 = 2#2 then zero (w.extractLsb' 29 1 = 0#1) (.sari (w.extractLsb' 11 6) (w.extractLsb' 17 6) (w.extractLsb' 23 6))
  else if w.extractLsb' 30 2 = 3#2 then zero (w.extractLsb' 29 1 = 0#1) (.roli (w.extractLsb' 11 6) (w.extractLsb' 17 6) (w.extractLsb' 23 6))
  else .error .reservedSelector

/-- Major 0x09 (R158), I format. -/
def decMajor09 (w : Word) : Except Reject Instr :=
  .ok (.cmpi (w.extractLsb' 11 3) (w.extractLsb' 14 3) (w.extractLsb' 17 6) (w.extractLsb' 23 9))

/-- Major 0x0a (R158), R format. -/
def decMajor0A (w : Word) : Except Reject Instr :=
  if w.extractLsb' 29 3 = 0#3 then .ok (.cmp (w.extractLsb' 11 3) (w.extractLsb' 14 3) (w.extractLsb' 17 6) (w.extractLsb' 23 6))
  else if w.extractLsb' 29 3 = 1#3 then .ok (.cmpW (w.extractLsb' 11 3) (w.extractLsb' 14 3) (w.extractLsb' 17 6) (w.extractLsb' 23 6))
  else .error .reservedSelector

/-- Major 0x0b (R158), R format. -/
def decMajor0B (w : Word) : Except Reject Instr :=
  .ok (.sel (w.extractLsb' 11 6) (w.extractLsb' 17 6) (w.extractLsb' 23 6) (w.extractLsb' 29 3))

/-- Major 0x0c (R158), U format. -/
def decMajor0C (w : Word) : Except Reject Instr :=
  .ok (.li (w.extractLsb' 11 6) (w.extractLsb' 17 15))

/-- Major 0x0d (R158), U format. -/
def decMajor0D (w : Word) : Except Reject Instr :=
  .ok (.lie (w.extractLsb' 11 6) (w.extractLsb' 17 15))

/-- Major 0x0e (R158), R format. -/
def decMajor0E (w : Word) : Except Reject Instr :=
  if w.extractLsb' 29 3 = 0#3 then .ok (.bfx (w.extractLsb' 11 6) (w.extractLsb' 17 6) (w.extractLsb' 23 6))
  else if w.extractLsb' 29 3 = 1#3 then .ok (.bfxz (w.extractLsb' 11 6) (w.extractLsb' 17 6) (w.extractLsb' 23 6))
  else if w.extractLsb' 29 3 = 2#3 then .ok (.bfi (w.extractLsb' 11 6) (w.extractLsb' 17 6) (w.extractLsb' 23 6))
  else .error .reservedSelector

/-- Major 0x0f (R158), R format. -/
def decMajor0F (w : Word) : Except Reject Instr :=
  if w.extractLsb' 29 3 = 0#3 then zero (w.extractLsb' 26 3 = 0#3 ∧ w.extractLsb' 20 3 = 0#3 ∧ w.extractLsb' 14 3 = 0#3) (.pand (w.extractLsb' 11 3) (w.extractLsb' 17 3) (w.extractLsb' 23 3))
  else if w.extractLsb' 29 3 = 1#3 then zero (w.extractLsb' 26 3 = 0#3 ∧ w.extractLsb' 20 3 = 0#3 ∧ w.extractLsb' 14 3 = 0#3) (.por (w.extractLsb' 11 3) (w.extractLsb' 17 3) (w.extractLsb' 23 3))
  else if w.extractLsb' 29 3 = 2#3 then zero (w.extractLsb' 26 3 = 0#3 ∧ w.extractLsb' 20 3 = 0#3 ∧ w.extractLsb' 14 3 = 0#3) (.pxor (w.extractLsb' 11 3) (w.extractLsb' 17 3) (w.extractLsb' 23 3))
  else if w.extractLsb' 29 3 = 3#3 then zero (w.extractLsb' 26 3 = 0#3 ∧ w.extractLsb' 20 3 = 0#3 ∧ w.extractLsb' 14 3 = 0#3) (.pandn (w.extractLsb' 11 3) (w.extractLsb' 17 3) (w.extractLsb' 23 3))
  else if w.extractLsb' 29 3 = 4#3 then zero (w.extractLsb' 23 6 = 0#6 ∧ w.extractLsb' 20 3 = 0#3 ∧ w.extractLsb' 14 3 = 0#3) (.pnot (w.extractLsb' 11 3) (w.extractLsb' 17 3))
  else if w.extractLsb' 29 3 = 5#3 then zero (w.extractLsb' 23 6 = 0#6 ∧ w.extractLsb' 20 3 = 0#3) (.pmovg (w.extractLsb' 11 6) (w.extractLsb' 17 3))
  else if w.extractLsb' 29 3 = 6#3 then zero (w.extractLsb' 23 6 = 0#6 ∧ w.extractLsb' 14 3 = 0#3) (.pfromg (w.extractLsb' 11 3) (w.extractLsb' 17 6))
  else if w.extractLsb' 29 3 = 7#3 then zero (w.extractLsb' 23 6 = 0#6 ∧ w.extractLsb' 20 3 = 0#3) (.pcnt (w.extractLsb' 11 6) (w.extractLsb' 17 3))
  else .error .reservedSelector

/-- Major 0x10 (R158), R format. -/
def decMajor10 (w : Word) : Except Reject Instr :=
  if w.extractLsb' 29 3 = 0#3 then .ok (.cadd (w.extractLsb' 11 6) (w.extractLsb' 17 6) (w.extractLsb' 23 6))
  else if w.extractLsb' 29 3 = 1#3 then .ok (.csetb (w.extractLsb' 11 6) (w.extractLsb' 17 6) (w.extractLsb' 23 6))
  else if w.extractLsb' 29 3 = 2#3 then .ok (.candp (w.extractLsb' 11 6) (w.extractLsb' 17 6) (w.extractLsb' 23 6))
  else if w.extractLsb' 29 3 = 3#3 then .ok (.cget (w.extractLsb' 11 6) (w.extractLsb' 17 6) (w.extractLsb' 23 6))
  else if w.extractLsb' 29 3 = 4#3 then .ok (.cseal (w.extractLsb' 11 6) (w.extractLsb' 17 6) (w.extractLsb' 23 6))
  else if w.extractLsb' 29 3 = 5#3 then .ok (.cunseal (w.extractLsb' 11 6) (w.extractLsb' 17 6) (w.extractLsb' 23 6))
  else if w.extractLsb' 29 3 = 6#3 then .ok (.ctag (w.extractLsb' 11 6) (w.extractLsb' 17 6) (w.extractLsb' 23 6))
  else if w.extractLsb' 29 3 = 7#3 then zero (w.extractLsb' 23 6 = 0#6) (.cclr (w.extractLsb' 11 6) (w.extractLsb' 17 6))
  else .error .reservedSelector

/-- Major 0x11 (R158), I format. -/
def decMajor11 (w : Word) : Except Reject Instr :=
  .ok (.caddi (w.extractLsb' 11 6) (w.extractLsb' 17 6) (w.extractLsb' 23 9))

/-- Major 0x12 (R158), R format. -/
def decMajor12 (w : Word) : Except Reject Instr :=
  if w.extractLsb' 29 3 = 0#3 then zero (w.extractLsb' 23 6 = 0#6) (.mov (w.extractLsb' 11 6) (w.extractLsb' 17 6))
  else if w.extractLsb' 29 3 = 1#3 then zero (w.extractLsb' 23 6 = 0#6 ∧ w.extractLsb' 14 3 = 0#3) (.move (w.extractLsb' 11 3) (w.extractLsb' 17 6))
  else if w.extractLsb' 29 3 = 2#3 then zero (w.extractLsb' 23 6 = 0#6 ∧ w.extractLsb' 20 3 = 0#3) (.movg (w.extractLsb' 11 6) (w.extractLsb' 17 3))
  else if w.extractLsb' 29 3 = 3#3 then zero (w.extractLsb' 16 1 = 0#1) (.vins (w.extractLsb' 11 5) (w.extractLsb' 17 6) (w.extractLsb' 23 6))
  else if w.extractLsb' 29 3 = 4#3 then zero (w.extractLsb' 22 1 = 0#1) (.vext (w.extractLsb' 11 6) (w.extractLsb' 17 5) (w.extractLsb' 23 6))
  else if w.extractLsb' 29 3 = 5#3 then zero (w.extractLsb' 23 6 = 0#6 ∧ w.extractLsb' 16 1 = 0#1) (.vbcg (w.extractLsb' 11 5) (w.extractLsb' 17 6))
  else .error .reservedSelector

/-- Major 0x13 (R158), R format. -/
def decMajor13 (w : Word) : Except Reject Instr :=
  if w.extractLsb' 29 3 = 0#3 then .ok (.dadd (w.extractLsb' 11 6) (w.extractLsb' 17 6) (w.extractLsb' 23 6))
  else if w.extractLsb' 29 3 = 1#3 then .ok (.dsub (w.extractLsb' 11 6) (w.extractLsb' 17 6) (w.extractLsb' 23 6))
  else if w.extractLsb' 29 3 = 2#3 then .ok (.dmul (w.extractLsb' 11 6) (w.extractLsb' 17 6) (w.extractLsb' 23 6))
  else if w.extractLsb' 29 3 = 3#3 then .ok (.ddiv (w.extractLsb' 11 6) (w.extractLsb' 17 6) (w.extractLsb' 23 6))
  else if w.extractLsb' 29 3 = 4#3 then .ok (.dmin (w.extractLsb' 11 6) (w.extractLsb' 17 6) (w.extractLsb' 23 6))
  else if w.extractLsb' 29 3 = 5#3 then .ok (.dmax (w.extractLsb' 11 6) (w.extractLsb' 17 6) (w.extractLsb' 23 6))
  else if w.extractLsb' 29 3 = 6#3 then zero (w.extractLsb' 23 6 = 0#6) (.dsqrt (w.extractLsb' 11 6) (w.extractLsb' 17 6))
  else if w.extractLsb' 29 3 = 7#3 then .ok (.dfma (w.extractLsb' 11 6) (w.extractLsb' 17 6) (w.extractLsb' 23 6))
  else .error .reservedSelector

/-- Major 0x14 (R158), R format. -/
def decMajor14 (w : Word) : Except Reject Instr :=
  if w.extractLsb' 29 3 = 0#3 then .ok (.fadd (w.extractLsb' 11 6) (w.extractLsb' 17 6) (w.extractLsb' 23 6))
  else if w.extractLsb' 29 3 = 1#3 then .ok (.fsub (w.extractLsb' 11 6) (w.extractLsb' 17 6) (w.extractLsb' 23 6))
  else if w.extractLsb' 29 3 = 2#3 then .ok (.fmul (w.extractLsb' 11 6) (w.extractLsb' 17 6) (w.extractLsb' 23 6))
  else if w.extractLsb' 29 3 = 3#3 then .ok (.fdiv (w.extractLsb' 11 6) (w.extractLsb' 17 6) (w.extractLsb' 23 6))
  else if w.extractLsb' 29 3 = 4#3 then .ok (.fmin (w.extractLsb' 11 6) (w.extractLsb' 17 6) (w.extractLsb' 23 6))
  else if w.extractLsb' 29 3 = 5#3 then .ok (.fmax (w.extractLsb' 11 6) (w.extractLsb' 17 6) (w.extractLsb' 23 6))
  else if w.extractLsb' 29 3 = 6#3 then zero (w.extractLsb' 23 6 = 0#6) (.fsqrt (w.extractLsb' 11 6) (w.extractLsb' 17 6))
  else if w.extractLsb' 29 3 = 7#3 then .ok (.ffma (w.extractLsb' 11 6) (w.extractLsb' 17 6) (w.extractLsb' 23 6))
  else .error .reservedSelector

/-- Major 0x15 (R158), R format. -/
def decMajor15 (w : Word) : Except Reject Instr :=
  if w.extractLsb' 29 3 = 0#3 then zero (w.extractLsb' 23 6 = 0#6) (.d2i (w.extractLsb' 11 6) (w.extractLsb' 17 6))
  else if w.extractLsb' 29 3 = 1#3 then zero (w.extractLsb' 23 6 = 0#6) (.i2d (w.extractLsb' 11 6) (w.extractLsb' 17 6))
  else if w.extractLsb' 29 3 = 2#3 then zero (w.extractLsb' 23 6 = 0#6) (.f2d (w.extractLsb' 11 6) (w.extractLsb' 17 6))
  else if w.extractLsb' 29 3 = 3#3 then zero (w.extractLsb' 23 6 = 0#6) (.d2f (w.extractLsb' 11 6) (w.extractLsb' 17 6))
  else if w.extractLsb' 29 3 = 4#3 then zero (w.extractLsb' 23 6 = 0#6) (.f2i (w.extractLsb' 11 6) (w.extractLsb' 17 6))
  else if w.extractLsb' 29 3 = 5#3 then zero (w.extractLsb' 23 6 = 0#6) (.i2f (w.extractLsb' 11 6) (w.extractLsb' 17 6))
  else if w.extractLsb' 29 3 = 6#3 then zero (w.extractLsb' 23 6 = 0#6) (.d2z (w.extractLsb' 11 6) (w.extractLsb' 17 6))
  else if w.extractLsb' 29 3 = 7#3 then zero (w.extractLsb' 23 6 = 0#6) (.z2d (w.extractLsb' 11 6) (w.extractLsb' 17 6))
  else .error .reservedSelector

/-- Major 0x16 (R158), R format. -/
def decMajor16 (w : Word) : Except Reject Instr :=
  if w.extractLsb' 29 3 = 0#3 then .ok (.fcmpD (w.extractLsb' 11 3) (w.extractLsb' 14 3) (w.extractLsb' 17 6) (w.extractLsb' 23 6))
  else if w.extractLsb' 29 3 = 1#3 then .ok (.fcmpS (w.extractLsb' 11 3) (w.extractLsb' 14 3) (w.extractLsb' 17 6) (w.extractLsb' 23 6))
  else .error .reservedSelector

/-- Major 0x20 (R158), J format. -/
def decMajor20 (w : Word) : Except Reject Instr :=
  .ok (.br (w.extractLsb' 11 21))

/-- Major 0x21 (R158), J format. -/
def decMajor21 (w : Word) : Except Reject Instr :=
  .ok (.call (w.extractLsb' 11 21))

/-- Major 0x22 (R158), B format. -/
def decMajor22 (w : Word) : Except Reject Instr :=
  .ok (.brc (w.extractLsb' 11 3) (w.getLsbD 14) (w.extractLsb' 15 17))

/-- Major 0x23 (R158), R format. -/
def decMajor23 (w : Word) : Except Reject Instr :=
  if w.extractLsb' 29 3 = 0#3 then zero (w.extractLsb' 23 6 = 0#6 ∧ w.extractLsb' 11 6 = 0#6) (.jr (w.extractLsb' 17 6))
  else if w.extractLsb' 29 3 = 1#3 then zero (w.extractLsb' 23 6 = 0#6) (.jalr (w.extractLsb' 11 6) (w.extractLsb' 17 6))
  else if w.extractLsb' 29 3 = 2#3 then zero (w.extractLsb' 23 6 = 0#6 ∧ w.extractLsb' 17 6 = 0#6 ∧ w.extractLsb' 11 6 = 0#6) .ret
  else .error .reservedSelector

/-- Major 0x24 (R158), I format. -/
def decMajor24 (w : Word) : Except Reject Instr :=
  zero (w.extractLsb' 17 6 = 0#6) (.loop (w.extractLsb' 11 6) (w.extractLsb' 23 9))

/-- Major 0x25 (R158), S format. -/
def decMajor25 (w : Word) : Except Reject Instr :=
  zero (w.extractLsb' 11 6 = 0#6) (.rep (w.extractLsb' 17 6) (w.extractLsb' 23 6) (w.extractLsb' 29 3))

/-- Major 0x26 (R158), S format. -/
def decMajor26 (w : Word) : Except Reject Instr :=
  if w.extractLsb' 29 3 = 0#3 then zero (w.extractLsb' 11 6 = 0#6) (.follow (w.extractLsb' 17 6) (w.extractLsb' 23 6))
  else if w.extractLsb' 29 3 = 1#3 then zero (w.extractLsb' 23 6 = 0#6 ∧ w.extractLsb' 17 6 = 0#6 ∧ w.extractLsb' 11 6 = 0#6) .detach
  else if w.extractLsb' 29 3 = 2#3 then zero (w.extractLsb' 17 6 = 0#6 ∧ w.extractLsb' 11 6 = 0#6) (.rjoin (w.extractLsb' 23 6))
  else if w.extractLsb' 29 3 = 3#3 then zero (w.extractLsb' 23 6 = 0#6 ∧ w.extractLsb' 17 6 = 0#6 ∧ w.extractLsb' 11 6 = 0#6) .fquit
  else .error .reservedSelector

/-- Major 0x27 (R158), R format. -/
def decMajor27 (w : Word) : Except Reject Instr :=
  if w.extractLsb' 29 3 = 0#3 then zero (w.extractLsb' 11 6 = 0#6) (.spawn (w.extractLsb' 17 6) (w.extractLsb' 23 6))
  else if w.extractLsb' 29 3 = 1#3 then zero (w.extractLsb' 11 6 = 0#6) (.spawnc (w.extractLsb' 17 6) (w.extractLsb' 23 6))
  else .error .reservedSelector

/-- Major 0x28 (R158), R format. -/
def decMajor28 (w : Word) : Except Reject Instr :=
  if w.extractLsb' 29 3 = 0#3 then zero (w.extractLsb' 23 6 = 0#6 ∧ w.extractLsb' 11 6 = 0#6) (.enqg (w.extractLsb' 17 6))
  else if w.extractLsb' 29 3 = 1#3 then zero (w.extractLsb' 11 6 = 0#6) (.enql (w.extractLsb' 17 6) (w.extractLsb' 23 6))
  else .error .reservedSelector

/-- Major 0x29 (R158), R format. -/
def decMajor29 (w : Word) : Except Reject Instr :=
  if w.extractLsb' 29 3 = 0#3 then zero (w.extractLsb' 23 6 = 0#6) (.jdec (w.extractLsb' 11 6) (w.extractLsb' 17 6))
  else .error .reservedSelector

/-- Major 0x2a (R158), S format. -/
def decMajor2A (w : Word) : Except Reject Instr :=
  if w.extractLsb' 29 3 = 0#3 then zero (w.extractLsb' 23 6 = 0#6 ∧ w.extractLsb' 17 6 = 0#6 ∧ w.extractLsb' 11 6 = 0#6) .exit
  else if w.extractLsb' 29 3 = 1#3 then zero (w.extractLsb' 23 6 = 0#6 ∧ w.extractLsb' 17 6 = 0#6 ∧ w.extractLsb' 11 6 = 0#6) .yield
  else if w.extractLsb' 29 3 = 2#3 then zero (w.extractLsb' 23 6 = 0#6 ∧ w.extractLsb' 17 6 = 0#6 ∧ w.extractLsb' 11 6 = 0#6) .nop
  else if w.extractLsb' 29 3 = 3#3 then zero (w.extractLsb' 17 6 = 0#6 ∧ w.extractLsb' 11 6 = 0#6) (.sleep (w.extractLsb' 23 6))
  else .error .reservedSelector

/-- Major 0x30 (R158), M format. -/
def decMajor30 (w : Word) : Except Reject Instr :=
  .ok (.ld (w.extractLsb' 11 6) (w.extractLsb' 17 6) (w.extractLsb' 23 2) (w.getLsbD 25) (w.extractLsb' 26 6))

/-- Major 0x31 (R158), M format. -/
def decMajor31 (w : Word) : Except Reject Instr :=
  zero (w.extractLsb' 25 1 = 0#1) (.st (w.extractLsb' 11 6) (w.extractLsb' 17 6) (w.extractLsb' 23 2) (w.extractLsb' 26 6))

/-- Major 0x32 (R158), R format. -/
def decMajor32 (w : Word) : Except Reject Instr :=
  if w.extractLsb' 29 3 = 0#3 then .ok (.ldq (w.extractLsb' 11 6) (w.extractLsb' 17 6) (w.extractLsb' 23 6))
  else if w.extractLsb' 29 3 = 1#3 then .ok (.stq (w.extractLsb' 11 6) (w.extractLsb' 17 6) (w.extractLsb' 23 6))
  else if w.extractLsb' 29 3 = 2#3 then .ok (.ldc (w.extractLsb' 11 6) (w.extractLsb' 17 6) (w.extractLsb' 23 6))
  else if w.extractLsb' 29 3 = 3#3 then .ok (.stc (w.extractLsb' 11 6) (w.extractLsb' 17 6) (w.extractLsb' 23 6))
  else if w.extractLsb' 29 3 = 4#3 then .ok (.ldx (w.extractLsb' 11 6) (w.extractLsb' 17 6) (w.extractLsb' 23 6))
  else if w.extractLsb' 29 3 = 5#3 then .ok (.stx (w.extractLsb' 11 6) (w.extractLsb' 17 6) (w.extractLsb' 23 6))
  else if w.extractLsb' 29 3 = 6#3 then zero (w.extractLsb' 12 5 = 0#5) (.pref (w.getLsbD 11) (w.extractLsb' 17 6) (w.extractLsb' 23 6))
  else .error .reservedSelector

/-- Major 0x33 (R158), R format. -/
def decMajor33 (w : Word) : Except Reject Instr :=
  zero (w.extractLsb' 25 4 = 0#4) (.lda (w.extractLsb' 11 6) (w.extractLsb' 17 6) (w.extractLsb' 23 2) (w.extractLsb' 29 3))

/-- Major 0x34 (R158), R format. -/
def decMajor34 (w : Word) : Except Reject Instr :=
  zero (w.extractLsb' 25 4 = 0#4) (.stl (w.extractLsb' 11 6) (w.extractLsb' 17 6) (w.extractLsb' 23 2) (w.extractLsb' 29 3))

/-- Major 0x35 (R158), R format. -/
def decMajor35 (w : Word) : Except Reject Instr :=
  .ok (.amoadd (w.extractLsb' 11 6) (w.extractLsb' 17 6) (w.extractLsb' 23 6) (w.extractLsb' 29 3))

/-- Major 0x36 (R158), R format. -/
def decMajor36 (w : Word) : Except Reject Instr :=
  .ok (.amoand (w.extractLsb' 11 6) (w.extractLsb' 17 6) (w.extractLsb' 23 6) (w.extractLsb' 29 3))

/-- Major 0x37 (R158), R format. -/
def decMajor37 (w : Word) : Except Reject Instr :=
  .ok (.amoor (w.extractLsb' 11 6) (w.extractLsb' 17 6) (w.extractLsb' 23 6) (w.extractLsb' 29 3))

/-- Major 0x38 (R158), R format. -/
def decMajor38 (w : Word) : Except Reject Instr :=
  .ok (.amoxor (w.extractLsb' 11 6) (w.extractLsb' 17 6) (w.extractLsb' 23 6) (w.extractLsb' 29 3))

/-- Major 0x39 (R158), R format. -/
def decMajor39 (w : Word) : Except Reject Instr :=
  .ok (.amomin (w.extractLsb' 11 6) (w.extractLsb' 17 6) (w.extractLsb' 23 6) (w.extractLsb' 29 3))

/-- Major 0x3a (R158), R format. -/
def decMajor3A (w : Word) : Except Reject Instr :=
  .ok (.amomax (w.extractLsb' 11 6) (w.extractLsb' 17 6) (w.extractLsb' 23 6) (w.extractLsb' 29 3))

/-- Major 0x3b (R158), R format. -/
def decMajor3B (w : Word) : Except Reject Instr :=
  .ok (.amoswap (w.extractLsb' 11 6) (w.extractLsb' 17 6) (w.extractLsb' 23 6) (w.extractLsb' 29 3))

/-- Major 0x3c (R158), R format. -/
def decMajor3C (w : Word) : Except Reject Instr :=
  .ok (.amocas (w.extractLsb' 11 6) (w.extractLsb' 17 6) (w.extractLsb' 23 6) (w.extractLsb' 29 3))

/-- Major 0x3d (R158), R format. -/
def decMajor3D (w : Word) : Except Reject Instr :=
  .ok (.amofadd (w.extractLsb' 11 6) (w.extractLsb' 17 6) (w.extractLsb' 23 6) (w.extractLsb' 29 3))

/-- Major 0x3e (R158), R format. -/
def decMajor3E (w : Word) : Except Reject Instr :=
  zero (w.extractLsb' 14 3 = 0#3) (.red (w.extractLsb' 11 3) (w.extractLsb' 17 6) (w.extractLsb' 23 6) (w.extractLsb' 29 3))

/-- Major 0x3f (R158), S format. -/
def decMajor3F (w : Word) : Except Reject Instr :=
  if w.extractLsb' 30 2 = 0#2 ∧ w.extractLsb' 26 2 = 0#2 then zero (w.extractLsb' 28 2 = 0#2 ∧ w.extractLsb' 17 6 = 0#6 ∧ w.extractLsb' 11 6 = 0#6) (.fenceAcq (w.extractLsb' 23 3))
  else if w.extractLsb' 30 2 = 1#2 ∧ w.extractLsb' 26 2 = 0#2 then zero (w.extractLsb' 28 2 = 0#2 ∧ w.extractLsb' 17 6 = 0#6 ∧ w.extractLsb' 11 6 = 0#6) (.fenceRel (w.extractLsb' 23 3))
  else if w.extractLsb' 30 2 = 2#2 ∧ w.extractLsb' 26 2 = 0#2 then zero (w.extractLsb' 28 2 = 0#2 ∧ w.extractLsb' 17 6 = 0#6 ∧ w.extractLsb' 11 6 = 0#6) (.fenceFull (w.extractLsb' 23 3))
  else if w.extractLsb' 30 2 = 3#2 ∧ w.extractLsb' 26 2 = 0#2 then zero (w.extractLsb' 28 2 = 0#2 ∧ w.extractLsb' 11 6 = 0#6) (.fenceClean (w.extractLsb' 17 6) (w.extractLsb' 23 3))
  else if w.extractLsb' 30 2 = 3#2 ∧ w.extractLsb' 26 2 = 1#2 then zero (w.extractLsb' 28 2 = 0#2 ∧ w.extractLsb' 11 6 = 0#6) (.fenceInv (w.extractLsb' 17 6) (w.extractLsb' 23 3))
  else if w.extractLsb' 30 2 = 3#2 ∧ w.extractLsb' 26 2 = 2#2 then zero (w.extractLsb' 28 2 = 0#2 ∧ w.extractLsb' 11 6 = 0#6) (.fenceCleaninv (w.extractLsb' 17 6) (w.extractLsb' 23 3))
  else .error .reservedSelector

/-- Major 0x40 (R158), W format. -/
def decMajor40 (w : Word) : Except Reject Instr :=
  zero (w.extractLsb' 31 1 = 0#1) (.wait (w.extractLsb' 11 5) (w.extractLsb' 16 5) (w.extractLsb' 21 5) (w.extractLsb' 26 5))

/-- Major 0x41 (R158), R format. -/
def decMajor41 (w : Word) : Except Reject Instr :=
  .ok (.waita (w.extractLsb' 11 3) (w.extractLsb' 14 3) (w.extractLsb' 17 6) (w.extractLsb' 23 6) (w.extractLsb' 29 3))

/-- Major 0x42 (R158), R format. -/
def decMajor42 (w : Word) : Except Reject Instr :=
  if w.extractLsb' 29 3 = 0#3 then zero (w.extractLsb' 11 6 = 0#6) (.binit (w.extractLsb' 17 6) (w.extractLsb' 23 6))
  else if w.extractLsb' 29 3 = 1#3 then zero (w.extractLsb' 23 6 = 0#6) (.barr (w.extractLsb' 11 6) (w.extractLsb' 17 6))
  else if w.extractLsb' 29 3 = 2#3 then .ok (.barb (w.extractLsb' 11 6) (w.extractLsb' 17 6) (w.extractLsb' 23 6))
  else if w.extractLsb' 29 3 = 3#3 then zero (w.extractLsb' 11 6 = 0#6) (.bwait (w.extractLsb' 17 6) (w.extractLsb' 23 6))
  else if w.extractLsb' 29 3 = 4#3 then zero (w.extractLsb' 23 6 = 0#6) (.barw (w.extractLsb' 11 6) (w.extractLsb' 17 6))
  else if w.extractLsb' 29 3 = 5#3 then zero (w.extractLsb' 23 6 = 0#6 ∧ w.extractLsb' 11 6 = 0#6) (.bdrop (w.extractLsb' 17 6))
  else .error .reservedSelector

/-- Major 0x43 (R158), R format. -/
def decMajor43 (w : Word) : Except Reject Instr :=
  if w.extractLsb' 29 3 = 0#3 then zero (w.extractLsb' 26 3 = 0#3) (.cpdn (w.extractLsb' 11 6) (w.extractLsb' 17 6) (w.extractLsb' 23 3))
  else if w.extractLsb' 29 3 = 1#3 then zero (w.extractLsb' 26 3 = 0#3 ∧ w.extractLsb' 11 6 = 0#6) (.waitid (w.extractLsb' 17 6) (w.extractLsb' 23 3))
  else if w.extractLsb' 29 3 = 2#3 then zero (w.extractLsb' 26 3 = 0#3 ∧ w.extractLsb' 17 6 = 0#6) (.cperr (w.extractLsb' 11 6) (w.extractLsb' 23 3))
  else .error .reservedSelector

/-- Major 0x44 (R158), R format. -/
def decMajor44 (w : Word) : Except Reject Instr :=
  if w.extractLsb' 29 3 = 0#3 then .ok (.copy (w.extractLsb' 11 6) (w.extractLsb' 17 6) (w.extractLsb' 23 6))
  else if w.extractLsb' 29 3 = 1#3 then .ok (.copy2 (w.extractLsb' 11 6) (w.extractLsb' 17 6) (w.extractLsb' 23 6))
  else if w.extractLsb' 29 3 = 2#3 then .ok (.copyp (w.extractLsb' 11 6) (w.extractLsb' 17 6) (w.extractLsb' 23 6))
  else if w.extractLsb' 29 3 = 3#3 then .ok (.copyz (w.extractLsb' 11 6) (w.extractLsb' 17 6) (w.extractLsb' 23 6))
  else if w.extractLsb' 29 3 = 4#3 then .ok (.copyf (w.extractLsb' 11 6) (w.extractLsb' 17 6) (w.extractLsb' 23 6))
  else if w.extractLsb' 29 3 = 5#3 then .ok (.copyt (w.extractLsb' 11 6) (w.extractLsb' 17 6) (w.extractLsb' 23 6))
  else if w.extractLsb' 29 3 = 6#3 then .ok (.copyb (w.extractLsb' 11 6) (w.extractLsb' 17 6) (w.extractLsb' 23 6))
  else .error .reservedSelector

/-- Major 0x45 (R158), R format. -/
def decMajor45 (w : Word) : Except Reject Instr :=
  if w.extractLsb' 29 3 = 0#3 then zero (w.extractLsb' 23 6 = 0#6 ∧ w.extractLsb' 16 1 = 0#1) (.stmr (w.extractLsb' 11 5) (w.extractLsb' 17 6))
  else if w.extractLsb' 29 3 = 1#3 then zero (w.extractLsb' 23 6 = 0#6 ∧ w.extractLsb' 16 1 = 0#1) (.stmw (w.extractLsb' 11 5) (w.extractLsb' 17 6))
  else if w.extractLsb' 29 3 = 2#3 then zero (w.extractLsb' 23 6 = 0#6 ∧ w.extractLsb' 22 1 = 0#1) (.stmx (w.extractLsb' 11 6) (w.extractLsb' 17 5))
  else if w.extractLsb' 29 3 = 3#3 then zero (w.extractLsb' 23 6 = 0#6 ∧ w.extractLsb' 22 1 = 0#1 ∧ w.extractLsb' 11 6 = 0#6) (.stmd (w.extractLsb' 17 5))
  else .error .reservedSelector

/-- Major 0x46 (R158), R format. A field that LOGM leaves unused has to be zero (log entry 136). -/
def decMajor46 (w : Word) : Except Reject Instr :=
  if w.extractLsb' 29 3 = 0#3 then .ok (.gath (w.extractLsb' 11 6) (w.extractLsb' 17 6) (w.extractLsb' 23 6))
  else if w.extractLsb' 29 3 = 1#3 then .ok (.gaths (w.extractLsb' 11 6) (w.extractLsb' 17 6) (w.extractLsb' 23 6))
  else if w.extractLsb' 29 3 = 2#3 then .ok (.scat (w.extractLsb' 11 6) (w.extractLsb' 17 6) (w.extractLsb' 23 6))
  else if w.extractLsb' 29 3 = 3#3 then .ok (.scata (w.extractLsb' 11 6) (w.extractLsb' 17 6) (w.extractLsb' 23 6))
  else if w.extractLsb' 29 3 = 4#3 then .ok (.scato (w.extractLsb' 11 6) (w.extractLsb' 17 6) (w.extractLsb' 23 6))
  else if w.extractLsb' 29 3 = 5#3 then zero (w.extractLsb' 23 6 = 0#6 ∧ w.extractLsb' 11 6 = 0#6) (.logm (w.extractLsb' 17 6))
  else if w.extractLsb' 29 3 = 6#3 then .ok (.grest (w.extractLsb' 11 6) (w.extractLsb' 17 6) (w.extractLsb' 23 6))
  else .error .reservedSelector

/-- Major 0x50 (R158), V format. -/
def decMajor50 (w : Word) : Except Reject Instr :=
  if w.extractLsb' 29 3 = 0#3 then .ok (.vfadd (w.extractLsb' 11 5) (w.extractLsb' 16 5) (w.extractLsb' 21 5) (w.extractLsb' 26 3))
  else if w.extractLsb' 29 3 = 1#3 then .ok (.vfsub (w.extractLsb' 11 5) (w.extractLsb' 16 5) (w.extractLsb' 21 5) (w.extractLsb' 26 3))
  else if w.extractLsb' 29 3 = 2#3 then .ok (.vfmul (w.extractLsb' 11 5) (w.extractLsb' 16 5) (w.extractLsb' 21 5) (w.extractLsb' 26 3))
  else if w.extractLsb' 29 3 = 3#3 then .ok (.vfdiv (w.extractLsb' 11 5) (w.extractLsb' 16 5) (w.extractLsb' 21 5) (w.extractLsb' 26 3))
  else if w.extractLsb' 29 3 = 4#3 then .ok (.vfmin (w.extractLsb' 11 5) (w.extractLsb' 16 5) (w.extractLsb' 21 5) (w.extractLsb' 26 3))
  else if w.extractLsb' 29 3 = 5#3 then .ok (.vfmax (w.extractLsb' 11 5) (w.extractLsb' 16 5) (w.extractLsb' 21 5) (w.extractLsb' 26 3))
  else if w.extractLsb' 29 3 = 6#3 then zero (w.extractLsb' 21 5 = 0#5) (.vfabs (w.extractLsb' 11 5) (w.extractLsb' 16 5) (w.extractLsb' 26 3))
  else if w.extractLsb' 29 3 = 7#3 then zero (w.extractLsb' 21 5 = 0#5) (.vfneg (w.extractLsb' 11 5) (w.extractLsb' 16 5) (w.extractLsb' 26 3))
  else .error .reservedSelector

/-- Major 0x51 (R158), V format. -/
def decMajor51 (w : Word) : Except Reject Instr :=
  if w.extractLsb' 29 3 = 0#3 then .ok (.vfma (w.extractLsb' 11 5) (w.extractLsb' 16 5) (w.extractLsb' 21 5) (w.extractLsb' 26 3))
  else if w.extractLsb' 29 3 = 1#3 then .ok (.vfms (w.extractLsb' 11 5) (w.extractLsb' 16 5) (w.extractLsb' 21 5) (w.extractLsb' 26 3))
  else if w.extractLsb' 29 3 = 2#3 then .ok (.vfnma (w.extractLsb' 11 5) (w.extractLsb' 16 5) (w.extractLsb' 21 5) (w.extractLsb' 26 3))
  else if w.extractLsb' 29 3 = 3#3 then zero (w.extractLsb' 21 5 = 0#5) (.vfsqrt (w.extractLsb' 11 5) (w.extractLsb' 16 5) (w.extractLsb' 26 3))
  else if w.extractLsb' 29 3 = 4#3 then zero (w.extractLsb' 21 5 = 0#5) (.vfrsq (w.extractLsb' 11 5) (w.extractLsb' 16 5) (w.extractLsb' 26 3))
  else if w.extractLsb' 29 3 = 5#3 then zero (w.extractLsb' 21 5 = 0#5) (.vfrcp (w.extractLsb' 11 5) (w.extractLsb' 16 5) (w.extractLsb' 26 3))
  else if w.extractLsb' 29 3 = 6#3 then zero (w.extractLsb' 21 5 = 0#5) (.vfex2 (w.extractLsb' 11 5) (w.extractLsb' 16 5) (w.extractLsb' 26 3))
  else if w.extractLsb' 29 3 = 7#3 then zero (w.extractLsb' 21 5 = 0#5) (.vflg2 (w.extractLsb' 11 5) (w.extractLsb' 16 5) (w.extractLsb' 26 3))
  else .error .reservedSelector

/-- Major 0x52 (R158), V format. -/
def decMajor52 (w : Word) : Except Reject Instr :=
  if w.extractLsb' 29 3 = 0#3 then .ok (.vbadd (w.extractLsb' 11 5) (w.extractLsb' 16 5) (w.extractLsb' 21 5) (w.extractLsb' 26 3))
  else if w.extractLsb' 29 3 = 1#3 then .ok (.vbmul (w.extractLsb' 11 5) (w.extractLsb' 16 5) (w.extractLsb' 21 5) (w.extractLsb' 26 3))
  else if w.extractLsb' 29 3 = 2#3 then .ok (.vbfma (w.extractLsb' 11 5) (w.extractLsb' 16 5) (w.extractLsb' 21 5) (w.extractLsb' 26 3))
  else if w.extractLsb' 29 3 = 3#3 then .ok (.vhadd (w.extractLsb' 11 5) (w.extractLsb' 16 5) (w.extractLsb' 21 5) (w.extractLsb' 26 3))
  else if w.extractLsb' 29 3 = 4#3 then .ok (.vhmul (w.extractLsb' 11 5) (w.extractLsb' 16 5) (w.extractLsb' 21 5) (w.extractLsb' 26 3))
  else if w.extractLsb' 29 3 = 5#3 then .ok (.vhfma (w.extractLsb' 11 5) (w.extractLsb' 16 5) (w.extractLsb' 21 5) (w.extractLsb' 26 3))
  else .error .reservedSelector

/-- Major 0x53 (R158), V format. -/
def decMajor53 (w : Word) : Except Reject Instr :=
  if w.extractLsb' 29 3 = 0#3 then .ok (.vadd (w.extractLsb' 11 5) (w.extractLsb' 16 5) (w.extractLsb' 21 5) (w.extractLsb' 26 3))
  else if w.extractLsb' 29 3 = 1#3 then .ok (.vsub (w.extractLsb' 11 5) (w.extractLsb' 16 5) (w.extractLsb' 21 5) (w.extractLsb' 26 3))
  else if w.extractLsb' 29 3 = 2#3 then .ok (.vmul (w.extractLsb' 11 5) (w.extractLsb' 16 5) (w.extractLsb' 21 5) (w.extractLsb' 26 3))
  else if w.extractLsb' 29 3 = 3#3 then .ok (.vmin (w.extractLsb' 11 5) (w.extractLsb' 16 5) (w.extractLsb' 21 5) (w.extractLsb' 26 3))
  else if w.extractLsb' 29 3 = 4#3 then .ok (.vmax (w.extractLsb' 11 5) (w.extractLsb' 16 5) (w.extractLsb' 21 5) (w.extractLsb' 26 3))
  else if w.extractLsb' 29 3 = 5#3 then .ok (.vminz (w.extractLsb' 11 5) (w.extractLsb' 16 5) (w.extractLsb' 21 5) (w.extractLsb' 26 3))
  else if w.extractLsb' 29 3 = 6#3 then .ok (.vmaxz (w.extractLsb' 11 5) (w.extractLsb' 16 5) (w.extractLsb' 21 5) (w.extractLsb' 26 3))
  else if w.extractLsb' 29 3 = 7#3 then zero (w.extractLsb' 21 5 = 0#5) (.vabs (w.extractLsb' 11 5) (w.extractLsb' 16 5) (w.extractLsb' 26 3))
  else .error .reservedSelector

/-- Major 0x54 (R158), V format. -/
def decMajor54 (w : Word) : Except Reject Instr :=
  if w.extractLsb' 29 3 = 0#3 then .ok (.vand (w.extractLsb' 11 5) (w.extractLsb' 16 5) (w.extractLsb' 21 5) (w.extractLsb' 26 3))
  else if w.extractLsb' 29 3 = 1#3 then .ok (.vor (w.extractLsb' 11 5) (w.extractLsb' 16 5) (w.extractLsb' 21 5) (w.extractLsb' 26 3))
  else if w.extractLsb' 29 3 = 2#3 then .ok (.vxor (w.extractLsb' 11 5) (w.extractLsb' 16 5) (w.extractLsb' 21 5) (w.extractLsb' 26 3))
  else if w.extractLsb' 29 3 = 3#3 then .ok (.vandn (w.extractLsb' 11 5) (w.extractLsb' 16 5) (w.extractLsb' 21 5) (w.extractLsb' 26 3))
  else if w.extractLsb' 29 3 = 4#3 then .ok (.vshl (w.extractLsb' 11 5) (w.extractLsb' 16 5) (w.extractLsb' 21 5) (w.extractLsb' 26 3))
  else if w.extractLsb' 29 3 = 5#3 then .ok (.vshr (w.extractLsb' 11 5) (w.extractLsb' 16 5) (w.extractLsb' 21 5) (w.extractLsb' 26 3))
  else if w.extractLsb' 29 3 = 6#3 then .ok (.vsar (w.extractLsb' 11 5) (w.extractLsb' 16 5) (w.extractLsb' 21 5) (w.extractLsb' 26 3))
  else if w.extractLsb' 29 3 = 7#3 then zero (w.extractLsb' 21 5 = 0#5) (.vnot (w.extractLsb' 11 5) (w.extractLsb' 16 5) (w.extractLsb' 26 3))
  else .error .reservedSelector

/-- Major 0x55 (R158), V format. -/
def decMajor55 (w : Word) : Except Reject Instr :=
  zero (w.extractLsb' 14 2 = 0#2) (.vfcmp (w.extractLsb' 11 3) (w.extractLsb' 16 5) (w.extractLsb' 21 5) (w.extractLsb' 26 3) (w.extractLsb' 29 3))

/-- Major 0x56 (R158), V format. -/
def decMajor56 (w : Word) : Except Reject Instr :=
  zero (w.extractLsb' 14 2 = 0#2) (.vicmp (w.extractLsb' 11 3) (w.extractLsb' 16 5) (w.extractLsb' 21 5) (w.extractLsb' 26 3) (w.extractLsb' 29 3))

/-- Major 0x57 (R158), V format. -/
def decMajor57 (w : Word) : Except Reject Instr :=
  if w.extractLsb' 29 3 = 0#3 then .ok (.vsel (w.extractLsb' 11 5) (w.extractLsb' 16 5) (w.extractLsb' 21 5) (w.extractLsb' 26 3))
  else if w.extractLsb' 29 3 = 1#3 then .ok (.vprm (w.extractLsb' 11 5) (w.extractLsb' 16 5) (w.extractLsb' 21 5) (w.extractLsb' 26 3))
  else if w.extractLsb' 29 3 = 2#3 then .ok (.vzip (w.extractLsb' 11 5) (w.extractLsb' 16 5) (w.extractLsb' 21 5) (w.extractLsb' 26 3))
  else if w.extractLsb' 29 3 = 3#3 then .ok (.vunz (w.extractLsb' 11 5) (w.extractLsb' 16 5) (w.extractLsb' 21 5) (w.extractLsb' 26 3))
  else if w.extractLsb' 29 3 = 4#3 then .ok (.vsld (w.extractLsb' 11 5) (w.extractLsb' 16 5) (w.extractLsb' 21 5) (w.extractLsb' 26 3))
  else if w.extractLsb' 29 3 = 5#3 then zero (w.extractLsb' 21 5 = 0#5) (.vcmpr (w.extractLsb' 11 5) (w.extractLsb' 16 5) (w.extractLsb' 26 3))
  else if w.extractLsb' 29 3 = 6#3 then zero (w.extractLsb' 21 5 = 0#5) (.vexpd (w.extractLsb' 11 5) (w.extractLsb' 16 5) (w.extractLsb' 26 3))
  else if w.extractLsb' 29 3 = 7#3 then zero (w.extractLsb' 21 5 = 0#5) (.vmov (w.extractLsb' 11 5) (w.extractLsb' 16 5) (w.extractLsb' 26 3))
  else .error .reservedSelector

/-- Major 0x58 (R158), V format. -/
def decMajor58 (w : Word) : Except Reject Instr :=
  if w.extractLsb' 29 3 = 0#3 then zero (w.extractLsb' 21 5 = 0#5) (.vradd (w.extractLsb' 11 5) (w.extractLsb' 16 5) (w.extractLsb' 26 3))
  else if w.extractLsb' 29 3 = 1#3 then zero (w.extractLsb' 21 5 = 0#5) (.vrmax (w.extractLsb' 11 5) (w.extractLsb' 16 5) (w.extractLsb' 26 3))
  else if w.extractLsb' 29 3 = 2#3 then zero (w.extractLsb' 21 5 = 0#5) (.vrmin (w.extractLsb' 11 5) (w.extractLsb' 16 5) (w.extractLsb' 26 3))
  else if w.extractLsb' 29 3 = 3#3 then zero (w.extractLsb' 21 5 = 0#5) (.vriadd (w.extractLsb' 11 5) (w.extractLsb' 16 5) (w.extractLsb' 26 3))
  else if w.extractLsb' 29 3 = 4#3 then zero (w.extractLsb' 21 5 = 0#5) (.vscan (w.extractLsb' 11 5) (w.extractLsb' 16 5) (w.extractLsb' 26 3))
  else if w.extractLsb' 29 3 = 5#3 then zero (w.extractLsb' 21 5 = 0#5) (.viscan (w.extractLsb' 11 5) (w.extractLsb' 16 5) (w.extractLsb' 26 3))
  else if w.extractLsb' 29 3 = 6#3 then .ok (.vdot (w.extractLsb' 11 5) (w.extractLsb' 16 5) (w.extractLsb' 21 5) (w.extractLsb' 26 3))
  else .error .reservedSelector

/-- Major 0x59 (R158), V format. -/
def decMajor59 (w : Word) : Except Reject Instr :=
  if w.extractLsb' 29 3 = 0#3 then zero (w.extractLsb' 25 1 = 0#1) (.vdec (w.extractLsb' 11 5) (w.extractLsb' 16 5) (w.extractLsb' 21 2) (w.extractLsb' 23 2) (w.extractLsb' 26 3))
  else if w.extractLsb' 29 3 = 1#3 then zero (w.extractLsb' 25 1 = 0#1 ∧ w.extractLsb' 21 2 = 0#2) (.venc (w.extractLsb' 11 5) (w.extractLsb' 16 5) (w.extractLsb' 23 2) (w.extractLsb' 26 3))
  else if w.extractLsb' 29 3 = 2#3 then .ok (.vf2b (w.extractLsb' 11 5) (w.extractLsb' 16 5) (w.extractLsb' 21 5) (w.extractLsb' 26 3))
  else if w.extractLsb' 29 3 = 3#3 then zero (w.extractLsb' 22 4 = 0#4) (.vb2f (w.extractLsb' 11 5) (w.extractLsb' 16 5) (w.getLsbD 21) (w.extractLsb' 26 3))
  else if w.extractLsb' 29 3 = 4#3 then .ok (.vf2h (w.extractLsb' 11 5) (w.extractLsb' 16 5) (w.extractLsb' 21 5) (w.extractLsb' 26 3))
  else if w.extractLsb' 29 3 = 5#3 then zero (w.extractLsb' 22 4 = 0#4) (.vh2f (w.extractLsb' 11 5) (w.extractLsb' 16 5) (w.getLsbD 21) (w.extractLsb' 26 3))
  else if w.extractLsb' 29 3 = 6#3 then zero (w.extractLsb' 21 5 = 0#5) (.vi2f (w.extractLsb' 11 5) (w.extractLsb' 16 5) (w.extractLsb' 26 3))
  else if w.extractLsb' 29 3 = 7#3 then zero (w.extractLsb' 21 5 = 0#5) (.vf2i (w.extractLsb' 11 5) (w.extractLsb' 16 5) (w.extractLsb' 26 3))
  else .error .reservedSelector

/-- Major 0x5a (R158), R format. -/
noncomputable def decMajor5A (w : Word) : Except Reject Instr :=
  if w.extractLsb' 29 3 = 0#3 then zero (w.extractLsb' 16 1 = 0#1) (.vld (w.extractLsb' 11 5) (w.extractLsb' 17 6) (w.extractLsb' 23 6))
  else if w.extractLsb' 29 3 = 1#3 then zero (w.extractLsb' 16 1 = 0#1) (.vst (w.extractLsb' 11 5) (w.extractLsb' 17 6) (w.extractLsb' 23 6))
  else if w.extractLsb' 29 3 = 2#3 then zero (w.extractLsb' 16 1 = 0#1) (.vlds (w.extractLsb' 11 5) (w.extractLsb' 17 6) (w.extractLsb' 23 6))
  else if w.extractLsb' 29 3 = 3#3 then zero (w.extractLsb' 16 1 = 0#1) (.vsts (w.extractLsb' 11 5) (w.extractLsb' 17 6) (w.extractLsb' 23 6))
  else if w.extractLsb' 29 3 = 4#3 then zero (w.extractLsb' 28 1 = 0#1 ∧ w.extractLsb' 16 1 = 0#1) (.vldx (w.extractLsb' 11 5) (w.extractLsb' 17 6) (w.extractLsb' 23 5))
  else if w.extractLsb' 29 3 = 5#3 then zero (w.extractLsb' 28 1 = 0#1 ∧ w.extractLsb' 16 1 = 0#1) (.vstx (w.extractLsb' 11 5) (w.extractLsb' 17 6) (w.extractLsb' 23 5))
  else if w.extractLsb' 29 3 = 6#3 then zero (w.extractLsb' 16 1 = 0#1) (.vldb (w.extractLsb' 11 5) (w.extractLsb' 17 6) (w.extractLsb' 23 6))
  else .error .reservedSelector

/-- Major 0x60 (R158), R format. -/
noncomputable def decMajor60 (w : Word) : Except Reject Instr :=
  if w.extractLsb' 29 3 = 0#3 then zero (w.extractLsb' 16 1 = 0#1) (.tmma (w.extractLsb' 11 2) (w.getLsbD 13) (w.getLsbD 14) (w.getLsbD 15) (w.extractLsb' 17 6) (w.extractLsb' 23 6))
  else .error .reservedSelector

/-- Major 0x61 (R158), R format. -/
noncomputable def decMajor61 (w : Word) : Except Reject Instr :=
  if w.extractLsb' 29 3 = 0#3 ∧ w.extractLsb' 13 2 = 0#2 then zero (w.extractLsb' 23 6 = 0#6 ∧ w.extractLsb' 17 6 = 0#6 ∧ w.extractLsb' 15 2 = 0#2) (.tzero (w.extractLsb' 11 2))
  else if w.extractLsb' 29 3 = 0#3 ∧ w.extractLsb' 13 2 = 1#2 then zero (w.extractLsb' 23 6 = 0#6 ∧ w.extractLsb' 17 6 = 0#6 ∧ w.extractLsb' 15 2 = 0#2) (.tzeroR (w.extractLsb' 11 2))
  else if w.extractLsb' 29 3 = 1#3 ∧ w.extractLsb' 13 2 = 0#2 then zero (w.extractLsb' 15 2 = 0#2) (.tst (w.extractLsb' 11 2) (w.extractLsb' 17 6) (w.extractLsb' 23 6))
  else if w.extractLsb' 29 3 = 1#3 ∧ w.extractLsb' 13 2 = 1#2 then zero (w.extractLsb' 15 2 = 0#2) (.tstBf (w.extractLsb' 11 2) (w.extractLsb' 17 6) (w.extractLsb' 23 6))
  else if w.extractLsb' 29 3 = 1#3 ∧ w.extractLsb' 13 2 = 2#2 then zero (w.extractLsb' 15 2 = 0#2) (.tstCd (w.extractLsb' 11 2) (w.extractLsb' 17 6) (w.extractLsb' 23 6))
  else if w.extractLsb' 29 3 = 1#3 ∧ w.extractLsb' 13 2 = 3#2 then zero (w.extractLsb' 23 6 = 0#6 ∧ w.extractLsb' 15 2 = 0#2) (.tcvt (w.extractLsb' 11 2) (w.extractLsb' 17 6))
  else if w.extractLsb' 29 3 = 2#3 ∧ w.extractLsb' 13 2 = 0#2 then zero (w.extractLsb' 15 2 = 0#2) (.tld (w.extractLsb' 11 2) (w.extractLsb' 17 6) (w.extractLsb' 23 6))
  else if w.extractLsb' 29 3 = 2#3 ∧ w.extractLsb' 13 2 = 1#2 then zero (w.extractLsb' 15 2 = 0#2) (.tldBf (w.extractLsb' 11 2) (w.extractLsb' 17 6) (w.extractLsb' 23 6))
  else if w.extractLsb' 29 3 = 3#3 ∧ w.extractLsb' 13 2 = 0#2 then zero (w.extractLsb' 23 6 = 0#6 ∧ w.extractLsb' 17 6 = 0#6 ∧ w.extractLsb' 15 2 = 0#2) (.tcmt (w.extractLsb' 11 2))
  else if w.extractLsb' 29 3 = 4#3 ∧ w.extractLsb' 13 2 = 0#2 then zero (w.extractLsb' 23 6 = 0#6 ∧ w.extractLsb' 17 6 = 0#6 ∧ w.extractLsb' 15 2 = 0#2) (.tdsc (w.extractLsb' 11 2))
  else if w.extractLsb' 29 3 = 5#3 ∧ w.extractLsb' 13 2 = 0#2 then zero (w.extractLsb' 15 2 = 0#2) (.tadd (w.extractLsb' 11 2) (w.extractLsb' 17 6) (w.extractLsb' 23 6))
  else .error .reservedSelector

/-- Major 0x62 (R158), R format. A field that TBLD, TBST or TBINF leaves unused has to be zero (log entry 136). -/
noncomputable def decMajor62 (w : Word) : Except Reject Instr :=
  if w.extractLsb' 29 3 = 0#3 then zero (w.extractLsb' 23 6 = 0#6 ∧ w.extractLsb' 13 4 = 0#4) (.tbld (w.extractLsb' 11 2) (w.extractLsb' 17 6))
  else if w.extractLsb' 29 3 = 1#3 then zero (w.extractLsb' 23 6 = 0#6 ∧ w.extractLsb' 13 4 = 0#4) (.tbst (w.extractLsb' 11 2) (w.extractLsb' 17 6))
  else if w.extractLsb' 29 3 = 2#3 then zero (w.extractLsb' 25 4 = 0#4 ∧ w.extractLsb' 17 6 = 0#6) (.tbinf (w.extractLsb' 11 6) (w.extractLsb' 23 2))
  else .error .reservedSelector

/-- Major 0x63 (R158), R format. -/
noncomputable def decMajor63 (w : Word) : Except Reject Instr :=
  if w.extractLsb' 29 3 = 0#3 then zero (w.extractLsb' 23 6 = 0#6) (.srd (w.extractLsb' 11 6) (w.extractLsb' 17 6))
  else if w.extractLsb' 29 3 = 1#3 then zero (w.extractLsb' 23 6 = 0#6) (.sadv (w.extractLsb' 11 6) (w.extractLsb' 17 6))
  else if w.extractLsb' 29 3 = 2#3 then .ok (.supd (w.extractLsb' 11 6) (w.extractLsb' 17 6) (w.extractLsb' 23 6))
  else if w.extractLsb' 29 3 = 3#3 then zero (w.extractLsb' 11 6 = 0#6) (.sset (w.extractLsb' 17 6) (w.extractLsb' 23 6))
  else if w.extractLsb' 29 3 = 4#3 then zero (w.extractLsb' 23 6 = 0#6) (.sarm (w.extractLsb' 11 6) (w.extractLsb' 17 6))
  else if w.extractLsb' 29 3 = 5#3 then zero (w.extractLsb' 23 6 = 0#6) (.sdis (w.extractLsb' 11 6) (w.extractLsb' 17 6))
  else if w.extractLsb' 29 3 = 6#3 then zero (w.extractLsb' 11 6 = 0#6) (.sswp (w.extractLsb' 17 6) (w.extractLsb' 23 6))
  else if w.extractLsb' 29 3 = 7#3 then .ok (.sraw (w.extractLsb' 11 6) (w.extractLsb' 17 6) (w.extractLsb' 23 6))
  else .error .reservedSelector

/-- Major 0x64 (R158), R format. -/
noncomputable def decMajor64 (w : Word) : Except Reject Instr :=
  if w.extractLsb' 29 3 = 0#3 then zero (w.extractLsb' 23 6 = 0#6 ∧ w.extractLsb' 16 1 = 0#1) (.vsrd (w.extractLsb' 11 5) (w.extractLsb' 17 6))
  else if w.extractLsb' 29 3 = 1#3 then zero (w.extractLsb' 23 6 = 0#6 ∧ w.extractLsb' 16 1 = 0#1) (.vsadv (w.extractLsb' 11 5) (w.extractLsb' 17 6))
  else if w.extractLsb' 29 3 = 2#3 then zero (w.extractLsb' 28 1 = 0#1 ∧ w.extractLsb' 16 1 = 0#1) (.vsupd (w.extractLsb' 11 5) (w.extractLsb' 17 6) (w.extractLsb' 23 5))
  else if w.extractLsb' 29 3 = 3#3 then zero (w.extractLsb' 23 6 = 0#6 ∧ w.extractLsb' 16 1 = 0#1) (.vsrdy (w.extractLsb' 11 5) (w.extractLsb' 17 6))
  else .error .reservedSelector

/-- Major 0x65 (R158), R format. -/
noncomputable def decMajor65 (w : Word) : Except Reject Instr :=
  if w.extractLsb' 29 3 = 0#3 then zero (w.extractLsb' 23 6 = 0#6 ∧ w.extractLsb' 11 6 = 0#6) (.slaw (w.extractLsb' 17 6))
  else if w.extractLsb' 29 3 = 1#3 then zero (w.extractLsb' 23 6 = 0#6 ∧ w.extractLsb' 17 6 = 0#6) (.sclkr (w.extractLsb' 11 6))
  else if w.extractLsb' 29 3 = 2#3 then zero (w.extractLsb' 23 6 = 0#6 ∧ w.extractLsb' 11 6 = 0#6) (.sclkw (w.extractLsb' 17 6))
  else if w.extractLsb' 29 3 = 3#3 then zero (w.extractLsb' 23 6 = 0#6) (.sclka (w.extractLsb' 11 6) (w.extractLsb' 17 6))
  else if w.extractLsb' 29 3 = 4#3 then zero (w.extractLsb' 23 6 = 0#6 ∧ w.extractLsb' 11 6 = 0#6) (.evpop (w.extractLsb' 17 6))
  else if w.extractLsb' 29 3 = 5#3 then zero (w.extractLsb' 23 6 = 0#6 ∧ w.extractLsb' 17 6 = 0#6 ∧ w.extractLsb' 11 6 = 0#6) .evwait
  else if w.extractLsb' 29 3 = 6#3 then zero (w.extractLsb' 23 6 = 0#6 ∧ w.extractLsb' 17 6 = 0#6) (.stime (w.extractLsb' 11 6))
  else .error .reservedSelector

/-- Major 0x66 (R158), R format. -/
noncomputable def decMajor66 (w : Word) : Except Reject Instr :=
  if w.extractLsb' 29 3 = 0#3 then .ok (.chbnd (w.extractLsb' 11 6) (w.extractLsb' 17 6) (w.extractLsb' 23 6))
  else if w.extractLsb' 29 3 = 1#3 then zero (w.extractLsb' 23 6 = 0#6 ∧ w.extractLsb' 11 6 = 0#6) (.chfld (w.extractLsb' 17 6))
  else if w.extractLsb' 29 3 = 2#3 then zero (w.extractLsb' 23 6 = 0#6 ∧ w.extractLsb' 11 6 = 0#6) (.chspr (w.extractLsb' 17 6))
  else if w.extractLsb' 29 3 = 3#3 then zero (w.extractLsb' 23 6 = 0#6) (.cheq (w.extractLsb' 11 6) (w.extractLsb' 17 6))
  else if w.extractLsb' 29 3 = 4#3 then .ok (.chst (w.extractLsb' 11 6) (w.extractLsb' 17 6) (w.extractLsb' 23 6))
  else if w.extractLsb' 29 3 = 5#3 then zero (w.extractLsb' 27 2 = 0#2 ∧ w.extractLsb' 11 6 = 0#6) (.chend (w.extractLsb' 17 6) (w.extractLsb' 23 3) (w.getLsbD 26))
  else if w.extractLsb' 29 3 = 6#3 then zero (w.extractLsb' 23 6 = 0#6) (.chwt (w.extractLsb' 11 6) (w.extractLsb' 17 6))
  else .error .reservedSelector

/-- Major 0x67 (R158), R format. -/
noncomputable def decMajor67 (w : Word) : Except Reject Instr :=
  if w.extractLsb' 29 3 = 0#3 then zero (w.extractLsb' 23 6 = 0#6 ∧ w.extractLsb' 20 3 = 0#3) (.get (w.extractLsb' 11 6) (w.extractLsb' 17 3))
  else if w.extractLsb' 29 3 = 1#3 then zero (w.extractLsb' 23 6 = 0#6 ∧ w.extractLsb' 20 3 = 0#3) (.put (w.extractLsb' 11 6) (w.extractLsb' 17 3))
  else if w.extractLsb' 29 3 = 2#3 then zero (w.extractLsb' 23 6 = 0#6 ∧ w.extractLsb' 20 3 = 0#3) (.gett (w.extractLsb' 11 6) (w.extractLsb' 17 3))
  else if w.extractLsb' 29 3 = 3#3 then zero (w.extractLsb' 23 6 = 0#6 ∧ w.extractLsb' 20 3 = 0#3) (.putt (w.extractLsb' 11 6) (w.extractLsb' 17 3))
  else if w.extractLsb' 29 3 = 4#3 then zero (w.extractLsb' 23 6 = 0#6 ∧ w.extractLsb' 20 3 = 0#3 ∧ w.extractLsb' 16 1 = 0#1) (.vget (w.extractLsb' 11 5) (w.extractLsb' 17 3))
  else if w.extractLsb' 29 3 = 5#3 then zero (w.extractLsb' 23 6 = 0#6 ∧ w.extractLsb' 20 3 = 0#3 ∧ w.extractLsb' 16 1 = 0#1) (.vput (w.extractLsb' 11 5) (w.extractLsb' 17 3))
  else if w.extractLsb' 29 3 = 6#3 then zero (w.extractLsb' 23 6 = 0#6 ∧ w.extractLsb' 20 3 = 0#3) (.gete (w.extractLsb' 11 6) (w.extractLsb' 17 3))
  else .error .reservedSelector

/-- Major 0x68 (R158), R format. -/
noncomputable def decMajor68 (w : Word) : Except Reject Instr :=
  if w.extractLsb' 29 3 = 0#3 then zero (w.extractLsb' 23 6 = 0#6) (.invoke (w.extractLsb' 11 6) (w.extractLsb' 17 6))
  else if w.extractLsb' 29 3 = 1#3 then .ok (.invon (w.extractLsb' 11 6) (w.extractLsb' 17 6) (w.extractLsb' 23 6))
  else if w.extractLsb' 29 3 = 2#3 then .ok (.invat (w.extractLsb' 11 6) (w.extractLsb' 17 6) (w.extractLsb' 23 6))
  else if w.extractLsb' 29 3 = 3#3 then zero (w.extractLsb' 11 6 = 0#6) (.sendh (w.extractLsb' 17 6) (w.extractLsb' 23 6))
  else .error .reservedSelector

/-- Major 0x69 (R158), R format. -/
noncomputable def decMajor69 (w : Word) : Except Reject Instr :=
  if w.extractLsb' 29 3 = 0#3 then zero (w.extractLsb' 23 6 = 0#6) (.await (w.extractLsb' 11 6) (w.extractLsb' 17 6))
  else if w.extractLsb' 29 3 = 1#3 then zero (w.extractLsb' 23 6 = 0#6) (.awaitt (w.extractLsb' 11 6) (w.extractLsb' 17 6))
  else if w.extractLsb' 29 3 = 2#3 then zero (w.extractLsb' 23 6 = 0#6) (.pollh (w.extractLsb' 11 6) (w.extractLsb' 17 6))
  else if w.extractLsb' 29 3 = 3#3 then zero (w.extractLsb' 23 6 = 0#6 ∧ w.extractLsb' 11 6 = 0#6) (.hdrop (w.extractLsb' 17 6))
  else if w.extractLsb' 29 3 = 4#3 then zero (w.extractLsb' 11 6 = 0#6) (.hbind (w.extractLsb' 17 6) (w.extractLsb' 23 6))
  else if w.extractLsb' 29 3 = 5#3 then zero (w.extractLsb' 11 6 = 0#6) (.hful (w.extractLsb' 17 6) (w.extractLsb' 23 6))
  else if w.extractLsb' 29 3 = 6#3 then zero (w.extractLsb' 11 6 = 0#6) (.hbrk (w.extractLsb' 17 6) (w.extractLsb' 23 6))
  else if w.extractLsb' 29 3 = 7#3 then zero (w.extractLsb' 23 6 = 0#6) (.hstat (w.extractLsb' 11 6) (w.extractLsb' 17 6))
  else .error .reservedSelector

/-- Major 0x70 (R158), E format. -/
noncomputable def decMajor70 (w : Word) : Except Reject Instr :=
  zero (w.extractLsb' 31 1 = 0#1) (.ext (w.extractLsb' 11 3) (w.getLsbD 14) (w.extractLsb' 15 16))

/-- Major 0x71 (R158), U format. -/
noncomputable def decMajor71 (w : Word) : Except Reject Instr :=
  .ok (.csrr (w.extractLsb' 11 6) (w.extractLsb' 17 15))

/-- Major 0x72 (R158), U format. -/
noncomputable def decMajor72 (w : Word) : Except Reject Instr :=
  .ok (.csrw (w.extractLsb' 11 6) (w.extractLsb' 17 15))

/-- Major 0x73 (R158), S format. -/
noncomputable def decMajor73 (w : Word) : Except Reject Instr :=
  if w.extractLsb' 29 3 = 0#3 then zero (w.extractLsb' 23 6 = 0#6 ∧ w.extractLsb' 11 6 = 0#6) (.trap (w.extractLsb' 17 6))
  else if w.extractLsb' 29 3 = 1#3 then zero (w.extractLsb' 23 6 = 0#6 ∧ w.extractLsb' 17 6 = 0#6 ∧ w.extractLsb' 11 6 = 0#6) .eret
  else if w.extractLsb' 29 3 = 2#3 then zero (w.extractLsb' 23 6 = 0#6) (.sret (w.extractLsb' 11 6) (w.extractLsb' 17 6))
  else if w.extractLsb' 29 3 = 3#3 then zero (w.extractLsb' 23 6 = 0#6 ∧ w.extractLsb' 17 6 = 0#6 ∧ w.extractLsb' 11 6 = 0#6) .ecall
  else .error .reservedSelector

/-- Major 0x74 (R158), R format. -/
noncomputable def decMajor74 (w : Word) : Except Reject Instr :=
  if w.extractLsb' 29 3 = 0#3 then zero (w.extractLsb' 11 6 = 0#6) (.tlbir (w.extractLsb' 17 6) (w.extractLsb' 23 6))
  else if w.extractLsb' 29 3 = 1#3 then zero (w.extractLsb' 11 6 = 0#6) (.tlbira (w.extractLsb' 17 6) (w.extractLsb' 23 6))
  else if w.extractLsb' 29 3 = 2#3 then zero (w.extractLsb' 23 6 = 0#6 ∧ w.extractLsb' 17 6 = 0#6 ∧ w.extractLsb' 11 6 = 0#6) .tlbia
  else if w.extractLsb' 29 3 = 3#3 then zero (w.extractLsb' 23 6 = 0#6 ∧ w.extractLsb' 17 6 = 0#6 ∧ w.extractLsb' 11 6 = 0#6) .tlbw
  else .error .reservedSelector

/-- Major 0x75 (R158), R format. -/
noncomputable def decMajor75 (w : Word) : Except Reject Instr :=
  if w.extractLsb' 29 3 = 0#3 then zero (w.extractLsb' 11 6 = 0#6) (.preq (w.extractLsb' 17 6) (w.extractLsb' 23 6))
  else if w.extractLsb' 29 3 = 1#3 then zero (w.extractLsb' 11 6 = 0#6) (.sctx (w.extractLsb' 17 6) (w.extractLsb' 23 6))
  else if w.extractLsb' 29 3 = 2#3 then zero (w.extractLsb' 11 6 = 0#6) (.lctx (w.extractLsb' 17 6) (w.extractLsb' 23 6))
  else if w.extractLsb' 29 3 = 3#3 then zero (w.extractLsb' 23 6 = 0#6 ∧ w.extractLsb' 11 6 = 0#6) (.pins (w.extractLsb' 17 6))
  else if w.extractLsb' 29 3 = 4#3 then zero (w.extractLsb' 23 6 = 0#6 ∧ w.extractLsb' 11 6 = 0#6) (.unpn (w.extractLsb' 17 6))
  else if w.extractLsb' 29 3 = 5#3 then zero (w.extractLsb' 11 6 = 0#6) (.migr (w.extractLsb' 17 6) (w.extractLsb' 23 6))
  else if w.extractLsb' 29 3 = 6#3 then zero (w.extractLsb' 23 6 = 0#6 ∧ w.extractLsb' 11 6 = 0#6) (.telw (w.extractLsb' 17 6))
  else .error .reservedSelector

/-- The 32-bit words (R154, R158): the major opcode in bits 10:4 picks the reading of the operand field. -/
noncomputable def decWord (w : Word) : Except Reject Instr :=
  match (w.extractLsb' 4 7).toNat with
  | 0x00 => decMajor00 w
  | 0x01 => decMajor01 w
  | 0x02 => decMajor02 w
  | 0x03 => decMajor03 w
  | 0x04 => decMajor04 w
  | 0x05 => decMajor05 w
  | 0x06 => decMajor06 w
  | 0x07 => decMajor07 w
  | 0x08 => decMajor08 w
  | 0x09 => decMajor09 w
  | 0x0a => decMajor0A w
  | 0x0b => decMajor0B w
  | 0x0c => decMajor0C w
  | 0x0d => decMajor0D w
  | 0x0e => decMajor0E w
  | 0x0f => decMajor0F w
  | 0x10 => decMajor10 w
  | 0x11 => decMajor11 w
  | 0x12 => decMajor12 w
  | 0x13 => decMajor13 w
  | 0x14 => decMajor14 w
  | 0x15 => decMajor15 w
  | 0x16 => decMajor16 w
  | 0x20 => decMajor20 w
  | 0x21 => decMajor21 w
  | 0x22 => decMajor22 w
  | 0x23 => decMajor23 w
  | 0x24 => decMajor24 w
  | 0x25 => decMajor25 w
  | 0x26 => decMajor26 w
  | 0x27 => decMajor27 w
  | 0x28 => decMajor28 w
  | 0x29 => decMajor29 w
  | 0x2a => decMajor2A w
  | 0x30 => decMajor30 w
  | 0x31 => decMajor31 w
  | 0x32 => decMajor32 w
  | 0x33 => decMajor33 w
  | 0x34 => decMajor34 w
  | 0x35 => decMajor35 w
  | 0x36 => decMajor36 w
  | 0x37 => decMajor37 w
  | 0x38 => decMajor38 w
  | 0x39 => decMajor39 w
  | 0x3a => decMajor3A w
  | 0x3b => decMajor3B w
  | 0x3c => decMajor3C w
  | 0x3d => decMajor3D w
  | 0x3e => decMajor3E w
  | 0x3f => decMajor3F w
  | 0x40 => decMajor40 w
  | 0x41 => decMajor41 w
  | 0x42 => decMajor42 w
  | 0x43 => decMajor43 w
  | 0x44 => decMajor44 w
  | 0x45 => decMajor45 w
  | 0x46 => decMajor46 w
  | 0x50 => decMajor50 w
  | 0x51 => decMajor51 w
  | 0x52 => decMajor52 w
  | 0x53 => decMajor53 w
  | 0x54 => decMajor54 w
  | 0x55 => decMajor55 w
  | 0x56 => decMajor56 w
  | 0x57 => decMajor57 w
  | 0x58 => decMajor58 w
  | 0x59 => decMajor59 w
  | 0x5a => decMajor5A w
  | 0x60 => decMajor60 w
  | 0x61 => decMajor61 w
  | 0x62 => decMajor62 w
  | 0x63 => decMajor63 w
  | 0x64 => decMajor64 w
  | 0x65 => decMajor65 w
  | 0x66 => decMajor66 w
  | 0x67 => decMajor67 w
  | 0x68 => decMajor68 w
  | 0x69 => decMajor69 w
  | 0x70 => decMajor70 w
  | 0x71 => decMajor71 w
  | 0x72 => decMajor72 w
  | 0x73 => decMajor73 w
  | 0x74 => decMajor74 w
  | 0x75 => decMajor75 w
  | _ => .error .reservedMajor

/-- The 16-bit forms (R161): OPC in bits 5:1. -/
noncomputable def decHalf (w : Half) : Except Reject Instr :=
  match (w.extractLsb' 1 5).toNat with
  | 1 => .ok (.cMov (w.extractLsb' 6 5) (w.extractLsb' 11 5))
  | 2 => .ok (.cAdd (w.extractLsb' 6 5) (w.extractLsb' 11 5))
  | 3 => .ok (.cSub (w.extractLsb' 6 5) (w.extractLsb' 11 5))
  | 4 => .ok (.cAddi (w.extractLsb' 6 5) (w.extractLsb' 11 5))
  | 5 => .ok (.cLi (w.extractLsb' 6 5) (w.extractLsb' 11 5))
  | 6 => .ok (.cShli (w.extractLsb' 6 5) (w.extractLsb' 11 5))
  | 7 => .ok (.cShri (w.extractLsb' 6 5) (w.extractLsb' 11 5))
  | 8 => .ok (.cAnd (w.extractLsb' 6 5) (w.extractLsb' 11 5))
  | 9 => .ok (.cOr (w.extractLsb' 6 5) (w.extractLsb' 11 5))
  | 10 => .ok (.cXor (w.extractLsb' 6 5) (w.extractLsb' 11 5))
  | 11 => .ok (.cLd (w.extractLsb' 6 5) (w.extractLsb' 11 5))
  | 12 => .ok (.cSt (w.extractLsb' 6 5) (w.extractLsb' 11 5))
  | 13 => .ok (.cBr (w.extractLsb' 6 10))
  | 14 => .ok (.cBrc (w.extractLsb' 6 3) (w.getLsbD 9) (w.extractLsb' 10 6))
  | 15 => zero (w.extractLsb' 6 10 = 0#10) .cRet
  | 16 => zero (w.extractLsb' 6 10 = 0#10) .cExit
  | 17 => zero (w.extractLsb' 6 10 = 0#10) .cNop
  | 18 => zero (w.extractLsb' 6 10 = 0#10) .cWait0
  | 19 => zero (w.extractLsb' 14 2 = 0#2) (.cGet (w.extractLsb' 6 5) (w.extractLsb' 11 3))
  | 20 => zero (w.extractLsb' 14 2 = 0#2) (.cPut (w.extractLsb' 6 5) (w.extractLsb' 11 3))
  | 21 => .ok (.cCheq (w.extractLsb' 6 5) (w.extractLsb' 11 5))
  | 22 => .ok (.cCmpeq (w.extractLsb' 6 5) (w.extractLsb' 11 5))
  | 23 => .ok (.cCmplt (w.extractLsb' 6 5) (w.extractLsb' 11 5))
  | 24 => zero (w.extractLsb' 6 10 = 0#10) .cYield
  | _ => .error .reservedHalf

/-- Field values the class chapters call illegal (R162). -/
def checkFields (r : Except Reject Instr) : Except Reject Instr :=
  match r with
  | .ok i => if i.fieldsOk then .ok i else .error .illegalField
  | .error e => .error e

/-- A 32-bit word, whose bit 0 is 1 (R153, R162). -/
noncomputable def decodeWord (w : Word) : Except Reject Instr := checkFields (decWord w)

/-- A 16-bit halfword, whose bit 0 is 0 (R153, R161). -/
noncomputable def decodeHalf (w : Half) : Except Reject Instr := checkFields (decHalf w)

/-- The hint of a 32-bit word (R154). -/
def hintOf (w : Word) : Hint := ⟨w.getLsbD 3, w.extractLsb' 1 2⟩

/-- Decoding from bytes, lowest address first (R153): total, rejecting by name. -/
noncomputable def decode : List Byte → Except Reject Decoded
  | b0 :: b1 :: rest =>
    if b0.getLsbD 0 then
      match rest with
      | b2 :: b3 :: _ =>
        let w : Word := b3 ++ b2 ++ b1 ++ b0
        match decodeWord w with
        | .ok i => .ok ⟨i, hintOf w, 4⟩
        | .error e => .error e
      | _ => .error .truncated
    else
      match decodeHalf (b1 ++ b0) with
      | .ok i => .ok ⟨i, Hint.none, 2⟩
      | .error e => .error e
  | _ => .error .truncated

/-! ## Encoding -/

/-- The low eleven bits every 32-bit word has (R154). -/
def packLow (op : BitVec 7) (h : Hint) : BitVec 11 := op ++ BitVec.ofBool h.sch ++ h.ver ++ 1#1
def packR (f : BitVec 3) (b a d : BitVec 6) (op : BitVec 7) (h : Hint) : Word := f ++ b ++ a ++ d ++ packLow op h
def packI (i : BitVec 9) (a d : BitVec 6) (op : BitVec 7) (h : Hint) : Word := i ++ a ++ d ++ packLow op h
def packU (i : BitVec 15) (d : BitVec 6) (op : BitVec 7) (h : Hint) : Word := i ++ d ++ packLow op h
def packJ (i : BitVec 21) (op : BitVec 7) (h : Hint) : Word := i ++ packLow op h
def packB (i : BitVec 17) (n : BitVec 1) (p : BitVec 3) (op : BitVec 7) (h : Hint) : Word := i ++ n ++ p ++ packLow op h
def packV (f m : BitVec 3) (vb va vd : BitVec 5) (op : BitVec 7) (h : Hint) : Word := f ++ m ++ vb ++ va ++ vd ++ packLow op h
def packM (i : BitVec 6) (x : BitVec 1) (sz : BitVec 2) (a d : BitVec 6) (op : BitVec 7) (h : Hint) : Word :=
  i ++ x ++ sz ++ a ++ d ++ packLow op h
def packW (t c s l : BitVec 5) (op : BitVec 7) (h : Hint) : Word := 0#1 ++ t ++ c ++ s ++ l ++ packLow op h
def packE (i : BitVec 16) (hh : BitVec 1) (k : BitVec 3) (op : BitVec 7) (h : Hint) : Word := 0#1 ++ i ++ hh ++ k ++ packLow op h
def packS (sf : BitVec 9) (a d : BitVec 6) (op : BitVec 7) (h : Hint) : Word := sf ++ a ++ d ++ packLow op h

/-- The 32-bit word of an instruction that has one (R154 to R158). -/
def encodeWord (h : Hint) : Instr → Option Word
  | .add d a b => some (packR 0#3 b a d 0x00 h)
  | .sub d a b => some (packR 1#3 b a d 0x00 h)
  | .mul d a b => some (packR 2#3 b a d 0x00 h)
  | .mulh d a b => some (packR 3#3 b a d 0x00 h)
  | .mulhz d a b => some (packR 4#3 b a d 0x00 h)
  | .addw d a b => some (packR 5#3 b a d 0x00 h)
  | .subw d a b => some (packR 6#3 b a d 0x00 h)
  | .neg d a => some (packR 7#3 0#6 a d 0x00 h)
  | .div d a b => some (packR 0#3 b a d 0x01 h)
  | .divz d a b => some (packR 1#3 b a d 0x01 h)
  | .rem d a b => some (packR 2#3 b a d 0x01 h)
  | .remz d a b => some (packR 3#3 b a d 0x01 h)
  | .min d a b => some (packR 4#3 b a d 0x01 h)
  | .max d a b => some (packR 5#3 b a d 0x01 h)
  | .minz d a b => some (packR 6#3 b a d 0x01 h)
  | .maxz d a b => some (packR 7#3 b a d 0x01 h)
  | .and d a b => some (packR 0#3 b a d 0x02 h)
  | .or d a b => some (packR 1#3 b a d 0x02 h)
  | .xor d a b => some (packR 2#3 b a d 0x02 h)
  | .andn d a b => some (packR 3#3 b a d 0x02 h)
  | .orn d a b => some (packR 4#3 b a d 0x02 h)
  | .shl d a b => some (packR 5#3 b a d 0x02 h)
  | .shr d a b => some (packR 6#3 b a d 0x02 h)
  | .sar d a b => some (packR 7#3 b a d 0x02 h)
  | .rol d a b => some (packR 0#3 b a d 0x03 h)
  | .clz d a => some (packR 1#3 0#6 a d 0x03 h)
  | .ctz d a => some (packR 2#3 0#6 a d 0x03 h)
  | .popc d a => some (packR 3#3 0#6 a d 0x03 h)
  | .brev d a => some (packR 4#3 0#6 a d 0x03 h)
  | .bswap d a => some (packR 5#3 0#6 a d 0x03 h)
  | .sext d a w => some (packR 6#3 (0#4 ++ w) a d 0x03 h)
  | .zext d a w => some (packR 7#3 (0#4 ++ w) a d 0x03 h)
  | .addi d a i => some (packI i a d 0x04 h)
  | .andi d a i => some (packI i a d 0x05 h)
  | .ori d a i => some (packI i a d 0x06 h)
  | .xori d a i => some (packI i a d 0x07 h)
  | .shli d a i => some (packI (0#3 ++ i) a d 0x08 h)
  | .shri d a i => some (packI (2#3 ++ i) a d 0x08 h)
  | .sari d a i => some (packI (4#3 ++ i) a d 0x08 h)
  | .roli d a i => some (packI (6#3 ++ i) a d 0x08 h)
  | .cmpi p c a i => some (packI i a (c ++ p) 0x09 h)
  | .cmp p c a b => some (packR 0#3 b a (c ++ p) 0x0a h)
  | .cmpW p c a b => some (packR 1#3 b a (c ++ p) 0x0a h)
  | .sel d a b p => some (packR p b a d 0x0b h)
  | .li d i => some (packU i d 0x0c h)
  | .lie d i => some (packU i d 0x0d h)
  | .bfx d a b => some (packR 0#3 b a d 0x0e h)
  | .bfxz d a b => some (packR 1#3 b a d 0x0e h)
  | .bfi d a b => some (packR 2#3 b a d 0x0e h)
  | .pand d a b => some (packR 0#3 (0#3 ++ b) (0#3 ++ a) (0#3 ++ d) 0x0f h)
  | .por d a b => some (packR 1#3 (0#3 ++ b) (0#3 ++ a) (0#3 ++ d) 0x0f h)
  | .pxor d a b => some (packR 2#3 (0#3 ++ b) (0#3 ++ a) (0#3 ++ d) 0x0f h)
  | .pandn d a b => some (packR 3#3 (0#3 ++ b) (0#3 ++ a) (0#3 ++ d) 0x0f h)
  | .pnot d a => some (packR 4#3 0#6 (0#3 ++ a) (0#3 ++ d) 0x0f h)
  | .pmovg d a => some (packR 5#3 0#6 (0#3 ++ a) d 0x0f h)
  | .pfromg d a => some (packR 6#3 0#6 a (0#3 ++ d) 0x0f h)
  | .pcnt d a => some (packR 7#3 0#6 (0#3 ++ a) d 0x0f h)
  | .cadd d a b => some (packR 0#3 b a d 0x10 h)
  | .csetb d a b => some (packR 1#3 b a d 0x10 h)
  | .candp d a b => some (packR 2#3 b a d 0x10 h)
  | .cget d a s => some (packR 3#3 s a d 0x10 h)
  | .cseal d a b => some (packR 4#3 b a d 0x10 h)
  | .cunseal d a b => some (packR 5#3 b a d 0x10 h)
  | .ctag d a b => some (packR 6#3 b a d 0x10 h)
  | .cclr d a => some (packR 7#3 0#6 a d 0x10 h)
  | .caddi d a i => some (packI i a d 0x11 h)
  | .mov d a => some (packR 0#3 0#6 a d 0x12 h)
  | .move d a => some (packR 1#3 0#6 a (0#3 ++ d) 0x12 h)
  | .movg d a => some (packR 2#3 0#6 (0#3 ++ a) d 0x12 h)
  | .vins d a b => some (packR 3#3 b a (0#1 ++ d) 0x12 h)
  | .vext d a b => some (packR 4#3 b (0#1 ++ a) d 0x12 h)
  | .vbcg d a => some (packR 5#3 0#6 a (0#1 ++ d) 0x12 h)
  | .dadd d a b => some (packR 0#3 b a d 0x13 h)
  | .dsub d a b => some (packR 1#3 b a d 0x13 h)
  | .dmul d a b => some (packR 2#3 b a d 0x13 h)
  | .ddiv d a b => some (packR 3#3 b a d 0x13 h)
  | .dmin d a b => some (packR 4#3 b a d 0x13 h)
  | .dmax d a b => some (packR 5#3 b a d 0x13 h)
  | .dsqrt d a => some (packR 6#3 0#6 a d 0x13 h)
  | .dfma d a b => some (packR 7#3 b a d 0x13 h)
  | .fadd d a b => some (packR 0#3 b a d 0x14 h)
  | .fsub d a b => some (packR 1#3 b a d 0x14 h)
  | .fmul d a b => some (packR 2#3 b a d 0x14 h)
  | .fdiv d a b => some (packR 3#3 b a d 0x14 h)
  | .fmin d a b => some (packR 4#3 b a d 0x14 h)
  | .fmax d a b => some (packR 5#3 b a d 0x14 h)
  | .fsqrt d a => some (packR 6#3 0#6 a d 0x14 h)
  | .ffma d a b => some (packR 7#3 b a d 0x14 h)
  | .d2i d a => some (packR 0#3 0#6 a d 0x15 h)
  | .i2d d a => some (packR 1#3 0#6 a d 0x15 h)
  | .f2d d a => some (packR 2#3 0#6 a d 0x15 h)
  | .d2f d a => some (packR 3#3 0#6 a d 0x15 h)
  | .f2i d a => some (packR 4#3 0#6 a d 0x15 h)
  | .i2f d a => some (packR 5#3 0#6 a d 0x15 h)
  | .d2z d a => some (packR 6#3 0#6 a d 0x15 h)
  | .z2d d a => some (packR 7#3 0#6 a d 0x15 h)
  | .fcmpD p c a b => some (packR 0#3 b a (c ++ p) 0x16 h)
  | .fcmpS p c a b => some (packR 1#3 b a (c ++ p) 0x16 h)
  | .br i => some (packJ i 0x20 h)
  | .call i => some (packJ i 0x21 h)
  | .brc p n i => some (packB i (BitVec.ofBool n) p 0x22 h)
  | .jr a => some (packR 0#3 0#6 a 0#6 0x23 h)
  | .jalr d a => some (packR 1#3 0#6 a d 0x23 h)
  | .ret => some (packR 2#3 0#6 0#6 0#6 0x23 h)
  | .loop d i => some (packI i 0#6 d 0x24 h)
  | .rep a s l => some (packS (l ++ s) a 0#6 0x25 h)
  | .follow a i => some (packS (0#3 ++ i) a 0#6 0x26 h)
  | .detach => some (packS 64#9 0#6 0#6 0x26 h)
  | .rjoin i => some (packS (2#3 ++ i) 0#6 0#6 0x26 h)
  | .fquit => some (packS 192#9 0#6 0#6 0x26 h)
  | .spawn a b => some (packR 0#3 b a 0#6 0x27 h)
  | .spawnc a b => some (packR 1#3 b a 0#6 0x27 h)
  | .enqg a => some (packR 0#3 0#6 a 0#6 0x28 h)
  | .enql a b => some (packR 1#3 b a 0#6 0x28 h)
  | .jdec d a => some (packR 0#3 0#6 a d 0x29 h)
  | .exit => some (packS 0#9 0#6 0#6 0x2a h)
  | .yield => some (packS 64#9 0#6 0#6 0x2a h)
  | .nop => some (packS 128#9 0#6 0#6 0x2a h)
  | .sleep k => some (packS (3#3 ++ k) 0#6 0#6 0x2a h)
  | .ld d a z x i => some (packM i (BitVec.ofBool x) z a d 0x30 h)
  | .st d a z i => some (packM i 0#1 z a d 0x31 h)
  | .ldq d a b => some (packR 0#3 b a d 0x32 h)
  | .stq d a b => some (packR 1#3 b a d 0x32 h)
  | .ldc d a b => some (packR 2#3 b a d 0x32 h)
  | .stc d a b => some (packR 3#3 b a d 0x32 h)
  | .ldx d a b => some (packR 4#3 b a d 0x32 h)
  | .stx d a b => some (packR 5#3 b a d 0x32 h)
  | .pref l a b => some (packR 6#3 b a (0#5 ++ BitVec.ofBool l) 0x32 h)
  | .lda d a w f => some (packR f (0#4 ++ w) a d 0x33 h)
  | .stl d a w f => some (packR f (0#4 ++ w) a d 0x34 h)
  | .amoadd d a b f => some (packR f b a d 0x35 h)
  | .amoand d a b f => some (packR f b a d 0x36 h)
  | .amoor d a b f => some (packR f b a d 0x37 h)
  | .amoxor d a b f => some (packR f b a d 0x38 h)
  | .amomin d a b f => some (packR f b a d 0x39 h)
  | .amomax d a b f => some (packR f b a d 0x3a h)
  | .amoswap d a b f => some (packR f b a d 0x3b h)
  | .amocas d a b f => some (packR f b a d 0x3c h)
  | .amofadd d a b f => some (packR f b a d 0x3d h)
  | .red o a b f => some (packR f b a (0#3 ++ o) 0x3e h)
  | .fenceAcq s => some (packS (0#6 ++ s) 0#6 0#6 0x3f h)
  | .fenceRel s => some (packS (16#6 ++ s) 0#6 0#6 0x3f h)
  | .fenceFull s => some (packS (32#6 ++ s) 0#6 0#6 0x3f h)
  | .fenceClean a s => some (packS (48#6 ++ s) a 0#6 0x3f h)
  | .fenceInv a s => some (packS (49#6 ++ s) a 0#6 0x3f h)
  | .fenceCleaninv a s => some (packS (50#6 ++ s) a 0#6 0x3f h)
  | .wait l s c t => some (packW t c s l 0x40 h)
  | .waita s c a b k => some (packR k b a (c ++ s) 0x41 h)
  | .binit a b => some (packR 0#3 b a 0#6 0x42 h)
  | .barr d a => some (packR 1#3 0#6 a d 0x42 h)
  | .barb d a b => some (packR 2#3 b a d 0x42 h)
  | .bwait a b => some (packR 3#3 b a 0#6 0x42 h)
  | .barw d a => some (packR 4#3 0#6 a d 0x42 h)
  | .bdrop a => some (packR 5#3 0#6 a 0#6 0x42 h)
  | .cpdn d a c => some (packR 0#3 (0#3 ++ c) a d 0x43 h)
  | .waitid a c => some (packR 1#3 (0#3 ++ c) a 0#6 0x43 h)
  | .cperr d c => some (packR 2#3 (0#3 ++ c) 0#6 d 0x43 h)
  | .copy d a b => some (packR 0#3 b a d 0x44 h)
  | .copy2 d a b => some (packR 1#3 b a d 0x44 h)
  | .copyp d a b => some (packR 2#3 b a d 0x44 h)
  | .copyz d a b => some (packR 3#3 b a d 0x44 h)
  | .copyf d a b => some (packR 4#3 b a d 0x44 h)
  | .copyt d a b => some (packR 5#3 b a d 0x44 h)
  | .copyb d a b => some (packR 6#3 b a d 0x44 h)
  | .stmr d a => some (packR 0#3 0#6 a (0#1 ++ d) 0x45 h)
  | .stmw d a => some (packR 1#3 0#6 a (0#1 ++ d) 0x45 h)
  | .stmx d a => some (packR 2#3 0#6 (0#1 ++ a) d 0x45 h)
  | .stmd a => some (packR 3#3 0#6 (0#1 ++ a) 0#6 0x45 h)
  | .gath d a b => some (packR 0#3 b a d 0x46 h)
  | .gaths d a b => some (packR 1#3 b a d 0x46 h)
  | .scat d a b => some (packR 2#3 b a d 0x46 h)
  | .scata d a b => some (packR 3#3 b a d 0x46 h)
  | .scato d a b => some (packR 4#3 b a d 0x46 h)
  | .logm a => some (packR 5#3 0#6 a 0#6 0x46 h)
  | .grest d a b => some (packR 6#3 b a d 0x46 h)
  | .vfadd d a b m => some (packV 0#3 m b a d 0x50 h)
  | .vfsub d a b m => some (packV 1#3 m b a d 0x50 h)
  | .vfmul d a b m => some (packV 2#3 m b a d 0x50 h)
  | .vfdiv d a b m => some (packV 3#3 m b a d 0x50 h)
  | .vfmin d a b m => some (packV 4#3 m b a d 0x50 h)
  | .vfmax d a b m => some (packV 5#3 m b a d 0x50 h)
  | .vfabs d a m => some (packV 6#3 m 0#5 a d 0x50 h)
  | .vfneg d a m => some (packV 7#3 m 0#5 a d 0x50 h)
  | .vfma d a b m => some (packV 0#3 m b a d 0x51 h)
  | .vfms d a b m => some (packV 1#3 m b a d 0x51 h)
  | .vfnma d a b m => some (packV 2#3 m b a d 0x51 h)
  | .vfsqrt d a m => some (packV 3#3 m 0#5 a d 0x51 h)
  | .vfrsq d a m => some (packV 4#3 m 0#5 a d 0x51 h)
  | .vfrcp d a m => some (packV 5#3 m 0#5 a d 0x51 h)
  | .vfex2 d a m => some (packV 6#3 m 0#5 a d 0x51 h)
  | .vflg2 d a m => some (packV 7#3 m 0#5 a d 0x51 h)
  | .vbadd d a b m => some (packV 0#3 m b a d 0x52 h)
  | .vbmul d a b m => some (packV 1#3 m b a d 0x52 h)
  | .vbfma d a b m => some (packV 2#3 m b a d 0x52 h)
  | .vhadd d a b m => some (packV 3#3 m b a d 0x52 h)
  | .vhmul d a b m => some (packV 4#3 m b a d 0x52 h)
  | .vhfma d a b m => some (packV 5#3 m b a d 0x52 h)
  | .vadd d a b m => some (packV 0#3 m b a d 0x53 h)
  | .vsub d a b m => some (packV 1#3 m b a d 0x53 h)
  | .vmul d a b m => some (packV 2#3 m b a d 0x53 h)
  | .vmin d a b m => some (packV 3#3 m b a d 0x53 h)
  | .vmax d a b m => some (packV 4#3 m b a d 0x53 h)
  | .vminz d a b m => some (packV 5#3 m b a d 0x53 h)
  | .vmaxz d a b m => some (packV 6#3 m b a d 0x53 h)
  | .vabs d a m => some (packV 7#3 m 0#5 a d 0x53 h)
  | .vand d a b m => some (packV 0#3 m b a d 0x54 h)
  | .vor d a b m => some (packV 1#3 m b a d 0x54 h)
  | .vxor d a b m => some (packV 2#3 m b a d 0x54 h)
  | .vandn d a b m => some (packV 3#3 m b a d 0x54 h)
  | .vshl d a b m => some (packV 4#3 m b a d 0x54 h)
  | .vshr d a b m => some (packV 5#3 m b a d 0x54 h)
  | .vsar d a b m => some (packV 6#3 m b a d 0x54 h)
  | .vnot d a m => some (packV 7#3 m 0#5 a d 0x54 h)
  | .vfcmp p a b m c => some (packV c m b a (0#2 ++ p) 0x55 h)
  | .vicmp p a b m c => some (packV c m b a (0#2 ++ p) 0x56 h)
  | .vsel d a b m => some (packV 0#3 m b a d 0x57 h)
  | .vprm d a b m => some (packV 1#3 m b a d 0x57 h)
  | .vzip d a b m => some (packV 2#3 m b a d 0x57 h)
  | .vunz d a b m => some (packV 3#3 m b a d 0x57 h)
  | .vsld d a b m => some (packV 4#3 m b a d 0x57 h)
  | .vcmpr d a m => some (packV 5#3 m 0#5 a d 0x57 h)
  | .vexpd d a m => some (packV 6#3 m 0#5 a d 0x57 h)
  | .vmov d a m => some (packV 7#3 m 0#5 a d 0x57 h)
  | .vradd d a m => some (packV 0#3 m 0#5 a d 0x58 h)
  | .vrmax d a m => some (packV 1#3 m 0#5 a d 0x58 h)
  | .vrmin d a m => some (packV 2#3 m 0#5 a d 0x58 h)
  | .vriadd d a m => some (packV 3#3 m 0#5 a d 0x58 h)
  | .vscan d a m => some (packV 4#3 m 0#5 a d 0x58 h)
  | .viscan d a m => some (packV 5#3 m 0#5 a d 0x58 h)
  | .vdot d a b m => some (packV 6#3 m b a d 0x58 h)
  | .vdec d a s q m => some (packV 0#3 m (0#1 ++ q ++ s) a d 0x59 h)
  | .venc d a q m => some (packV 1#3 m (0#1 ++ q ++ 0#2) a d 0x59 h)
  | .vf2b d a b m => some (packV 2#3 m b a d 0x59 h)
  | .vb2f d a x m => some (packV 3#3 m (0#4 ++ BitVec.ofBool x) a d 0x59 h)
  | .vf2h d a b m => some (packV 4#3 m b a d 0x59 h)
  | .vh2f d a x m => some (packV 5#3 m (0#4 ++ BitVec.ofBool x) a d 0x59 h)
  | .vi2f d a m => some (packV 6#3 m 0#5 a d 0x59 h)
  | .vf2i d a m => some (packV 7#3 m 0#5 a d 0x59 h)
  | .vld d a b => some (packR 0#3 b a (0#1 ++ d) 0x5a h)
  | .vst d a b => some (packR 1#3 b a (0#1 ++ d) 0x5a h)
  | .vlds d a b => some (packR 2#3 b a (0#1 ++ d) 0x5a h)
  | .vsts d a b => some (packR 3#3 b a (0#1 ++ d) 0x5a h)
  | .vldx d a b => some (packR 4#3 (0#1 ++ b) a (0#1 ++ d) 0x5a h)
  | .vstx d a b => some (packR 5#3 (0#1 ++ b) a (0#1 ++ d) 0x5a h)
  | .vldb d a b => some (packR 6#3 b a (0#1 ++ d) 0x5a h)
  | .tmma n z hBit c a b => some (packR 0#3 b a (0#1 ++ BitVec.ofBool c ++ BitVec.ofBool hBit ++ BitVec.ofBool z ++ n) 0x60 h)
  | .tzero n => some (packR 0#3 0#6 0#6 (0#4 ++ n) 0x61 h)
  | .tzeroR n => some (packR 0#3 0#6 0#6 (1#4 ++ n) 0x61 h)
  | .tst n a b => some (packR 1#3 b a (0#4 ++ n) 0x61 h)
  | .tstBf n a b => some (packR 1#3 b a (1#4 ++ n) 0x61 h)
  | .tstCd n a b => some (packR 1#3 b a (2#4 ++ n) 0x61 h)
  | .tcvt n a => some (packR 1#3 0#6 a (3#4 ++ n) 0x61 h)
  | .tld n a b => some (packR 2#3 b a (0#4 ++ n) 0x61 h)
  | .tldBf n a b => some (packR 2#3 b a (1#4 ++ n) 0x61 h)
  | .tcmt n => some (packR 3#3 0#6 0#6 (0#4 ++ n) 0x61 h)
  | .tdsc n => some (packR 4#3 0#6 0#6 (0#4 ++ n) 0x61 h)
  | .tadd n a b => some (packR 5#3 b a (0#4 ++ n) 0x61 h)
  | .tbld s a => some (packR 0#3 0#6 a (0#4 ++ s) 0x62 h)
  | .tbst s a => some (packR 1#3 0#6 a (0#4 ++ s) 0x62 h)
  | .tbinf d s => some (packR 2#3 (0#4 ++ s) 0#6 d 0x62 h)
  | .srd d a => some (packR 0#3 0#6 a d 0x63 h)
  | .sadv d a => some (packR 1#3 0#6 a d 0x63 h)
  | .supd d a b => some (packR 2#3 b a d 0x63 h)
  | .sset a b => some (packR 3#3 b a 0#6 0x63 h)
  | .sarm d a => some (packR 4#3 0#6 a d 0x63 h)
  | .sdis d a => some (packR 5#3 0#6 a d 0x63 h)
  | .sswp a b => some (packR 6#3 b a 0#6 0x63 h)
  | .sraw d a m => some (packR 7#3 m a d 0x63 h)
  | .vsrd d a => some (packR 0#3 0#6 a (0#1 ++ d) 0x64 h)
  | .vsadv d a => some (packR 1#3 0#6 a (0#1 ++ d) 0x64 h)
  | .vsupd d a b => some (packR 2#3 (0#1 ++ b) a (0#1 ++ d) 0x64 h)
  | .vsrdy d a => some (packR 3#3 0#6 a (0#1 ++ d) 0x64 h)
  | .slaw a => some (packR 0#3 0#6 a 0#6 0x65 h)
  | .sclkr d => some (packR 1#3 0#6 0#6 d 0x65 h)
  | .sclkw a => some (packR 2#3 0#6 a 0#6 0x65 h)
  | .sclka d a => some (packR 3#3 0#6 a d 0x65 h)
  | .evpop a => some (packR 4#3 0#6 a 0#6 0x65 h)
  | .evwait => some (packR 5#3 0#6 0#6 0#6 0x65 h)
  | .stime d => some (packR 6#3 0#6 0#6 d 0x65 h)
  | .chbnd d a b => some (packR 0#3 b a d 0x66 h)
  | .chfld a => some (packR 1#3 0#6 a 0#6 0x66 h)
  | .chspr a => some (packR 2#3 0#6 a 0#6 0x66 h)
  | .cheq d a => some (packR 3#3 0#6 a d 0x66 h)
  | .chst d a b => some (packR 4#3 b a d 0x66 h)
  | .chend a p k => some (packR 5#3 (0#2 ++ BitVec.ofBool k ++ p) a 0#6 0x66 h)
  | .chwt d a => some (packR 6#3 0#6 a d 0x66 h)
  | .get d p => some (packR 0#3 0#6 (0#3 ++ p) d 0x67 h)
  | .put d p => some (packR 1#3 0#6 (0#3 ++ p) d 0x67 h)
  | .gett d p => some (packR 2#3 0#6 (0#3 ++ p) d 0x67 h)
  | .putt d p => some (packR 3#3 0#6 (0#3 ++ p) d 0x67 h)
  | .vget d p => some (packR 4#3 0#6 (0#3 ++ p) (0#1 ++ d) 0x67 h)
  | .vput d p => some (packR 5#3 0#6 (0#3 ++ p) (0#1 ++ d) 0x67 h)
  | .gete d p => some (packR 6#3 0#6 (0#3 ++ p) d 0x67 h)
  | .invoke d a => some (packR 0#3 0#6 a d 0x68 h)
  | .invon d a b => some (packR 1#3 b a d 0x68 h)
  | .invat d a b => some (packR 2#3 b a d 0x68 h)
  | .sendh a b => some (packR 3#3 b a 0#6 0x68 h)
  | .await d a => some (packR 0#3 0#6 a d 0x69 h)
  | .awaitt d a => some (packR 1#3 0#6 a d 0x69 h)
  | .pollh d a => some (packR 2#3 0#6 a d 0x69 h)
  | .hdrop a => some (packR 3#3 0#6 a 0#6 0x69 h)
  | .hbind a b => some (packR 4#3 b a 0#6 0x69 h)
  | .hful a b => some (packR 5#3 b a 0#6 0x69 h)
  | .hbrk a b => some (packR 6#3 b a 0#6 0x69 h)
  | .hstat d a => some (packR 7#3 0#6 a d 0x69 h)
  | .ext k w i => some (packE i (BitVec.ofBool w) k 0x70 h)
  | .csrr d i => some (packU i d 0x71 h)
  | .csrw d i => some (packU i d 0x72 h)
  | .trap a => some (packS 0#9 a 0#6 0x73 h)
  | .eret => some (packS 64#9 0#6 0#6 0x73 h)
  | .sret d a => some (packS 128#9 a d 0x73 h)
  | .ecall => some (packS 192#9 0#6 0#6 0x73 h)
  | .tlbir a b => some (packR 0#3 b a 0#6 0x74 h)
  | .tlbira a b => some (packR 1#3 b a 0#6 0x74 h)
  | .tlbia => some (packR 2#3 0#6 0#6 0#6 0x74 h)
  | .tlbw => some (packR 3#3 0#6 0#6 0#6 0x74 h)
  | .preq a b => some (packR 0#3 b a 0#6 0x75 h)
  | .sctx a b => some (packR 1#3 b a 0#6 0x75 h)
  | .lctx a b => some (packR 2#3 b a 0#6 0x75 h)
  | .pins a => some (packR 3#3 0#6 a 0#6 0x75 h)
  | .unpn a => some (packR 4#3 0#6 a 0#6 0x75 h)
  | .migr a b => some (packR 5#3 b a 0#6 0x75 h)
  | .telw a => some (packR 6#3 0#6 a 0#6 0x75 h)
  | .cMov _ _ => none
  | .cAdd _ _ => none
  | .cSub _ _ => none
  | .cAddi _ _ => none
  | .cLi _ _ => none
  | .cShli _ _ => none
  | .cShri _ _ => none
  | .cAnd _ _ => none
  | .cOr _ _ => none
  | .cXor _ _ => none
  | .cLd _ _ => none
  | .cSt _ _ => none
  | .cBr _ => none
  | .cBrc _ _ _ => none
  | .cRet => none
  | .cExit => none
  | .cNop => none
  | .cWait0 => none
  | .cGet _ _ => none
  | .cPut _ _ => none
  | .cCheq _ _ => none
  | .cCmpeq _ _ => none
  | .cCmplt _ _ => none
  | .cYield => none
  | .illegalInstruction _ _ => none
  | .wake _ => none
  | .waitaTimeout _ => none
  | .sleepExpiry _ => none
  | .rjoinTimeout _ => none
  | .followerLagDetach _ => none
  | .followerIssue _ => none
  | .strandRetire _ => none
  | .engineTake _ => none
  | .tmmaKblock _ => none
  | .accumOpComplete _ => none
  | .recheckComplete _ => none
  | .chknWrite _ _ => none
  | .stickWrite _ _ => none
  | .balanceRound _ => none
  | .dispatch _ => none
  | .dispatchRetry _ => none
  | .heldRecordPush _ _ => none
  | .pageFill _ _ => none
  | .pageDrain _ _ => none
  | .l1Evict _ _ => none
  | .rowCacheFill _ _ => none
  | .homeRequest _ => none
  | .routerMerge _ _ => none
  | .combiningFlush _ => none
  | .orphanReduction _ => none
  | .pageWalk _ _ => none
  | .stalledWriteRetry _ => none
  | .tlbInvalidateAck _ => none
  | .migrationCommit _ => none
  | .copyUnitLand _ _ => none
  | .copyComplete _ _ => none
  | .copyError _ _ _ _ => none
  | .gatherElement _ _ _ => none
  | .gatherComplete _ _ => none
  | .vectorLoadComplete _ _ _ => none
  | .vstateLane _ _ _ => none
  | .calendarFire _ _ => none
  | .fireRequestServe _ => none
  | .heldFiringPost _ _ => none
  | .sweepPass _ => none
  | .sweepWord _ => none
  | .chainPolicySample _ _ => none
  | .chainFold _ _ => none
  | .chainSpread _ _ => none
  | .chainTriggerTimeout _ _ => none
  | .chainStateFree _ _ => none
  | .handleMessage _ => none
  | .mailboxDeliver _ _ => none
  | .handleLinkTimeout _ _ => none
  | .spillCatch _ => none
  | .spillReplay _ => none
  | .preemptRequest _ _ _ _ => none
  | .copyDrainExpiry _ _ _ => none
  | .preemptHaltComplete _ _ _ => none
  | .crewResume _ _ _ => none
  | .faultRecordPlace _ => none
  | .telemetryRecordPlace _ => none
  | .doorbell _ _ _ => none
  | .dependenceResolved _ _ => none
  | .crewPlace _ => none
  | .priorityPreempt _ => none
  | .quantumExpiry _ => none
  | .launchEnd _ _ => none
  | .thermalClockStep _ => none
  | .thermalHold => none
  | .thermalRelease => none
  | .inputOutOfRange => none
  | .reset => none
  | .bootStage1 => none
  | .bootStage2 _ _ _ => none
  | .dziacFrameReceive _ _ _ _ => none
  | .hostAccess _ => none
  | .functionLevelReset _ => none
  | .partitionActivate _ => none
  | .partitionDeactivate _ => none
  | .resizeRequest _ _ => none
  | .resizeLeaveClear _ => none
  | .resizeCommit _ => none
  | .layerAdd _ _ => none
  | .layerPredictiveRemove _ _ => none
  | .layerFinalRemove _ _ => none
  | .laycmdNop _ _ => none
  | .layerErrorLimit _ _ => none
  | .attestRequest _ _ => none
  | .attestDone _ => none
  | .sysresResume _ => none
  | .sysresKill _ => none
  | .intmaskWrite _ _ => none
  | .counterClear _ _ => none
  | .globalCounterClear _ => none
  | .syserrClear => none
  | .firmwareUpdate _ => none
  | .firmwareUpdateCommit _ => none
  | .firmwareUpdateDone => none
  | .registerWrite _ _ _ => none
  | .storeComplete _ => none
  | .inputBackInRange => none
  | .thermalClockRaise _ => none

/-- The 16-bit halfword of an instruction that has one (R161). -/
def encodeHalf : Instr → Option Half
  | .add _ _ _ => none
  | .sub _ _ _ => none
  | .mul _ _ _ => none
  | .mulh _ _ _ => none
  | .mulhz _ _ _ => none
  | .addw _ _ _ => none
  | .subw _ _ _ => none
  | .neg _ _ => none
  | .div _ _ _ => none
  | .divz _ _ _ => none
  | .rem _ _ _ => none
  | .remz _ _ _ => none
  | .min _ _ _ => none
  | .max _ _ _ => none
  | .minz _ _ _ => none
  | .maxz _ _ _ => none
  | .and _ _ _ => none
  | .or _ _ _ => none
  | .xor _ _ _ => none
  | .andn _ _ _ => none
  | .orn _ _ _ => none
  | .shl _ _ _ => none
  | .shr _ _ _ => none
  | .sar _ _ _ => none
  | .rol _ _ _ => none
  | .clz _ _ => none
  | .ctz _ _ => none
  | .popc _ _ => none
  | .brev _ _ => none
  | .bswap _ _ => none
  | .sext _ _ _ => none
  | .zext _ _ _ => none
  | .addi _ _ _ => none
  | .andi _ _ _ => none
  | .ori _ _ _ => none
  | .xori _ _ _ => none
  | .shli _ _ _ => none
  | .shri _ _ _ => none
  | .sari _ _ _ => none
  | .roli _ _ _ => none
  | .cmpi _ _ _ _ => none
  | .cmp _ _ _ _ => none
  | .cmpW _ _ _ _ => none
  | .sel _ _ _ _ => none
  | .li _ _ => none
  | .lie _ _ => none
  | .bfx _ _ _ => none
  | .bfxz _ _ _ => none
  | .bfi _ _ _ => none
  | .pand _ _ _ => none
  | .por _ _ _ => none
  | .pxor _ _ _ => none
  | .pandn _ _ _ => none
  | .pnot _ _ => none
  | .pmovg _ _ => none
  | .pfromg _ _ => none
  | .pcnt _ _ => none
  | .cadd _ _ _ => none
  | .csetb _ _ _ => none
  | .candp _ _ _ => none
  | .cget _ _ _ => none
  | .cseal _ _ _ => none
  | .cunseal _ _ _ => none
  | .ctag _ _ _ => none
  | .cclr _ _ => none
  | .caddi _ _ _ => none
  | .mov _ _ => none
  | .move _ _ => none
  | .movg _ _ => none
  | .vins _ _ _ => none
  | .vext _ _ _ => none
  | .vbcg _ _ => none
  | .dadd _ _ _ => none
  | .dsub _ _ _ => none
  | .dmul _ _ _ => none
  | .ddiv _ _ _ => none
  | .dmin _ _ _ => none
  | .dmax _ _ _ => none
  | .dsqrt _ _ => none
  | .dfma _ _ _ => none
  | .fadd _ _ _ => none
  | .fsub _ _ _ => none
  | .fmul _ _ _ => none
  | .fdiv _ _ _ => none
  | .fmin _ _ _ => none
  | .fmax _ _ _ => none
  | .fsqrt _ _ => none
  | .ffma _ _ _ => none
  | .d2i _ _ => none
  | .i2d _ _ => none
  | .f2d _ _ => none
  | .d2f _ _ => none
  | .f2i _ _ => none
  | .i2f _ _ => none
  | .d2z _ _ => none
  | .z2d _ _ => none
  | .fcmpD _ _ _ _ => none
  | .fcmpS _ _ _ _ => none
  | .br _ => none
  | .call _ => none
  | .brc _ _ _ => none
  | .jr _ => none
  | .jalr _ _ => none
  | .ret => none
  | .loop _ _ => none
  | .rep _ _ _ => none
  | .follow _ _ => none
  | .detach => none
  | .rjoin _ => none
  | .fquit => none
  | .spawn _ _ => none
  | .spawnc _ _ => none
  | .enqg _ => none
  | .enql _ _ => none
  | .jdec _ _ => none
  | .exit => none
  | .yield => none
  | .nop => none
  | .sleep _ => none
  | .ld _ _ _ _ _ => none
  | .st _ _ _ _ => none
  | .ldq _ _ _ => none
  | .stq _ _ _ => none
  | .ldc _ _ _ => none
  | .stc _ _ _ => none
  | .ldx _ _ _ => none
  | .stx _ _ _ => none
  | .pref _ _ _ => none
  | .lda _ _ _ _ => none
  | .stl _ _ _ _ => none
  | .amoadd _ _ _ _ => none
  | .amoand _ _ _ _ => none
  | .amoor _ _ _ _ => none
  | .amoxor _ _ _ _ => none
  | .amomin _ _ _ _ => none
  | .amomax _ _ _ _ => none
  | .amoswap _ _ _ _ => none
  | .amocas _ _ _ _ => none
  | .amofadd _ _ _ _ => none
  | .red _ _ _ _ => none
  | .fenceAcq _ => none
  | .fenceRel _ => none
  | .fenceFull _ => none
  | .fenceClean _ _ => none
  | .fenceInv _ _ => none
  | .fenceCleaninv _ _ => none
  | .wait _ _ _ _ => none
  | .waita _ _ _ _ _ => none
  | .binit _ _ => none
  | .barr _ _ => none
  | .barb _ _ _ => none
  | .bwait _ _ => none
  | .barw _ _ => none
  | .bdrop _ => none
  | .cpdn _ _ _ => none
  | .waitid _ _ => none
  | .cperr _ _ => none
  | .copy _ _ _ => none
  | .copy2 _ _ _ => none
  | .copyp _ _ _ => none
  | .copyz _ _ _ => none
  | .copyf _ _ _ => none
  | .copyt _ _ _ => none
  | .copyb _ _ _ => none
  | .stmr _ _ => none
  | .stmw _ _ => none
  | .stmx _ _ => none
  | .stmd _ => none
  | .gath _ _ _ => none
  | .gaths _ _ _ => none
  | .scat _ _ _ => none
  | .scata _ _ _ => none
  | .scato _ _ _ => none
  | .logm _ => none
  | .grest _ _ _ => none
  | .vfadd _ _ _ _ => none
  | .vfsub _ _ _ _ => none
  | .vfmul _ _ _ _ => none
  | .vfdiv _ _ _ _ => none
  | .vfmin _ _ _ _ => none
  | .vfmax _ _ _ _ => none
  | .vfabs _ _ _ => none
  | .vfneg _ _ _ => none
  | .vfma _ _ _ _ => none
  | .vfms _ _ _ _ => none
  | .vfnma _ _ _ _ => none
  | .vfsqrt _ _ _ => none
  | .vfrsq _ _ _ => none
  | .vfrcp _ _ _ => none
  | .vfex2 _ _ _ => none
  | .vflg2 _ _ _ => none
  | .vbadd _ _ _ _ => none
  | .vbmul _ _ _ _ => none
  | .vbfma _ _ _ _ => none
  | .vhadd _ _ _ _ => none
  | .vhmul _ _ _ _ => none
  | .vhfma _ _ _ _ => none
  | .vadd _ _ _ _ => none
  | .vsub _ _ _ _ => none
  | .vmul _ _ _ _ => none
  | .vmin _ _ _ _ => none
  | .vmax _ _ _ _ => none
  | .vminz _ _ _ _ => none
  | .vmaxz _ _ _ _ => none
  | .vabs _ _ _ => none
  | .vand _ _ _ _ => none
  | .vor _ _ _ _ => none
  | .vxor _ _ _ _ => none
  | .vandn _ _ _ _ => none
  | .vshl _ _ _ _ => none
  | .vshr _ _ _ _ => none
  | .vsar _ _ _ _ => none
  | .vnot _ _ _ => none
  | .vfcmp _ _ _ _ _ => none
  | .vicmp _ _ _ _ _ => none
  | .vsel _ _ _ _ => none
  | .vprm _ _ _ _ => none
  | .vzip _ _ _ _ => none
  | .vunz _ _ _ _ => none
  | .vsld _ _ _ _ => none
  | .vcmpr _ _ _ => none
  | .vexpd _ _ _ => none
  | .vmov _ _ _ => none
  | .vradd _ _ _ => none
  | .vrmax _ _ _ => none
  | .vrmin _ _ _ => none
  | .vriadd _ _ _ => none
  | .vscan _ _ _ => none
  | .viscan _ _ _ => none
  | .vdot _ _ _ _ => none
  | .vdec _ _ _ _ _ => none
  | .venc _ _ _ _ => none
  | .vf2b _ _ _ _ => none
  | .vb2f _ _ _ _ => none
  | .vf2h _ _ _ _ => none
  | .vh2f _ _ _ _ => none
  | .vi2f _ _ _ => none
  | .vf2i _ _ _ => none
  | .vld _ _ _ => none
  | .vst _ _ _ => none
  | .vlds _ _ _ => none
  | .vsts _ _ _ => none
  | .vldx _ _ _ => none
  | .vstx _ _ _ => none
  | .vldb _ _ _ => none
  | .tmma _ _ _ _ _ _ => none
  | .tzero _ => none
  | .tzeroR _ => none
  | .tst _ _ _ => none
  | .tstBf _ _ _ => none
  | .tstCd _ _ _ => none
  | .tcvt _ _ => none
  | .tld _ _ _ => none
  | .tldBf _ _ _ => none
  | .tcmt _ => none
  | .tdsc _ => none
  | .tadd _ _ _ => none
  | .tbld _ _ => none
  | .tbst _ _ => none
  | .tbinf _ _ => none
  | .srd _ _ => none
  | .sadv _ _ => none
  | .supd _ _ _ => none
  | .sset _ _ => none
  | .sarm _ _ => none
  | .sdis _ _ => none
  | .sswp _ _ => none
  | .sraw _ _ _ => none
  | .vsrd _ _ => none
  | .vsadv _ _ => none
  | .vsupd _ _ _ => none
  | .vsrdy _ _ => none
  | .slaw _ => none
  | .sclkr _ => none
  | .sclkw _ => none
  | .sclka _ _ => none
  | .evpop _ => none
  | .evwait => none
  | .stime _ => none
  | .chbnd _ _ _ => none
  | .chfld _ => none
  | .chspr _ => none
  | .cheq _ _ => none
  | .chst _ _ _ => none
  | .chend _ _ _ => none
  | .chwt _ _ => none
  | .get _ _ => none
  | .put _ _ => none
  | .gett _ _ => none
  | .putt _ _ => none
  | .vget _ _ => none
  | .vput _ _ => none
  | .gete _ _ => none
  | .invoke _ _ => none
  | .invon _ _ _ => none
  | .invat _ _ _ => none
  | .sendh _ _ => none
  | .await _ _ => none
  | .awaitt _ _ => none
  | .pollh _ _ => none
  | .hdrop _ => none
  | .hbind _ _ => none
  | .hful _ _ => none
  | .hbrk _ _ => none
  | .hstat _ _ => none
  | .ext _ _ _ => none
  | .csrr _ _ => none
  | .csrw _ _ => none
  | .trap _ => none
  | .eret => none
  | .sret _ _ => none
  | .ecall => none
  | .tlbir _ _ => none
  | .tlbira _ _ => none
  | .tlbia => none
  | .tlbw => none
  | .preq _ _ => none
  | .sctx _ _ => none
  | .lctx _ _ => none
  | .pins _ => none
  | .unpn _ => none
  | .migr _ _ => none
  | .telw _ => none
  | .cMov d a => some (a ++ d ++ 1#5 ++ 0#1)
  | .cAdd d a => some (a ++ d ++ 2#5 ++ 0#1)
  | .cSub d a => some (a ++ d ++ 3#5 ++ 0#1)
  | .cAddi d i => some (i ++ d ++ 4#5 ++ 0#1)
  | .cLi d i => some (i ++ d ++ 5#5 ++ 0#1)
  | .cShli d i => some (i ++ d ++ 6#5 ++ 0#1)
  | .cShri d i => some (i ++ d ++ 7#5 ++ 0#1)
  | .cAnd d a => some (a ++ d ++ 8#5 ++ 0#1)
  | .cOr d a => some (a ++ d ++ 9#5 ++ 0#1)
  | .cXor d a => some (a ++ d ++ 10#5 ++ 0#1)
  | .cLd d a => some (a ++ d ++ 11#5 ++ 0#1)
  | .cSt d a => some (a ++ d ++ 12#5 ++ 0#1)
  | .cBr i => some (i ++ 13#5 ++ 0#1)
  | .cBrc p n i => some (i ++ BitVec.ofBool n ++ p ++ 14#5 ++ 0#1)
  | .cRet => some (0#10 ++ 15#5 ++ 0#1)
  | .cExit => some (0#10 ++ 16#5 ++ 0#1)
  | .cNop => some (0#10 ++ 17#5 ++ 0#1)
  | .cWait0 => some (0#10 ++ 18#5 ++ 0#1)
  | .cGet d p => some (0#2 ++ p ++ d ++ 19#5 ++ 0#1)
  | .cPut d p => some (0#2 ++ p ++ d ++ 20#5 ++ 0#1)
  | .cCheq d a => some (a ++ d ++ 21#5 ++ 0#1)
  | .cCmpeq d a => some (a ++ d ++ 22#5 ++ 0#1)
  | .cCmplt d a => some (a ++ d ++ 23#5 ++ 0#1)
  | .cYield => some (0#10 ++ 24#5 ++ 0#1)
  | .illegalInstruction _ _ => none
  | .wake _ => none
  | .waitaTimeout _ => none
  | .sleepExpiry _ => none
  | .rjoinTimeout _ => none
  | .followerLagDetach _ => none
  | .followerIssue _ => none
  | .strandRetire _ => none
  | .engineTake _ => none
  | .tmmaKblock _ => none
  | .accumOpComplete _ => none
  | .recheckComplete _ => none
  | .chknWrite _ _ => none
  | .stickWrite _ _ => none
  | .balanceRound _ => none
  | .dispatch _ => none
  | .dispatchRetry _ => none
  | .heldRecordPush _ _ => none
  | .pageFill _ _ => none
  | .pageDrain _ _ => none
  | .l1Evict _ _ => none
  | .rowCacheFill _ _ => none
  | .homeRequest _ => none
  | .routerMerge _ _ => none
  | .combiningFlush _ => none
  | .orphanReduction _ => none
  | .pageWalk _ _ => none
  | .stalledWriteRetry _ => none
  | .tlbInvalidateAck _ => none
  | .migrationCommit _ => none
  | .copyUnitLand _ _ => none
  | .copyComplete _ _ => none
  | .copyError _ _ _ _ => none
  | .gatherElement _ _ _ => none
  | .gatherComplete _ _ => none
  | .vectorLoadComplete _ _ _ => none
  | .vstateLane _ _ _ => none
  | .calendarFire _ _ => none
  | .fireRequestServe _ => none
  | .heldFiringPost _ _ => none
  | .sweepPass _ => none
  | .sweepWord _ => none
  | .chainPolicySample _ _ => none
  | .chainFold _ _ => none
  | .chainSpread _ _ => none
  | .chainTriggerTimeout _ _ => none
  | .chainStateFree _ _ => none
  | .handleMessage _ => none
  | .mailboxDeliver _ _ => none
  | .handleLinkTimeout _ _ => none
  | .spillCatch _ => none
  | .spillReplay _ => none
  | .preemptRequest _ _ _ _ => none
  | .copyDrainExpiry _ _ _ => none
  | .preemptHaltComplete _ _ _ => none
  | .crewResume _ _ _ => none
  | .faultRecordPlace _ => none
  | .telemetryRecordPlace _ => none
  | .doorbell _ _ _ => none
  | .dependenceResolved _ _ => none
  | .crewPlace _ => none
  | .priorityPreempt _ => none
  | .quantumExpiry _ => none
  | .launchEnd _ _ => none
  | .thermalClockStep _ => none
  | .thermalHold => none
  | .thermalRelease => none
  | .inputOutOfRange => none
  | .reset => none
  | .bootStage1 => none
  | .bootStage2 _ _ _ => none
  | .dziacFrameReceive _ _ _ _ => none
  | .hostAccess _ => none
  | .functionLevelReset _ => none
  | .partitionActivate _ => none
  | .partitionDeactivate _ => none
  | .resizeRequest _ _ => none
  | .resizeLeaveClear _ => none
  | .resizeCommit _ => none
  | .layerAdd _ _ => none
  | .layerPredictiveRemove _ _ => none
  | .layerFinalRemove _ _ => none
  | .laycmdNop _ _ => none
  | .layerErrorLimit _ _ => none
  | .attestRequest _ _ => none
  | .attestDone _ => none
  | .sysresResume _ => none
  | .sysresKill _ => none
  | .intmaskWrite _ _ => none
  | .counterClear _ _ => none
  | .globalCounterClear _ => none
  | .syserrClear => none
  | .firmwareUpdate _ => none
  | .firmwareUpdateCommit _ => none
  | .firmwareUpdateDone => none
  | .registerWrite _ _ _ => none
  | .storeComplete _ => none
  | .inputBackInRange => none
  | .thermalClockRaise _ => none

/-- The bytes of an instruction, lowest address first (R153); an event has none. -/
def encode (h : Hint) (i : Instr) : List Byte :=
  match encodeWord h i with
  | some w => [w.extractLsb' 0 8, w.extractLsb' 8 8, w.extractLsb' 16 8, w.extractLsb' 24 8]
  | none =>
    match encodeHalf i with
    | some w => [w.extractLsb' 0 8, w.extractLsb' 8 8]
    | none => []

/-- The instruction the decoder reads from an instruction whose bits are `w`, bit 0 the least significant of its first
halfword; bits above `nbits` are zero. -/
noncomputable def decodeTableWord (nbits w : Nat) : Option Instr :=
  match decode ((List.range 4).map (fun i => BitVec.ofNat 8 (w % 2 ^ nbits / 2 ^ (8 * i)))) with
  | .ok d => some d.insn
  | .error _ => none

end Sys2Proof
end

