-- ==== Sys2Proof/Config.lean ====
section
/-!
DEFINITION. What is fixed for the machine and what the manual leaves open. An `opaque` constant has no body: nothing can be
proved about its value, so a claim that mentions it holds whatever it is.
-/
namespace Sys2Proof.Config

/-- The binary32 pattern of a rounding that every tried precision leaves undecided; no input is known to reach it. UNVERIFIED, log entry 12. -/
opaque unresolvedRounding : Nat → Nat

/-- A free value of any width, cut by its reader: the n-th value the machine draws where the manual states none. Log entry 13. -/
opaque freeValue : Nat → Nat

/-- Whether a device of the domain has an ACTIVE partition of a partition set (R394): the other devices are outside this machine. Log entry 16. -/
opaque peerHolds : Nat → Nat → Bool

/-- Whether a layer of another device is present there for its partition set (R115, R394): the other devices are outside this machine.
Log entry 16. -/
opaque peerLayer : Nat → Nat → Bool

/-- Whether routers apply the check of a partition's bitmap to requests from its cores to L2 homes too (R391). Log entry 127. -/
opaque homeRouted : Bool

/-- Whether a host window unit of another device's partition set is mapped (R115, R394): the other devices are outside this machine. Log entry 16. -/
opaque peerWindow : Nat → Nat → Bool

/-- The EXTRA bits of a scope mismatch (R334): the recorded scope, the kind of the recorded party and its number, or none for R140's cases, in a layout the manual does not give. Log entry 31. -/
opaque scopeExtra : Option (Nat × Nat × Nat) → Nat

/-! ## Cryptography and the owner's payloads (R379 to R385): standards and layouts that stand outside the manual. Log entry 57. -/

/-- A key pair (R381): an ECDSA P-384 public key and an LMS public key. -/
abbrev KeyPair := List Byte × List Byte

/-- Whether an ECDSA P-384 signature of a message verifies under a public key. UNVERIFIED, log entry 57. -/
opaque ecdsaVerifies (key message signature : List Byte) : Bool

/-- Whether an LMS signature of a message verifies under a public key. UNVERIFIED, log entry 57. -/
opaque lmsVerifies (key message signature : List Byte) : Bool

/-- SHA-384. UNVERIFIED, log entry 57. -/
opaque sha384 (message : List Byte) : BitVec 384

/-- The vendor root pair in mask ROM (R382). -/
opaque vendorRoot : KeyPair

/-- The key pairs an owner configuration block's payload names (R382). -/
opaque ownerPairs (payload : List Byte) : List KeyPair

/-- The images an owner configuration block's payload lists: flash offset and kind (R379, R382). -/
opaque ownerImages (payload : List Byte) : List (Nat × Nat)

/-- Where in the identity data the two LMS state records stand (R379, R384). UNVERIFIED, log entry 122. -/
opaque lmsRecordOffset : Nat

/-- The identity key's signature of a message (R384), and whether another one verifies. UNVERIFIED, log entry 57. -/
opaque identitySignature (message : List Byte) : Nat
opaque identityVerifies (message signature : List Byte) : Bool

/-- What a domain configuration block's payload gives (R393): this device's id, whether it is the time master, and the id of a Dziac port's
peer, 255 for a port that is not used. -/
opaque domainDevice (payload : List Byte) : Fin 192
opaque domainMaster (payload : List Byte) : Bool
opaque domainPeer (payload : List Byte) (port : Nat) : BitVec 8

/-- What a sensor of the module reads at a TIME (R421): TEMP0 to TEMP4 and, as number 5, PWR. Log entry 13. -/
opaque sensor (time number : Nat) : Nat

/-- SHA-384 of the identity public key (R384, R385). -/
opaque identityKeyHash : BitVec 384

end Sys2Proof.Config
end

