-- ==== Sys2Proof/Machine/Base.lean ====
section
/-!
DEFINITION. Finite tables of plain data, and the byte-order helpers every layout uses.
-/
namespace Sys2Proof.Machine

/-- A finite table: the first pair with a key gives its value. -/
abbrev Table (κ α : Type) := List (κ × α)

namespace Table
variable {κ α : Type} [DecidableEq κ]

def find? : Table κ α → κ → Option α
  | [], _ => none
  | (k', a) :: rest, k => if k' = k then some a else find? rest k

def getD (t : Table κ α) (k : κ) (d : α) : α := (find? t k).getD d

/-- Sets a key's value in place, or appends it. -/
def set : Table κ α → κ → α → Table κ α
  | [], k, a => [(k, a)]
  | (k', a') :: rest, k, a => if k' = k then (k, a) :: rest else (k', a') :: set rest k a

def erase (t : Table κ α) (k : κ) : Table κ α := t.filter (fun e => decide (e.1 ≠ k))

def modify (t : Table κ α) (k : κ) (d : α) (f : α → α) : Table κ α := set t k (f (getD t k d))

end Table

/-- A list with the element at an index replaced; out of range it is unchanged. -/
def listSet {α : Type} : List α → Nat → α → List α
  | [], _, _ => []
  | _ :: xs, 0, a => a :: xs
  | x :: xs, n + 1, a => x :: listSet xs n a

/-- A list with the element at an index removed. -/
def listDrop {α : Type} : List α → Nat → List α
  | [], _ => []
  | _ :: xs, 0 => xs
  | x :: xs, n + 1 => x :: listDrop xs n

/-- A little-endian value of bytes (R86, R153). -/
def ofBytes : List Byte → Nat
  | [] => 0
  | b :: rest => b.toNat + 256 * ofBytes rest

/-- The `n` little-endian bytes of a value. -/
def toBytes : Nat → Nat → List Byte
  | 0, _ => []
  | n + 1, v => BitVec.ofNat 8 v :: toBytes n (v / 256)

/-- Bits hi down to lo of a natural number. -/
def natBits (v hi lo : Nat) : Nat := v / 2 ^ lo % 2 ^ (hi - lo + 1)

/-- One bit of a natural number. -/
def natBit (v i : Nat) : Bool := v / 2 ^ i % 2 == 1

/-- `f 0, f 1, …` for n elements. -/
def tabulate {α : Type} (n : Nat) (f : Nat → α) : List α := (List.range n).map f

/-- Quotient rounded up. -/
def ceilDiv (a b : Nat) : Nat := (a + b - 1) / b

end Sys2Proof.Machine
end

