-- ==== Sys2Proof/Machine/Cap.lean ====
section
/-!
DEFINITION. Capabilities (R49 to R53): the fields of a tagged g register, its bounds, the re-encoding when its address moves,
and the checks every dereference makes before translation.
-/
namespace Sys2Proof.Machine

/-- A 128-bit value with its tag: a capability when the tag is set (R49). -/
structure Cap where
  bits : Qword
  tag : Bool
deriving DecidableEq, Repr

namespace Cap

/-- The null capability (R49). -/
def null : Cap := ⟨0, false⟩

def addr (c : Cap) : Dword := c.bits.extractLsb' 0 64
def perms (c : Cap) : BitVec 12 := c.bits.extractLsb' 64 12
def kind (c : Cap) : BitVec 4 := c.bits.extractLsb' 76 4
def otype (c : Cap) : BitVec 8 := c.bits.extractLsb' 80 8
def hiCount (c : Cap) : BitVec 16 := c.bits.extractLsb' 88 16
def loCount (c : Cap) : BitVec 16 := c.bits.extractLsb' 104 16
def expo (c : Cap) : BitVec 6 := c.bits.extractLsb' 120 6
def rsv (c : Cap) : BitVec 2 := c.bits.extractLsb' 126 2

def permR (c : Cap) : Bool := c.bits.getLsbD 64
def permW (c : Cap) : Bool := c.bits.getLsbD 65
def permX (c : Cap) : Bool := c.bits.getLsbD 66
def permLdc (c : Cap) : Bool := c.bits.getLsbD 67
def permStc (c : Cap) : Bool := c.bits.getLsbD 68
def permSeal (c : Cap) : Bool := c.bits.getLsbD 69
def permUnseal (c : Cap) : Bool := c.bits.getLsbD 70
def permGlobal (c : Cap) : Bool := c.bits.getLsbD 71
def permScr (c : Cap) : Bool := c.bits.getLsbD 72
def permState (c : Cap) : Bool := c.bits.getLsbD 73
def permInvoke (c : Cap) : Bool := c.bits.getLsbD 74
def permSys (c : Cap) : Bool := c.bits.getLsbD 75

/-- A capability from its fields (R49). -/
def make (e : BitVec 6) (lo hi : BitVec 16) (otype : BitVec 8) (kind : BitVec 4) (perms : BitVec 12) (addr : Dword) : Qword :=
  (0#2) ++ e ++ lo ++ hi ++ otype ++ kind ++ perms ++ addr

def withAddr (c : Cap) (a : Dword) : Cap := { c with bits := c.bits.extractLsb' 64 64 ++ a }
def withCounts (c : Cap) (lo hi : BitVec 16) : Cap :=
  { c with bits := c.bits.extractLsb' 120 8 ++ lo ++ hi ++ c.bits.extractLsb' 0 88 }
def withOtype (c : Cap) (t : BitVec 8) : Cap :=
  { c with bits := c.bits.extractLsb' 88 40 ++ t ++ c.bits.extractLsb' 0 80 }
def withPerms (c : Cap) (p : BitVec 12) : Cap :=
  { c with bits := c.bits.extractLsb' 76 52 ++ p ++ c.bits.extractLsb' 0 64 }
def withKind (c : Cap) (k : BitVec 4) : Cap :=
  { c with bits := c.bits.extractLsb' 80 48 ++ k ++ c.bits.extractLsb' 0 76 }
def untag (c : Cap) : Cap := { c with tag := false }

/-- BoundsOf (R51): base and top. -/
def bounds (c : Cap) : Nat × Nat :=
  if c.expo.toNat = 48 then (0, 2 ^ 64)
  else if 48 < c.expo.toNat then (0, 0)
  else
    let g : Int := 2 ^ c.expo.toNat
    let k : Int := (c.addr.toNat : Int) / g
    let base := (k - c.loCount.toInt) * g
    let top := (k + c.hiCount.toInt) * g
    if base < 0 ∨ 2 ^ 64 < top ∨ top < base then (0, 0) else (base.toNat, top.toNat)

def base (c : Cap) : Nat := c.bounds.1
def top (c : Cap) : Nat := c.bounds.2

/-- Moving the address (R52): an untagged value moves as plain bits; a tagged one re-encodes its counts, and loses its tag
outside its representable region. -/
def move (c : Cap) (a : Dword) : Cap :=
  if !c.tag then c.withAddr a
  else if 48 ≤ c.expo.toNat then c.withAddr a
  else
    let g : Nat := 2 ^ c.expo.toNat
    let k : Int := (c.addr.toNat / g : Nat)
    let k' : Int := (a.toNat / g : Nat)
    let lo := c.loCount.toInt + (k' - k)
    let hi := c.hiCount.toInt - (k' - k)
    let fits := decide (-(2 ^ 15) ≤ lo) && decide (lo < 2 ^ 15) && decide (-(2 ^ 15) ≤ hi) && decide (hi < 2 ^ 15)
    let d := (c.withAddr a).withCounts (BitVec.ofInt 16 lo) (BitVec.ofInt 16 hi)
    { d with tag := fits }

/-- A reserved kind or a set reserved bit (R50): such a granule arrives untagged. -/
def malformed (c : Cap) : Bool := decide (6 < c.kind.toNat) || decide (c.rsv ≠ 0)

end Cap

/-- Whether bits 63:48 of an address repeat bit 47 (R49). -/
def canonical (a : Dword) : Bool := a == (a.extractLsb' 0 48).signExtend 64

/-- An address inside the scratchpad window range (R53). -/
def inScratchRange (a : Nat) : Bool := decide (0x7F0000000000 ≤ a) && decide (a ≤ 0x7F07FFFFFFFF)

/-- The rights an access asks of its capability. -/
structure Need where
  r : Bool := false
  w : Bool := false
  x : Bool := false
  ldc : Bool := false
  stc : Bool := false
  state : Bool := false
  sys : Bool := false
  scr : Bool := false
  invoke : Bool := false
deriving DecidableEq, Repr

/-- Whether a capability grants the rights, SCR included where the address needs it (R53). -/
def Cap.grants (c : Cap) (n : Need) (a : Dword) : Bool :=
  (!n.r || c.permR) && (!n.w || c.permW) && (!n.x || c.permX) && (!n.ldc || c.permLdc) && (!n.stc || c.permStc) &&
  (!n.state || c.permState) && (!n.sys || c.permSys) && (!n.scr || c.permScr) && (!n.invoke || c.permInvoke) && (!inScratchRange a.toNat || c.permScr)

/-- CapCheck (R53): the cause of the first check that fails, with TVAL = a at the caller. `kinds` lists the accepted kinds,
`n` is the size in bytes and `align` the alignment. -/
def Cap.check (c : Cap) (kinds : List Nat) (need : Need) (a : Dword) (n align : Nat) : Option (BitVec 8) :=
  if !c.tag then some 0x04
  else if c.otype ≠ 0 then some 0x05
  else if !kinds.contains c.kind.toNat then some 0x03
  else if !c.grants need a then some 0x03
  else if !canonical a || decide (a.toNat < c.base) || decide (c.top < a.toNat + n) then some 0x02
  else if a.toNat % align ≠ 0 then some 0x08
  else none

end Sys2Proof.Machine
end

