-- ==== Sys2Proof/Machine/Float.lean ====
section
/-!
DEFINITION. Floating point (R60 to R66): the four formats, exact dyadic values, one rounding function, and the
operations as exact values rounded once. Patterns are natural numbers here; the instructions cut and widen them.
-/
namespace Sys2Proof.Machine

/-- The five sticky flags of FFLG (R64): NV, DZ, OF, UF, NX in bits 4 to 0. -/
abbrev FFlags := BitVec 5
namespace FFlags
def none : FFlags := 0
def nv : FFlags := 0b10000
def dz : FFlags := 0b01000
def of' : FFlags := 0b00100
def uf : FFlags := 0b00010
def nx : FFlags := 0b00001
end FFlags

/-- The rounding modes of FRM (R63). -/
inductive Rm where
  | rne | rtz | rup | rdn
deriving DecidableEq, Repr

/-- The mode a two-bit RM field names (R63). -/
def Rm.ofBits (b : BitVec 2) : Rm :=
  match b.toNat with
  | 0 => .rne
  | 1 => .rtz
  | 2 => .rup
  | _ => .rdn

/-- A binary interchange format: exponent bits and fraction bits (R60). -/
structure Fmt where
  eb : Nat
  fb : Nat
deriving DecidableEq, Repr

namespace Fmt
def b64 : Fmt := ⟨11, 52⟩
def b32 : Fmt := ⟨8, 23⟩
def b16 : Fmt := ⟨5, 10⟩
def bf16 : Fmt := ⟨8, 7⟩
/-- W19, the matrix array's operand format (R67). -/
def w19 : Fmt := ⟨8, 10⟩
def bias (f : Fmt) : Nat := 2 ^ (f.eb - 1) - 1
/-- The exponent of the least bit of a subnormal. -/
def qmin (f : Fmt) : Int := 1 - (f.bias : Int) - (f.fb : Int)
def infPat (f : Fmt) : Nat := (2 ^ f.eb - 1) * 2 ^ f.fb
def signBit (f : Fmt) : Nat := 2 ^ (f.eb + f.fb)
/-- The canonical NaN (R60). -/
def nan (f : Fmt) : Nat := f.infPat + 2 ^ (f.fb - 1)
def withSign (f : Fmt) (neg : Bool) (pat : Nat) : Nat := if neg then f.signBit + pat else pat
end Fmt

/-- An exact dyadic value: (−1)^neg × man × 2^exp. A zero keeps its sign. -/
structure Dy where
  neg : Bool
  man : Nat
  exp : Int
deriving DecidableEq, Repr

/-- What a pattern denotes. -/
inductive Fl where
  | nan (signalling : Bool)
  | inf (neg : Bool)
  | fin (d : Dy)
deriving DecidableEq, Repr

/-- The value a pattern of format `f` denotes (R60, R61: subnormals are kept). -/
def Fl.ofPat (f : Fmt) (pat : Nat) : Fl :=
  let neg := decide (f.signBit ≤ pat % (2 * f.signBit))
  let mag := pat % f.signBit
  if f.infPat < mag then .nan (decide (mag < f.nan))
  else if mag = f.infPat then .inf neg
  else
    let e := mag / 2 ^ f.fb
    let m := mag % 2 ^ f.fb
    if e = 0 then .fin ⟨neg, m, f.qmin⟩
    else .fin ⟨neg, m + 2 ^ f.fb, f.qmin + (e - 1 : Nat)⟩

def Fl.isNan : Fl → Bool
  | .nan _ => true
  | _ => false

/-- The invalid flag a signalling NaN operand raises (R62). -/
def Fl.snanFlag : Fl → FFlags
  | .nan true => FFlags.nv
  | _ => FFlags.none

def Fl.neg : Fl → Fl
  | .nan s => .nan s
  | .inf n => .inf (!n)
  | .fin d => .fin { d with neg := !d.neg }

/-- The integer a dyadic has at exponent `q`, which must be at or below its own. -/
def Dy.at (d : Dy) (q : Int) : Int :=
  let m : Int := (d.man : Int) * 2 ^ (d.exp - q).toNat
  if d.neg then -m else m

/-- The number of bits of a natural number. -/
def bitLen (n : Nat) : Nat := if n = 0 then 0 else Nat.log2 n + 1

/-- Whether a discarded remainder rounds the magnitude up (R63). -/
def roundsUp (rm : Rm) (neg : Bool) (odd : Bool) (rem half : Nat) : Bool :=
  match rm with
  | .rne => decide (half < rem) || (decide (rem = half) && odd)
  | .rtz => false
  | .rup => !neg && decide (0 < rem)
  | .rdn => neg && decide (0 < rem)

/-- The integer nearest `man × 2^(-shift)` under the mode, and whether it was inexact. A shift at or below zero is exact. -/
def roundShift (rm : Rm) (neg : Bool) (man : Nat) (shift : Int) : Nat × Bool :=
  if shift ≤ 0 then (man * 2 ^ (-shift).toNat, false)
  else
    let s := shift.toNat
    let m := man / 2 ^ s
    let rem := man % 2 ^ s
    let up := roundsUp rm neg (decide (m % 2 = 1)) rem (2 ^ (s - 1))
    (if up then m + 1 else m, decide (rem ≠ 0))

/-- The pattern an overflowing result takes under the mode (R61). -/
def overflowPat (f : Fmt) (rm : Rm) (neg : Bool) : Nat :=
  let toInf := match rm with
    | .rne => true
    | .rtz => false
    | .rup => !neg
    | .rdn => neg
  f.withSign neg (if toInf then f.infPat else f.infPat - 1)

/-- Rounds an exact dyadic into the format: overflow, and underflow with tininess detected after rounding (R61). -/
def roundDy (f : Fmt) (rm : Rm) (d : Dy) : Nat × FFlags :=
  if d.man = 0 then (f.withSign d.neg 0, FFlags.none)
  else
    let top : Int := d.exp + (bitLen d.man : Int) - 1
    let emin : Int := f.qmin + (f.fb : Int)
    let q : Int := max (top - (f.fb : Int)) f.qmin
    let r := roundShift rm d.neg d.man (q - d.exp)
    let mag : Nat := (q - f.qmin).toNat * 2 ^ f.fb + r.1
    if f.infPat ≤ mag then (overflowPat f rm d.neg, FFlags.of' ||| FFlags.nx)
    else
      let wide := roundShift rm d.neg d.man (top - (f.fb : Int) - d.exp)
      let tiny := decide (top < emin) && !(decide (top = emin - 1) && decide (wide.1 = 2 ^ (f.fb + 1)))
      let flags := if r.2 then (if tiny then FFlags.uf ||| FFlags.nx else FFlags.nx) else FFlags.none
      (f.withSign d.neg mag, flags)

/-- The exact product of two dyadics. -/
def Dy.mul (a b : Dy) : Dy := ⟨a.neg != b.neg, a.man * b.man, a.exp + b.exp⟩

/-- The dyadic of an integer at an exponent; the sign of an exact zero is given by `zneg`. -/
def Dy.ofInt (v : Int) (q : Int) (zneg : Bool) : Dy :=
  if v = 0 then ⟨zneg, 0, q⟩ else ⟨decide (v < 0), v.natAbs, q⟩

/-- The exact sum; an exact zero takes IEEE 754's sign for the mode. -/
def Dy.add (rm : Rm) (a b : Dy) : Dy :=
  let q := min a.exp b.exp
  let zneg := if a.man = 0 ∧ b.man = 0 ∧ a.neg = b.neg then a.neg else decide (rm = .rdn)
  Dy.ofInt (a.at q + b.at q) q zneg

/-- Exact numeric comparison of two dyadics. -/
def Dy.cmp (a b : Dy) : Ordering :=
  let q := min a.exp b.exp
  compare (a.at q) (b.at q)

/-- Numeric comparison of two values neither of which is a NaN. -/
def Fl.cmp : Fl → Fl → Ordering
  | .inf true, .inf true => .eq
  | .inf true, _ => .lt
  | _, .inf true => .gt
  | .inf false, .inf false => .eq
  | .inf false, _ => .gt
  | _, .inf false => .lt
  | .fin a, .fin b => a.cmp b
  | _, _ => .eq

/-- A NaN result: the canonical NaN, with the flags the operands raise (R62). -/
def nanResult (f : Fmt) (fl : FFlags) : Nat × FFlags := (f.nan, fl)

/-- Sum of two values of any formats, rounded once into `f`. -/
def addFl (f : Fmt) (rm : Rm) (a b : Fl) : Nat × FFlags :=
  match a, b with
  | .nan s, y => nanResult f ((Fl.nan s).snanFlag ||| y.snanFlag)
  | x, .nan s => nanResult f (x.snanFlag ||| (Fl.nan s).snanFlag)
  | .inf n, .inf m => if n = m then (f.withSign n f.infPat, FFlags.none) else nanResult f FFlags.nv
  | .inf n, .fin _ => (f.withSign n f.infPat, FFlags.none)
  | .fin _, .inf n => (f.withSign n f.infPat, FFlags.none)
  | .fin x, .fin y => roundDy f rm (Dy.add rm x y)

/-- Product of two values, rounded once into `f`. -/
def mulFl (f : Fmt) (rm : Rm) (a b : Fl) : Nat × FFlags :=
  match a, b with
  | .nan s, y => nanResult f ((Fl.nan s).snanFlag ||| y.snanFlag)
  | x, .nan s => nanResult f (x.snanFlag ||| (Fl.nan s).snanFlag)
  | .inf n, .inf m => (f.withSign (n != m) f.infPat, FFlags.none)
  | .inf n, .fin y => if y.man = 0 then nanResult f FFlags.nv else (f.withSign (n != y.neg) f.infPat, FFlags.none)
  | .fin x, .inf m => if x.man = 0 then nanResult f FFlags.nv else (f.withSign (x.neg != m) f.infPat, FFlags.none)
  | .fin x, .fin y => roundDy f rm (x.mul y)

/-- Whether a product is Inf × 0, which raises invalid even beside a quiet NaN addend (R62). -/
def infTimesZero : Fl → Fl → Bool
  | .inf _, .fin y => decide (y.man = 0)
  | .fin x, .inf _ => decide (x.man = 0)
  | _, _ => false

/-- Fused multiply-add a × b + c, one rounding (R62). -/
def fmaFl (f : Fmt) (rm : Rm) (a b c : Fl) : Nat × FFlags :=
  let s := a.snanFlag ||| b.snanFlag ||| c.snanFlag
  if infTimesZero a b then nanResult f (s ||| FFlags.nv)
  else if a.isNan || b.isNan || c.isNan then nanResult f s
  else
    match a, b with
    | .fin x, .fin y => addFl f rm (.fin (x.mul y)) c
    | .inf n, .inf m => addFl f rm (.inf (n != m)) c
    | .inf n, .fin y => addFl f rm (.inf (n != y.neg)) c
    | .fin x, .inf m => addFl f rm (.inf (x.neg != m)) c
    | _, _ => nanResult f s

/-- A quotient of naturals with at least `p` significant bits, its discarded part folded into an extra low bit. -/
def divSticky (a b p : Nat) : Nat × Int :=
  let k := bitLen b + p
  let q := (a * 2 ^ k) / b
  let r := (a * 2 ^ k) % b
  (2 * q + (if r = 0 then 0 else 1), -((k : Int) + 1))

/-- Quotient a ÷ b, rounded once into `f`. -/
def divFl (f : Fmt) (rm : Rm) (a b : Fl) : Nat × FFlags :=
  match a, b with
  | .nan s, y => nanResult f ((Fl.nan s).snanFlag ||| y.snanFlag)
  | x, .nan s => nanResult f (x.snanFlag ||| (Fl.nan s).snanFlag)
  | .inf _, .inf _ => nanResult f FFlags.nv
  | .inf n, .fin y => (f.withSign (n != y.neg) f.infPat, FFlags.none)
  | .fin x, .inf m => (f.withSign (x.neg != m) 0, FFlags.none)
  | .fin x, .fin y =>
    let neg := x.neg != y.neg
    if y.man = 0 then
      if x.man = 0 then nanResult f FFlags.nv else (f.withSign neg f.infPat, FFlags.dz)
    else
      let d := divSticky x.man y.man (f.fb + 4)
      roundDy f rm ⟨neg, d.1, x.exp - y.exp + d.2⟩

/-- The integer square root, found bit by bit from bit `n` down. -/
def isqrtFrom (m : Nat) : Nat → Nat → Nat
  | 0, r => if (r + 1) * (r + 1) ≤ m then r + 1 else r
  | n + 1, r => isqrtFrom m n (if (r + 2 ^ (n + 1)) * (r + 2 ^ (n + 1)) ≤ m then r + 2 ^ (n + 1) else r)

/-- The integer square root. -/
def isqrt (m : Nat) : Nat := isqrtFrom m (bitLen m / 2 + 1) 0

/-- A dyadic's magnitude written with an even exponent. -/
def evenExp (d : Dy) : Nat × Int := if d.exp % 2 = 0 then (d.man, d.exp) else (d.man * 2, d.exp - 1)

/-- Square root, rounded once into `f`. -/
def sqrtFl (f : Fmt) (rm : Rm) (a : Fl) : Nat × FFlags :=
  match a with
  | .nan s => nanResult f (Fl.nan s).snanFlag
  | .inf true => nanResult f FFlags.nv
  | .inf false => (f.infPat, FFlags.none)
  | .fin d =>
    if d.man = 0 then (f.withSign d.neg 0, FFlags.none)
    else if d.neg then nanResult f FFlags.nv
    else
      let (m, e) := evenExp d
      let k := f.fb + 6
      let v := m * 2 ^ (2 * k)
      let s := isqrt v
      roundDy f rm ⟨false, 2 * s + (if s * s = v then 0 else 1), e / 2 - (k : Int) - 1⟩

/-- Reciprocal square root, correctly rounded (R66). -/
def rsqrtFl (f : Fmt) (rm : Rm) (a : Fl) : Nat × FFlags :=
  match a with
  | .nan s => nanResult f (Fl.nan s).snanFlag
  | .inf true => nanResult f FFlags.nv
  | .inf false => (0, FFlags.none)
  | .fin d =>
    if d.man = 0 then (f.withSign d.neg f.infPat, FFlags.dz)
    else if d.neg then nanResult f FFlags.nv
    else
      let (m, e) := evenExp d
      let k := bitLen m + f.fb + 6
      let s := isqrt (2 ^ (2 * k) / m)
      roundDy f rm ⟨false, 2 * s + (if s * s * m = 2 ^ (2 * k) then 0 else 1), -(e / 2) - (k : Int) - 1⟩

/-- The value 1, as a dyadic. -/
def Dy.one : Dy := ⟨false, 1, 0⟩

/-- Reciprocal, correctly rounded (R66). -/
def rcpFl (f : Fmt) (rm : Rm) (a : Fl) : Nat × FFlags := divFl f rm (.fin Dy.one) a

/-- minimumNumber and maximumNumber (R62): the operand chosen, as a pattern; −0 orders below +0. -/
def minMax (f : Fmt) (wantMax : Bool) (a b : Nat) : Nat × FFlags :=
  let x := Fl.ofPat f a
  let y := Fl.ofPat f b
  let s := x.snanFlag ||| y.snanFlag
  match x, y with
  | .nan _, .nan _ => (f.nan, s)
  | .nan _, _ => (b % (2 * f.signBit), s)
  | _, .nan _ => (a % (2 * f.signBit), s)
  | _, _ =>
    let aNeg := decide (f.signBit ≤ a % (2 * f.signBit))
    let aLess := match x.cmp y with
      | .lt => true
      | .gt => false
      | .eq => aNeg
    ((if aLess != wantMax then a else b) % (2 * f.signBit), s)

/-- The floating condition codes (R159), with the invalid flag a comparison raises (R62): an ordering comparison of a
quiet NaN is invalid, an equality test is not. -/
def fcmpCode (f : Fmt) (cond : BitVec 3) (a b : Nat) : Bool × FFlags :=
  let x := Fl.ofPat f a
  let y := Fl.ofPat f b
  let un := x.isNan || y.isNan
  let s := x.snanFlag ||| y.snanFlag
  let o := x.cmp y
  let ordFlag := if un then FFlags.nv else FFlags.none
  match cond.toNat with
  | 0 => (!un && o == .eq, s)
  | 1 => (!un && o == .lt, ordFlag)
  | 2 => (!un && o != .gt, ordFlag)
  | 3 => (un, s)
  | 4 => (un || o != .eq, s)
  | 5 => (!un && o != .lt, ordFlag)
  | 6 => (!un && o == .gt, ordFlag)
  | _ => (!un, s)

/-- Conversion to an integer in lo..hi under the mode, with the cases of R65 in their order. -/
def toIntFl (rm : Rm) (lo hi : Int) (a : Fl) : Int × FFlags :=
  match a with
  | .nan _ => (0, FFlags.nv)
  | .inf n => (if n then lo else hi, FFlags.nv)
  | .fin d =>
    let r := roundShift rm d.neg d.man (-d.exp)
    let v : Int := if d.neg then -(r.1 : Int) else (r.1 : Int)
    if v < lo then (lo, FFlags.nv)
    else if hi < v then (hi, FFlags.nv)
    else (v, if r.2 then FFlags.nx else FFlags.none)

/-- Conversion of an integer into `f`, rounding under the mode. -/
def ofIntFl (f : Fmt) (rm : Rm) (v : Int) : Nat × FFlags := roundDy f rm (Dy.ofInt v 0 false)

/-- Conversion between formats (R65): exact when it widens, one rounding when it narrows. -/
def convFl (src dst : Fmt) (rm : Rm) (pat : Nat) : Nat × FFlags :=
  match Fl.ofPat src pat with
  | .nan s => (dst.nan, (Fl.nan s).snanFlag)
  | .inf n => (dst.withSign n dst.infPat, FFlags.none)
  | .fin d => roundDy dst rm d

/-- The place of a binary32 pattern in numeric order, with −0 and +0 equal (R83). -/
def ord32 (pat : Nat) : Int :=
  let mag : Int := (pat % 2 ^ 31 : Nat)
  if pat % 2 ^ 32 < 2 ^ 31 then mag else -mag

end Sys2Proof.Machine
end

