-- ==== Sys2Proof/Machine/Transcend.lean ====
section
/-!
DEFINITION. Correct rounding of the transcendental functions (R66, R94, R95): rigorous fixed-point bounds on 2^x, log₂ x,
sin and cos, and one loop that raises the precision until both bounds round alike.
-/
namespace Sys2Proof.Machine

/-- A closed interval of fixed-point values: the integers `lo` and `hi` stand for multiples of 2^(-scale). -/
structure Iv where
  lo : Int
  hi : Int
deriving DecidableEq, Repr

/-- Rounds a value known to lie strictly inside an interval of multiples of 2^exp: an answer only when both ends round
alike, flags included. The value is not representable, so each end stands for a point just inside it. -/
def roundIv (f : Fmt) (rm : Rm) (iv : Iv) (exp : Int) : Option (Nat × FFlags) :=
  if iv.hi ≤ iv.lo then none
  else if 0 ≤ iv.lo then
    let a := roundDy f rm ⟨false, 2 * iv.lo.natAbs + 1, exp - 1⟩
    let b := roundDy f rm ⟨false, 2 * iv.hi.natAbs - 1, exp - 1⟩
    if a = b then some a else none
  else if iv.hi ≤ 0 then
    let a := roundDy f rm ⟨true, 2 * iv.lo.natAbs - 1, exp - 1⟩
    let b := roundDy f rm ⟨true, 2 * iv.hi.natAbs + 1, exp - 1⟩
    if a = b then some a else none
  else none

/-- The precisions tried, in bits. -/
def precisions : List Nat := [96, 192, 512, 1200, 4096, 16384, 65536]

/-- Tries each precision in turn. -/
def firstRounded (bounds : Nat → Option (Nat × FFlags)) : List Nat → Option (Nat × FFlags)
  | [] => none
  | n :: rest =>
    match bounds n with
    | some r => some r
    | none => firstRounded bounds rest

/-- Sum of 2^n / (k × 2^k), each term cut, for k from `m` down to 1. -/
def ln2Sum (n : Nat) : Nat → Nat
  | 0 => 0
  | k + 1 => 2 ^ n / ((k + 1) * 2 ^ (k + 1)) + ln2Sum n k

/-- ln 2 at scale n. -/
def ln2Iv (n : Nat) : Iv := let s := ln2Sum n n; ⟨s, s + n + 2⟩

/-- Terms of Σ z^k/k! from term index k on, at scale n, each cut. -/
def expTail (n z : Nat) : Nat → Nat → Nat → Nat
  | 0, _, _ => 0
  | fuel + 1, k, term => term + expTail n z fuel (k + 1) (term * z / 2 ^ n / (k + 1))

/-- exp of z × 2^(-n) for z below 2^n, at scale n: a value and how far it may lie below the exact one. -/
def expIv (n zlo zhi : Nat) : Iv :=
  ⟨expTail n zlo (n / 2 + 8) 0 (2 ^ n), expTail n zhi (n / 2 + 8) 0 (2 ^ n) + 4 * n + 64⟩

/-- 2^(p/q) for 0 ≤ p < q, at scale n: between 1 and 2. -/
def exp2Iv (n p q : Nat) : Iv :=
  let l := ln2Iv n
  let zlo := p * l.lo.toNat / q
  let zhi := p * l.hi.toNat / q + 1
  expIv n zlo zhi

/-- Terms of Σ t^(2j+1)/(2j+1), t2 = t², at scale n. -/
def atanhTail (n t2 : Nat) : Nat → Nat → Nat → Nat
  | 0, _, _ => 0
  | fuel + 1, j, pow => pow / (2 * j + 1) + atanhTail n t2 fuel (j + 1) (pow * t2 / 2 ^ n)

/-- ln of a/b for b ≤ a < 2b, at scale n. -/
def lnIv (n a b : Nat) : Iv :=
  let t := (a - b) * 2 ^ n / (a + b)
  let s := 2 * atanhTail n (t * t / 2 ^ n) (n / 2 + 8) 0 t
  ⟨s, s + 8 * n + 128⟩

/-- π at scale n, by Machin's formula. -/
def atanInvTail (n x2 : Nat) : Nat → Nat → Nat → Int
  | 0, _, _ => 0
  | fuel + 1, j, pow =>
    let t : Int := (pow / (2 * j + 1) : Nat)
    (if j % 2 = 0 then t else -t) + atanInvTail n x2 fuel (j + 1) (pow / x2)

def piIv (n : Nat) : Iv :=
  let m := n + 16
  let a := atanInvTail m 25 m 0 (2 ^ m / 5)
  let b := atanInvTail m 57121 m 0 (2 ^ m / 239)
  let p := 16 * a - 4 * b
  let slack : Int := 64 * (m : Int) + 64
  ⟨(p - slack) / 2 ^ 16, (p + slack) / 2 ^ 16 + 1⟩

/-- The alternating series of sin (from z) or cos (from 1) at scale n, each term cut: terms z^k/k! for k, k+2, … -/
def altTail (n z2 : Nat) : Nat → Nat → Bool → Nat → Int
  | 0, _, _, _ => 0
  | fuel + 1, k, minus, term =>
    (if minus then -(term : Int) else (term : Int)) + altTail n z2 fuel (k + 2) (!minus) (term * z2 / 2 ^ n / ((k + 1) * (k + 2)))

/-- cos and sin of (π/2) × p/q for 0 ≤ p < q, at scale n. -/
def cosSinQuarter (n p q : Nat) : Iv × Iv :=
  let pi := piIv n
  let zlo := p * pi.lo.toNat / (2 * q)
  let zhi := p * pi.hi.toNat / (2 * q) + 1
  let slack : Int := 8 * (n : Int) + 64
  let clip (v : Int) : Int := max 0 (min v (2 ^ n))
  let c (z : Nat) : Int := altTail n (z * z / 2 ^ n) (n / 2 + 8) 0 false (2 ^ n)
  let s (z : Nat) : Int := altTail n (z * z / 2 ^ n) (n / 2 + 8) 1 false z
  (⟨clip (c zhi - slack), clip (c zlo + slack)⟩, ⟨clip (s zlo - slack), clip (s zhi + slack)⟩)

def Iv.neg (a : Iv) : Iv := ⟨-a.hi, -a.lo⟩

/-- cos and sin of 2π × p/q for 0 ≤ p < q, at scale n. -/
def cosSinTurn (n p q : Nat) : Iv × Iv :=
  let quad := 4 * p / q
  let cs := cosSinQuarter n (4 * p - quad * q) q
  match quad with
  | 0 => cs
  | 1 => (cs.2.neg, cs.1)
  | 2 => (cs.1.neg, cs.2.neg)
  | _ => (cs.2, cs.1.neg)

def Iv.add (a b : Iv) : Iv := ⟨a.lo + b.lo, a.hi + b.hi⟩
def Iv.scale (k : Int) (a : Iv) : Iv := if 0 ≤ k then ⟨k * a.lo, k * a.hi⟩ else ⟨k * a.hi, k * a.lo⟩
/-- Product with an interval of nonnegative values. -/
def Iv.mulNonneg (a g : Iv) : Iv :=
  ⟨min (a.lo * g.lo) (a.lo * g.hi), max (a.hi * g.lo) (a.hi * g.hi)⟩

/-- VFEX2 (R66): 2^x. -/
def exp2Fl (f : Fmt) (rm : Rm) (a : Fl) : Nat × FFlags :=
  match a with
  | .nan s => nanResult f (Fl.nan s).snanFlag
  | .inf true => (0, FFlags.none)
  | .inf false => (f.infPat, FFlags.none)
  | .fin d =>
    if d.man = 0 then roundDy f rm Dy.one
    else
      -- beyond ±2^12 every result overflows or falls below half the least subnormal
      let big := decide (12 < d.exp + (bitLen d.man : Int))
      if big then (if d.neg then roundDy f rm ⟨false, 1, -5000⟩ else roundDy f rm ⟨false, 1, 5000⟩)
      else
        let q : Nat := 2 ^ (-d.exp).toNat
        let v : Int := d.at (min d.exp 0)
        let whole : Int := v / (q : Int)
        let p : Nat := (v % (q : Int)).toNat
        if p = 0 then roundDy f rm ⟨false, 1, whole⟩
        else
          match firstRounded (fun n => roundIv f rm (exp2Iv n p q) (whole - (n : Int))) precisions with
          | some r => r
          | none => (Config.unresolvedRounding (v.natAbs + q), FFlags.nx)

/-- VFLG2 (R66): log₂ x. -/
def log2Fl (f : Fmt) (rm : Rm) (a : Fl) : Nat × FFlags :=
  match a with
  | .nan s => nanResult f (Fl.nan s).snanFlag
  | .inf true => nanResult f FFlags.nv
  | .inf false => (f.infPat, FFlags.none)
  | .fin d =>
    if d.man = 0 then (f.withSign true f.infPat, FFlags.dz)
    else if d.neg then nanResult f FFlags.nv
    else
      let len := bitLen d.man
      let k : Int := d.exp + (len : Int) - 1
      if d.man = 2 ^ (len - 1) then ofIntFl f rm k
      else
        let bounds (n : Nat) : Option (Nat × FFlags) :=
          let num := lnIv n d.man (2 ^ (len - 1))
          let den := ln2Iv n
          let lo := num.lo * 2 ^ n / den.hi
          let hi := num.hi * 2 ^ n / den.lo + 1
          roundIv f rm ⟨lo + k * 2 ^ n, hi + k * 2 ^ n⟩ (-(n : Int))
        match firstRounded bounds precisions with
        | some r => r
        | none => (Config.unresolvedRounding d.man, FFlags.nx)

end Sys2Proof.Machine
end

