-- ==== Sys2Proof/Machine/Law.lean ====
section
/-!
DEFINITION. State words and time laws (R86 to R101): the word and law-entry layouts, the validity of an entry, the value a
law gives after Δ ticks with one rounding and clamp, Advance, and the crossing tick.
-/
namespace Sys2Proof.Machine

/-- A state word (R86). Bits 127:125 are kept so that a stored word survives a flag change. -/
structure StateWord where
  rsv : BitVec 3
  p : Bool
  w : Bool
  u : Bool
  a : Bool
  f : Bool
  law : BitVec 8
  t : BitVec 48
  v1 : Word
  v0 : Word
deriving DecidableEq, Repr

namespace StateWord

def ofBits (b : Qword) : StateWord where
  rsv := b.extractLsb' 125 3
  p := b.getLsbD 124
  w := b.getLsbD 123
  u := b.getLsbD 122
  a := b.getLsbD 121
  f := b.getLsbD 120
  law := b.extractLsb' 112 8
  t := b.extractLsb' 64 48
  v1 := b.extractLsb' 32 32
  v0 := b.extractLsb' 0 32

def toBits (x : StateWord) : Qword :=
  x.rsv ++ BitVec.ofBool x.p ++ BitVec.ofBool x.w ++ BitVec.ofBool x.u ++ BitVec.ofBool x.a ++ BitVec.ofBool x.f ++
    x.law ++ x.t ++ x.v1 ++ x.v0

end StateWord

/-- The kinds of law (R88). -/
inductive LawKind where
  | hold | leak | integrate | oscillate
deriving DecidableEq, Repr

/-- A law-table entry (R88). -/
structure LawEntry where
  kind : LawKind
  falling : Bool
  act : BitVec 2
  tsrc : Bool
  rsv : BitVec 26
  thr : Word
  cmax : Word
  cmin : Word
  pb : Dword
  pa : Dword
deriving DecidableEq, Repr

def LawEntry.ofBits (b : BitVec 256) : LawEntry where
  kind := match (b.extractLsb' 254 2).toNat with
    | 0 => .hold
    | 1 => .leak
    | 2 => .integrate
    | _ => .oscillate
  falling := b.getLsbD 253
  act := b.extractLsb' 251 2
  tsrc := b.getLsbD 250
  rsv := b.extractLsb' 224 26
  thr := b.extractLsb' 192 32
  cmax := b.extractLsb' 160 32
  cmin := b.extractLsb' 128 32
  pb := b.extractLsb' 64 64
  pa := b.extractLsb' 0 64

def fl32 (x : Word) : Fl := Fl.ofPat .b32 x.toNat
def fl64 (x : Dword) : Fl := Fl.ofPat .b64 x.toNat

/-- Greater than zero; +∞ counts, a NaN does not. -/
def Fl.positive : Fl → Bool
  | .inf n => !n
  | .fin d => !d.neg && decide (d.man ≠ 0)
  | .nan _ => false

def Fl.finite : Fl → Bool
  | .fin _ => true
  | _ => false

/-- Numerically zero, whatever the sign. -/
def Fl.zero : Fl → Bool
  | .fin d => decide (d.man = 0)
  | _ => false

/-- Whether an entry is valid (R89). -/
def LawEntry.valid (e : LawEntry) : Bool :=
  decide (e.rsv = 0) && decide (e.act ≠ 3) &&
  !(fl32 e.cmin).isNan && !(fl32 e.cmax).isNan && (fl32 e.cmin).cmp (fl32 e.cmax) != .gt &&
  (match e.kind with
   | .hold => (fl64 e.pa).zero && (fl64 e.pb).zero
   | .leak => (fl64 e.pa).positive && (fl64 e.pb).zero
   | .integrate => (fl64 e.pa).finite && (fl64 e.pb).zero
   | .oscillate => (fl64 e.pa).positive && (fl64 e.pb).positive) &&
  (decide (e.act = 0) || !(fl32 e.thr).isNan)

/-- The canonical binary32 NaN (R60). -/
def nan32 : Word := 0x7FC00000

/-- The clamp of R95; a NaN is never clamped. -/
def clamp32 (e : LawEntry) (v : Word) : Word :=
  let x := fl32 v
  if x.isNan then v
  else if x.cmp (fl32 e.cmin) == .lt then e.cmin
  else if x.cmp (fl32 e.cmax) == .gt then e.cmax
  else v

def round32 (d : Dy) : Word := BitVec.ofNat 32 (roundDy .b32 .rne d).1

/-- An elapsed count over a positive binary64 parameter, as an exact quotient of naturals; +∞ gives zero. -/
def ratioOf (delta : Nat) (par : Dword) : Nat × Nat :=
  match fl64 par with
  | .fin d => if 0 ≤ d.exp then (delta, d.man * 2 ^ d.exp.toNat) else (delta * 2 ^ (-d.exp).toNat, d.man)
  | _ => (0, 1)

/-- The rounded value of an integer combination known to be a dyadic at `exp`. -/
def roundExact (v : Int) (exp : Int) : Word := round32 (Dy.ofInt v exp false)

/-- Least of the exponents of two binary32 values. -/
def commonExp (a b : Dy) : Int := min a.exp b.exp

/-- The decay factor 2^(−Δ/h) = 2^(−whole) × 2^(p/q), with 0 ≤ p < q, and 2^(−whole) cut at 2^(−700): a smaller factor puts
the result in the same rounding cell of binary32. -/
structure Decay where
  whole : Nat
  p : Nat
  q : Nat
deriving DecidableEq, Repr

def decayOf (delta : Nat) (h : Dword) : Decay :=
  let (n, d) := ratioOf delta h
  let whole := (n + d - 1) / d
  let p := whole * d - n
  if 700 < whole then ⟨700, 0, 1⟩ else ⟨whole, p, d⟩

/-- LEAK between finite, unequal values: V1 + (V0 − V1) × 2^(−Δ/h), one rounding (R94, R95). -/
def leakFinite (v0 v1 : Dy) (delta : Nat) (h : Dword) : Word :=
  let c := decayOf delta h
  let q := commonExp v0 v1
  let a := v1.at q
  let b := v0.at q - a
  if c.p = 0 then roundExact (a * 2 ^ c.whole + b) (q - (c.whole : Int))
  else
    let bounds (n : Nat) : Option (Nat × FFlags) :=
      let g := exp2Iv n c.p c.q
      let s := g.scale b
      roundIv .b32 .rne ⟨a * 2 ^ (n + c.whole) + s.lo, a * 2 ^ (n + c.whole) + s.hi⟩ (q - (n : Int) - (c.whole : Int))
    match firstRounded bounds precisions with
    | some r => BitVec.ofNat 32 r.1
    | none => BitVec.ofNat 32 (Config.unresolvedRounding (a.natAbs + b.natAbs + delta))

/-- LEAK (R94, R95 cases 2 to 4). -/
def leakValue (v0 v1 : Word) (delta : Nat) (h : Dword) : Word :=
  match fl32 v0, fl32 v1 with
  | .nan _, _ => nan32
  | _, .nan _ => nan32
  | .inf a, .inf b => if a = b then v1 else nan32
  -- an infinite V0 stays infinite at every Δ, since the factor is positive
  | .inf a, .fin _ => if a then 0xFF800000 else 0x7F800000
  -- V0 − V1 is infinite with V1's sign reversed, so the sum is Inf − Inf
  | .fin _, .inf _ => nan32
  | .fin x, .fin y => if x.cmp y == .eq then v1 else leakFinite x y delta h

/-- INTEGRATE: V0 + V1 × Δ × q (R94, R95 cases 2 and 4). -/
def integrateValue (v0 v1 : Word) (delta : Nat) (q : Dword) : Word :=
  match fl64 q with
  | .fin s =>
    match fl32 v0, fl32 v1 with
    | .nan _, _ => nan32
    | _, .nan _ => nan32
    | x, .inf b =>
      if s.man = 0 then nan32
      else BitVec.ofNat 32 (addFl .b32 .rne x (.inf (b != s.neg))).1
    | .inf a, .fin _ => if a then 0xFF800000 else 0x7F800000
    | .fin x, .fin y =>
      let prod : Dy := ⟨y.neg != s.neg, y.man * delta * s.man, y.exp + s.exp⟩
      let c := commonExp x prod
      roundExact (x.at c + prod.at c) c
  | _ => nan32

/-- The exact values of 4 cos and 4 sin of j × 15°, as integer combinations of 1, √2, √3, √6. -/
def cos15 : Nat → Int × Int × Int × Int
  | 0 => (4, 0, 0, 0)
  | 1 => (0, 1, 0, 1)
  | 2 => (0, 0, 2, 0)
  | 3 => (0, 2, 0, 0)
  | 4 => (2, 0, 0, 0)
  | 5 => (0, -1, 0, 1)
  | 6 => (0, 0, 0, 0)
  | 7 => (0, 1, 0, -1)
  | 8 => (-2, 0, 0, 0)
  | 9 => (0, -2, 0, 0)
  | 10 => (0, 0, -2, 0)
  | 11 => (0, -1, 0, -1)
  | 12 => (-4, 0, 0, 0)
  | 13 => (0, -1, 0, -1)
  | 14 => (0, 0, -2, 0)
  | 15 => (0, -2, 0, 0)
  | 16 => (-2, 0, 0, 0)
  | 17 => (0, 1, 0, -1)
  | 18 => (0, 0, 0, 0)
  | 19 => (0, -1, 0, 1)
  | 20 => (2, 0, 0, 0)
  | 21 => (0, 2, 0, 0)
  | 22 => (0, 0, 2, 0)
  | _ => (0, 1, 0, 1)

def sin15 (j : Nat) : Int × Int × Int × Int := cos15 ((j + 18) % 24)

/-- A value of Q(√2, √3). -/
abbrev Surd := Int × Int × Int × Int

def surdLin (a : Int) (x : Surd) (b : Int) (y : Surd) : Surd :=
  (a * x.1 + b * y.1, a * x.2.1 + b * y.2.1, a * x.2.2.1 + b * y.2.2.1, a * x.2.2.2 + b * y.2.2.2)

/-- Multiplication by √2. -/
def surdRoot2 (x : Surd) : Surd := (2 * x.2.1, x.1, 2 * x.2.2.2, x.2.2.1)

/-- One component of OSCILLATE, g × (a × X + b × Y), where X and Y are the cosine and sine (or their exchange) given both
as exact surds, when the turn is a multiple of 15°, and by bounds. The exact path settles every rational result; any other
result is irrational, so the bounds settle it. -/
def oscComponent (a b : Int) (q : Int) (exact : Option (Surd × Surd)) (bounds : Nat → Iv × Iv) (dec : Decay) : Word :=
  let byBounds : Word :=
    let tryAt (n : Nat) : Option (Nat × FFlags) :=
      let (x, y) := bounds n
      let s := (x.scale a).add (y.scale b)
      if dec.p = 0 then roundIv .b32 .rne s (q - (n : Int) - (dec.whole : Int))
      else roundIv .b32 .rne (s.mulNonneg (exp2Iv n dec.p dec.q)) (q - 2 * (n : Int) - (dec.whole : Int))
    match firstRounded tryAt precisions with
    | some r => BitVec.ofNat 32 r.1
    | none => BitVec.ofNat 32 (Config.unresolvedRounding (a.natAbs + b.natAbs))
  if a = 0 ∧ b = 0 then 0
  else
    match exact with
    | none => byBounds
    | some (x, y) =>
      let s := surdLin a x b y
      if s = (0, 0, 0, 0) then 0
      else if dec.p = 0 then
        if s.2 = (0, 0, 0) then roundExact s.1 (q - 2 - (dec.whole : Int)) else byBounds
      else if 2 * dec.p = dec.q then
        let r := surdRoot2 s
        if r.2 = (0, 0, 0) then roundExact r.1 (q - 2 - (dec.whole : Int)) else byBounds
      else byBounds

/-- OSCILLATE (R94, R95 cases 2 and 5): both components. -/
def oscillateValue (v0 v1 : Word) (delta : Nat) (h p : Dword) : Word × Word :=
  match fl32 v0, fl32 v1 with
  | .fin x, .fin y =>
    let (n, d) := ratioOf delta p
    let r := n % d
    let exact : Option (Surd × Surd) :=
      if 24 * r % d = 0 then some (cos15 (24 * r / d), sin15 (24 * r / d)) else none
    let bounds (k : Nat) := cosSinTurn k r d
    let q := commonExp x y
    let a := x.at q
    let b := y.at q
    let dec := decayOf delta h
    (oscComponent a (-b) q exact bounds dec,
     oscComponent b a q exact bounds dec)
  | _, _ => (nan32, nan32)

/-- RoundClamp of the law's value after `delta` ticks: the advanced (V0, V1). -/
def lawValue (e : LawEntry) (v0 v1 : Word) (delta : Nat) : Word × Word :=
  match e.kind with
  | .hold => (v0, v1)
  | .leak => (clamp32 e (leakValue v0 v1 delta e.pa), v1)
  | .integrate => (clamp32 e (integrateValue v0 v1 delta e.pa), v1)
  | .oscillate =>
    let (x, y) := oscillateValue v0 v1 delta e.pa e.pb
    (clamp32 e x, clamp32 e y)

/-- Step of R96. -/
def stepWord (e : LawEntry) (w : StateWord) (d : Nat) : StateWord :=
  if d = 0 then w
  else
    let (v0, v1) := lawValue e w.v0 w.v1 d
    { w with v0 := v0, v1 := v1, t := w.t + BitVec.ofNat 48 d }

/-- The fixed re-anchoring steps of Advance (R96): `fuel` bounds their number, which is at most 2 below 2^47. -/
def fixedSteps (e : LawEntry) : Nat → StateWord → Nat → StateWord × Nat
  | 0, w, d => (w, d)
  | fuel + 1, w, d => if 2 ^ 46 ≤ d then fixedSteps e fuel (stepWord e w (2 ^ 45)) (d - 2 ^ 45) else (w, d)

/-- Elapsed ticks (R93): the count used, and whether the tick lies before the anchor. -/
def elapsed (t n : BitVec 48) : Nat × Bool :=
  let d := (n - t).toNat
  if 2 ^ 47 ≤ d then (0, true) else (d, false)

/-- Advance of R96, with whether the tick lay before the anchor (LatePast). -/
def advanceWord (e : LawEntry) (w : StateWord) (n : BitVec 48) : StateWord × Bool :=
  let (d, past) := elapsed w.t n
  let (w', d') := fixedSteps e 4 w d
  (stepWord e w' d', past)

/-- Whether a value meets the threshold in the law's direction (R88, R100). A NaN never does. -/
def meets (e : LawEntry) (v : Word) : Bool :=
  let x := fl32 v
  if x.isNan then false
  else
    match x.cmp (fl32 e.thr) with
    | .eq => true
    | .lt => e.falling
    | .gt => !e.falling

/-- v(t) of R100, t ticks after the anchor. -/
def valueAt (e : LawEntry) (w : StateWord) (t : Nat) : Word := if t = 0 then w.v0 else (lawValue e w.v0 w.v1 t).1

/-- Least t in (lo, hi] at which the value meets, given that it does not at `lo` and does at `hi`, when it is monotone. -/
def bisectMeet (e : LawEntry) (w : StateWord) : Nat → Nat → Nat → Nat
  | 0, _, hi => hi
  | fuel + 1, lo, hi =>
    if hi ≤ lo + 1 then hi
    else
      let mid := (lo + hi) / 2
      if meets e (valueAt e w mid) then bisectMeet e w fuel lo mid else bisectMeet e w fuel mid hi

/-- Least t ≥ `t` at which the value meets while it does not at t − 1, by search; `prev` is whether it meets at t − 1. -/
def searchMeet (e : LawEntry) (w : StateWord) : Nat → Nat → Bool → Option Nat
  | 0, _, _ => none
  | fuel + 1, t, prev =>
    let now := meets e (valueAt e w t)
    if now && !prev then some t else searchMeet e w fuel (t + 1) now

/-- The ticks within which a first crossing of an OSCILLATE word lies, if it has one (log entry 104). Undamped, v(t) repeats from tick 1
on with the least whole number of ticks that is a multiple of the period. Damped, |v(t)| before clamping is at most the rounded
decay of twice the larger component, which falls with t: from the first power of two whose bound does not meet, no tick does. -/
def oscLimit (e : LawEntry) (w : StateWord) : Nat :=
  match fl32 w.v0, fl32 w.v1 with
  | .fin x, .fin y =>
    let q := commonExp x y
    let amp : Int := 2 * max (x.at q).natAbs (y.at q).natAbs
    let top := roundExact (if e.falling then -amp else amp) q
    let (n, d) := ratioOf 1 e.pb
    let cycle := if (fl64 e.pa).finite then 2 ^ 46 - 1 else d / Nat.gcd n d + 1
    let spent : Option Nat :=
      if (fl32 top).finite then
        ((List.range 46).map (2 ^ ·)).find? (fun t => !meets e (clamp32 e (leakValue top 0 t e.pa)))
      else none
    min (min cycle (spent.getD (2 ^ 46 - 1))) (2 ^ 46 - 1)
  | _, _ => 1

/-- The crossing of R100, as ticks after the anchor: the least t with 0 < t < 2^46 that meets while t − 1 does not. LEAK,
INTEGRATE and an undamped or damped word of infinite period move monotonically from tick 1 on. -/
def crossing (e : LawEntry) (w : StateWord) : Option Nat :=
  if e.act = 0 then none
  else
    let mono : Option Nat :=
      let m1 := meets e (valueAt e w 1)
      if m1 then (if meets e w.v0 then none else some 1)
      else
        let last := 2 ^ 46 - 1
        if meets e (valueAt e w last) then some (bisectMeet e w 48 1 last) else none
    match e.kind with
    | .hold => none
    | .leak => mono
    | .integrate => mono
    | .oscillate => if (fl64 e.pb).finite then searchMeet e w (oscLimit e w) 1 (meets e w.v0) else mono

end Sys2Proof.Machine
end

