-- ==== Sys2Proof/Machine/Tables.lean ====
section
/-!
DEFINITION. W19 and decode tables (R67 to R75), the matrix leaf, tree and block sums (R76 to R79), and the recheck's
reference and deviation (R83).
-/
namespace Sys2Proof.Machine

/-- A table slot of a core (R69, R70, R234): the header, the 256 entry words, validity and taint. -/
structure TableSlot where
  header : BitVec 512
  entries : List Word
  valid : Bool
  taint : Bool
deriving DecidableEq, Repr

namespace TableSlot

def sig (t : TableSlot) : Word := t.header.extractLsb' 64 32
def ovf (t : TableSlot) : Nat := (t.header.extractLsb' 32 2).toNat
def nsub (t : TableSlot) : Nat := (t.header.extractLsb' 24 8).toNat
def maxCode (t : TableSlot) : Nat := (t.header.extractLsb' 16 8).toNat
def smode (t : TableSlot) : Nat := (t.header.extractLsb' 11 2).toNat
def spos (t : TableSlot) : Nat := (t.header.extractLsb' 8 3).toNat
def width (t : TableSlot) : Nat := (t.header.extractLsb' 0 4).toNat
def entry (t : TableSlot) (c : Nat) : Word := t.entries.getD c 0

end TableSlot

def entryVal (e : Word) : Nat := (e.extractLsb' 0 19).toNat
def entryV (e : Word) : Bool := e.getLsbD 19
def entryN (e : Word) : Bool := e.getLsbD 20
def entryI (e : Word) : Bool := e.getLsbD 21
def entrySign (e : Word) : Bool := e.getLsbD 18
/-- A finite code: V = 1 with N = I = 0. -/
def entryFinite (e : Word) : Bool := entryV e && !entryN e && !entryI e

/-- Decoding a code (R71): its value, and whether the entry was invalid (the flag of VDEC). -/
def TableSlot.decode (t : TableSlot) (c : Nat) : Fl × Bool :=
  let e := t.entry c
  if !entryV e then (.nan false, true)
  else if entryN e then (.nan false, false)
  else if entryI e then (.inf (entrySign e), false)
  else (Fl.ofPat .w19 (entryVal e), false)

/-- The magnitude of an entry as an exact value, the W19 pattern read with its sign cleared. -/
def entryMag (e : Word) : Fl := Fl.ofPat .w19 (entryVal e % 2 ^ 18)

def flDy : Fl → Dy
  | .fin d => d
  | _ => ⟨false, 0, 0⟩

/-- The width of a finite entry's significand (R73). -/
def lowZeros : Nat → Nat → Nat
  | 0, _ => 0
  | fuel + 1, m => if m % 2 = 0 then 1 + lowZeros fuel (m / 2) else 0

def sigWidth (e : Word) : Nat :=
  match entryMag e with
  | .fin d => if d.man = 0 then 0 else bitLen d.man - lowZeros 19 d.man
  | _ => 0

/-- WMAX (R73): the greatest width over the finite entries, at least 1. -/
def TableSlot.wmax (t : TableSlot) : Nat :=
  (t.entries.take (2 ^ t.width)).foldl (fun m e => if entryFinite e then max m (sigWidth e) else m) 1

/-- Index i of the non-negative sequence, and of the negative one (R75). -/
def TableSlot.negCode (t : TableSlot) (i : Nat) : Nat :=
  if t.smode = 2 then (2 ^ t.width - i) % 2 ^ t.width else i ||| 2 ^ t.spos

/-- The top index of a sign's sequence (R75). -/
def TableSlot.top (t : TableSlot) (neg : Bool) : Nat :=
  if neg && t.smode == 2 then 2 ^ (t.width - 1) else t.maxCode

def TableSlot.code (t : TableSlot) (neg : Bool) (i : Nat) : Nat := if neg && t.smode != 0 then t.negCode i else i

def TableSlot.magFl (t : TableSlot) (neg : Bool) (i : Nat) : Fl := entryMag (t.entry (t.code neg i))
def TableSlot.mag (t : TableSlot) (neg : Bool) (i : Nat) : Dy := flDy (t.magFl neg i)

/-- Whether one magnitude is strictly below another: a NaN is below and above none, and an infinity is above every finite one. -/
def Fl.below : Fl → Fl → Bool
  | .fin a, .fin b => a.cmp b == .lt
  | .fin _, .inf _ => true
  | _, _ => false

/-- Whether magnitudes strictly increase along a sequence up to index n. -/
def TableSlot.increasing (t : TableSlot) (neg : Bool) : Nat → Bool
  | 0 => true
  | n + 1 => (t.magFl neg n).below (t.magFl neg (n + 1)) && t.increasing neg n

/-- The lowest code with I = 1 and the given sign, below 2^b. -/
def TableSlot.infCode (t : TableSlot) (neg : Bool) : Option Nat :=
  (List.range (2 ^ t.width)).find? (fun c => entryI (t.entry c) && entrySign (t.entry c) == neg)

/-- The check TBLD makes (R72). -/
def TableSlot.check (t : TableSlot) : Bool :=
  let b := t.width
  let h := t.header
  let codes := List.range (2 ^ b)
  decide (1 ≤ b) && decide (b ≤ 8) && decide (t.smode ≠ 3) && decide (t.ovf ≠ 3) &&
  (if t.smode = 0 then decide (t.spos = 0) else decide (t.spos = b - 1) && decide (b ≠ 1)) &&
  decide (h.extractLsb' 96 416 = 0) && decide (h.extractLsb' 44 20 = 0) && decide (h.extractLsb' 34 6 = 0) &&
  decide (h.extractLsb' 13 3 = 0) && decide (h.extractLsb' 4 4 = 0) &&
  codes.all (fun c => decide ((t.entry c).extractLsb' 22 10 = 0)) &&
  decide (t.maxCode ≠ 0) && decide (t.maxCode < (if t.smode = 0 then 2 ^ b else 2 ^ (b - 1))) &&
  decide (t.nsub < 2 ^ b) &&
  codes.all (fun c => let e := t.entry c
    !(entryN e && entryI e) && !((entryN e || entryI e) && !entryV e)) &&
  (List.range (t.top false + 1)).all (fun i => let e := t.entry i
    entryFinite e && !entrySign e) &&
  (if t.smode = 1 then
     (List.range (t.top true + 1)).all (fun i => let e := t.entry (t.code true i)
       entryFinite e && entrySign e)
   else if t.smode = 2 then
     (List.range (t.top true)).all (fun i => let e := t.entry (t.code true (i + 1))
       entryFinite e && entrySign e)
   else true) &&
  t.increasing false (t.top false) && (t.smode == 0 || t.increasing true (t.top true)) &&
  (if t.ovf = 1 then (t.infCode false).isSome && (t.smode == 0 || (t.infCode true).isSome) else true)

/-- The slot TBLD leaves for an image (R69, R72, R234): a valid slot's WMAX is the computed one; an invalid slot keeps the
fields as loaded. -/
def TableSlot.load (header : BitVec 512) (entries : List Word) (taint : Bool) : TableSlot :=
  let raw : TableSlot := ⟨header, entries, false, taint⟩
  let low : BitVec 40 := header.extractLsb' 0 40
  let high : BitVec 468 := header.extractLsb' 44 468
  if raw.check then ⟨high ++ BitVec.ofNat 4 raw.wmax ++ low, entries, true, taint⟩ else raw

/-- OverflowCode of R75. -/
def TableSlot.overflowCode (t : TableSlot) (neg : Bool) : Nat :=
  match t.ovf with
  | 0 => t.code neg (t.top neg)
  | 1 => (t.infCode neg).getD (t.code neg (t.top neg))
  | _ => t.nsub

/-- The greatest index at or below n whose magnitude is at most a, or 0. -/
def TableSlot.below (t : TableSlot) (neg : Bool) (a : Dy) : Nat → Nat
  | 0 => 0
  | n + 1 => if (Fl.fin a).below (t.magFl neg (n + 1)) then t.below neg a n else n + 1

/-- The exact difference of two non-negative values. -/
def Dy.dist (a b : Dy) : Dy :=
  let q := min a.exp b.exp
  ⟨false, (a.at q - b.at q).natAbs, q⟩

/-- Encode of R75: a binary32 pattern to a code, with its flags. -/
def TableSlot.encode (t : TableSlot) (x : Word) : Nat × FFlags :=
  match fl32 x with
  | .nan _ => (t.nsub, FFlags.nv)
  | .inf neg =>
    if t.smode = 0 ∧ neg = true then (0, FFlags.nv)
    else
      match t.infCode neg with
      | some c => (c, FFlags.none)
      | none => (t.overflowCode neg, FFlags.nv)
  | .fin d =>
    if t.smode = 0 ∧ d.neg = true ∧ d.man ≠ 0 then (0, FFlags.nv)
    else
      let neg := d.neg && decide (t.smode ≠ 0)
      let a : Dy := { d with neg := false }
      let top := t.top neg
      let i := t.below neg a top
      let mi := t.mag neg i
      if mi.cmp a == .eq then (t.code neg i, FFlags.none)
      else
        let j := i + 1
        let mj : Dy :=
          if j ≤ top then t.mag neg j
          else
            let q := min mi.exp (t.mag neg (top - 1)).exp
            Dy.ofInt (2 * mi.at q - (t.mag neg (top - 1)).at q) q false
        let k :=
          if mi.cmp a == .gt ∨ (j ≤ top ∧ t.magFl neg j = .inf false) then i
          else
            match (Dy.dist a mi).cmp (Dy.dist mj a) with
            | .lt => i
            | .gt => j
            | .eq => if i % 2 = 0 then i else j
        let under := if (Fl.fin a).below (t.magFl neg 1) then FFlags.uf else FFlags.none
        if k = top + 1 then (t.overflowCode neg, FFlags.nx ||| under ||| FFlags.of')
        else (t.code neg k, FFlags.nx ||| under)

/-- A leaf of the matrix array (R76). -/
def leaf32 (a b : Fl) : Fl := Fl.ofPat .b32 (mulFl .b32 .rne a b).1

/-- One node: a binary32 sum rounded to nearest-even (R77). -/
def node32 (a b : Fl) : Fl := Fl.ofPat .b32 (addFl .b32 .rne a b).1

/-- One level of the balanced tree: adjacent pairs, lower index on the left (R77). -/
def treeLevel : List Fl → List Fl
  | a :: b :: rest => node32 a b :: treeLevel rest
  | rest => rest

/-- The five levels over 32 leaves (R77). -/
def blockSum (leaves : List Fl) : Fl :=
  (treeLevel (treeLevel (treeLevel (treeLevel (treeLevel leaves))))).headD (.fin ⟨false, 0, 0⟩)

def posZero : Fl := .fin ⟨false, 0, 0⟩

/-- s × sa × sb with one rounding (R78). -/
def scaleBlock (s sa sb : Fl) : Fl :=
  if s.isNan || sa.isNan || sb.isNan then .nan false
  else
    match s, sa, sb with
    | .fin x, .fin y, .fin z => Fl.ofPat .b32 (roundDy .b32 .rne ((x.mul y).mul z)).1
    | _, _, _ =>
      let zero := s.zero || sa.zero || sb.zero
      let sgn : Fl → Bool := fun v => match v with
        | .inf n => n
        | .fin d => d.neg
        | .nan _ => false
      if zero then .nan false else .inf (sgn s != (sgn sa != sgn sb))

/-- A value's binary32 pattern, the canonical NaN for a NaN (R79). -/
def fl32Pat : Fl → Word
  | .nan _ => nan32
  | .inf n => if n then 0xFF800000 else 0x7F800000
  | .fin d => round32 d

/-- The accumulation of one K-block (R78): `scales` is absent when SCLM is NONE. -/
def foldBlock (acc : Word) (leaves : List Fl) (scales : Option (Fl × Fl)) : Word :=
  let s := blockSum leaves
  let t := match scales with
    | none => s
    | some (sa, sb) => scaleBlock s sa sb
  BitVec.ofNat 32 (addFl .b32 .rne (fl32 acc) t).1

/-- The sequential binary64 sum of a block's products (R83). -/
def refBlock (pairs : List (Fl × Fl)) : Fl :=
  pairs.foldl (fun s ab => Fl.ofPat .b64 (fmaFl .b64 .rne ab.1 ab.2 s).1) posZero

/-- One block of the recheck's reference: d + s × sa × sb, one rounding (R83). -/
def refFold (d : Fl) (pairs : List (Fl × Fl)) (scales : Option (Fl × Fl)) : Fl :=
  let s := refBlock pairs
  match scales with
  | none => Fl.ofPat .b64 (addFl .b64 .rne d s).1
  | some (sa, sb) =>
    match sa, sb with
    | .fin x, .fin y => Fl.ofPat .b64 (fmaFl .b64 .rne s (.fin (x.mul y)) d).1
    | _, _ =>
      let p := Fl.ofPat .b64 (mulFl .b64 .rne sa sb).1
      Fl.ofPat .b64 (fmaFl .b64 .rne s p d).1

/-- The deviation of one element (R83). -/
def deviation (result ref : Word) : Nat :=
  let a := fl32 result
  let b := fl32 ref
  if a.isNan && b.isNan then 0
  else if a.isNan || b.isNan then 0xFFFFFFFF
  else
    match a, b with
    | .inf m, .inf n => if m = n then 0 else 0xFFFFFFFF
    | _, _ => min (ord32 result.toNat - ord32 ref.toNat).natAbs 0xFFFFFFFF

end Sys2Proof.Machine
end

