-- ==== Sys2Proof/Machine/Types.lean ====
section
/-!
DEFINITION. The records the machine holds: strands, cores, crews, chains, handles, launches, partitions and the system die.
Plain data; what each field is for is said once, with the rule that names it.
-/
namespace Sys2Proof.Machine

/-! ## Strands -/

/-- A g register (R46): 128 bits with tag and taint. -/
structure GReg where
  bits : Qword
  tag : Bool
  taint : Bool
deriving DecidableEq, Repr

/-- A v register (R46). -/
structure VReg where
  bits : Vword
  taint : Bool
deriving DecidableEq, Repr

/-- A p register (R46). -/
structure PReg where
  bits : Dword
  taint : Bool
deriving DecidableEq, Repr

/-- An e register (R46). -/
structure EReg where
  bits : Word
  taint : Bool
deriving DecidableEq, Repr

/-- The strand's register files (R46). -/
structure Regs where
  g : Vector GReg 64
  v : Vector VReg 32
  p : Vector PReg 8
  e : Vector EReg 8
deriving DecidableEq, Repr

/-- The per-strand control registers (R305): each at the width of its writable fields. -/
structure Csr where
  frm : BitVec 2
  fflg : BitVec 5
  fmta : Dword
  fmtb : Dword
  fmte : Dword
  scla : Dword
  sclb : Dword
  sclm : BitVec 2
  trapv : BitVec 49
  tcause : BitVec 8
  tval : Dword
  tepc : Dword
  stg : BitVec 4
  inh : Bool
  repi : Dword
  taintCount : Word
  taintSticky : Bool
  asid : BitVec 16
  ptbr : BitVec 36
deriving DecidableEq, Repr

/-- The outstanding counters (R198), the missed joins (R37), and the asynchronous invalidations in flight (R309). -/
structure Counters where
  l : Nat
  s : Nat
  c : Nat
  t : Nat
  mj : Nat
  inval : Nat
deriving DecidableEq, Repr

/-- The states of a slot (R25). -/
inductive Status where
  | free | ready | waiting | parked | halted
deriving DecidableEq, Repr

/-- A launch of a partition, named by its age (R314); age 0 is the standing launch (R325). -/
structure LaunchId where
  part : Nat
  age : Nat
deriving DecidableEq, Repr

/-- A crew: the strands of one launch in one cluster (R21, R27). -/
structure CrewId where
  launch : LaunchId
  cluster : Nat
deriving DecidableEq, Repr

/-- A strand named so that a later strand of its slot is not mistaken for it: its slot and its creation number. -/
structure Owner where
  slot : Nat
  born : Nat
deriving DecidableEq, Repr

/-- What an access made for a strand is checked and translated under (R397, R400), and the stage it is reported under (R336). -/
structure Ctx where
  asid : BitVec 16
  root : BitVec 36
  sys : Bool
  slot : Nat
  part : Nat
  dmode : Bool
  stg : BitVec 4
deriving DecidableEq, Repr

/-- Where a translated access lands: device memory by domain physical address, an SRAM byte of a core's page over its
frame, host memory, or a register of the MMIO map (R114, R115, R120). -/
inductive Loc where
  | mem (pa : Nat)
  | scratch (core page frame off : Nat)
  | host (addr : Nat)
  | mmio (addr : Nat)
deriving DecidableEq, Repr

/-- What the forwarding ring carries to a follower (R35, R36): an instruction, with its address, its word, its size and the
successor the leader took, and whether its conditional branch was taken; or the place where the leader left the stream, by a trap
or by ending the group. -/
inductive Forwarded where
  | insn (pc : Dword) (word : Word) (size : Nat) (next : Dword) (taken : Bool)
  | detach
  | leave (size : Nat)
deriving DecidableEq, Repr

/-- Membership of a follow group (R34): the id, the leader's slot, the hop distance, the positions the group spans, whether a
follower is attached, whether the leader has executed an RJOIN that this follower did not meet (for the leader itself: any),
what the ring holds for the follower, and whether the leader is to go on with a REP that has gone down the stream already (R189). The
leader's own record has hop 0. -/
structure Follow where
  gid : Nat
  leader : Nat
  hop : Nat
  span : Nat
  attached : Bool
  missed : Bool
  stream : List Forwarded
  again : Bool
deriving DecidableEq, Repr

/-- A running REP (R188, R189): the captured body, the stride, the count, and the place reached. -/
structure Rep where
  body : List Word
  stride : Nat
  count : Nat
  iter : Nat
  idx : Nat
deriving DecidableEq, Repr

/-- What a WAITING strand waits for (R32, R33). -/
inductive WaitOn where
  /-- WAIT: the limits on T, C, S and L (R198) -/
  | counters (t c s l : Nat)
  /-- WAITID: a transfer of a channel (R243) -/
  | transfer (chan : Nat) (id : Word)
  /-- WAITA: the watched word, its width in bytes, the condition and the operand (R204) -/
  | word (loc : Loc) (bytes : Nat) (cond : BitVec 3) (operand : Dword) (signed : Bool) (cls : Nat)
  /-- BWAIT and BARW: the barrier word and the phase that must end (R206) -/
  | barrier (loc : Loc) (phase : Bool)
  | events
  | sleep (until' : Nat)
  /-- RJOIN: by a member for its leader, or by a strand for the group to be created (R37, R190) -/
  | join (gid : Nat) (member : Bool)
  /-- a pipe's item or end (get), or its room (R281) -/
  | pipe (cluster chain p : Nat) (get : Bool)
  | chainForm (cluster chain : Nat) (fold : Bool)
  | chainEnd (cluster chain : Nat)
  | handle (id : Dword)
  /-- the acknowledgement of the strand's synchronous invalidation, of all its asynchronous ones, or of its migration -/
  | inval
  | invalAll
  | migrate
  | preempt (launch : LaunchId) (halt : Bool)
  /-- SCLKW and SCLKA: their turn in arrival order, and then every firing of the crew up to the tick set (R265) -/
  | clock (order : Nat) (tick : Option (BitVec 48))
  | tile (n : Nat)
  | shadow
deriving DecidableEq, Repr

/-- The wait record (R408): the waiting instruction's word, what it waits for, the TIME it first issued, whether the wait has
ended and whether its timeout ended it. -/
structure WaitRec where
  word : Word
  on : WaitOn
  since : Nat
  hit : Bool
  expired : Bool
deriving DecidableEq, Repr

/-- A stream register's pattern and place (R245, R246). -/
structure Stream where
  write : Bool
  cap : Cap
  counts : List Nat
  strides : List Int
  pos : Nat
  ovr : Bool
deriving DecidableEq, Repr

/-- A vector load in flight (R218): the lanes still to be written and their values, whether p0 masked it (R208), and its place in the
strand's program. -/
structure VLoad where
  vd : VIdx
  lanes : Dword
  bits : Vword
  taint : Bool
  whole : Bool
  order : Nat
deriving DecidableEq, Repr

/-- The four vector state instructions (R261). -/
inductive VStateOp where
  | srd | sadv | supd | srdy
deriving DecidableEq, Repr

/-- What a state operation's request carries to the home (R92): the ticks of the two time sources as sampled. -/
structure Ticks where
  device : BitVec 48
  logical : BitVec 48
deriving DecidableEq, Repr

/-- A vector state instruction in flight (R261, R262): what its requests carry, the lanes still to be served, the first fault of
the lowest lane, the taint gathered, its place in the strand's program, whether the Spring unit has taken it from the core's
queue (R44), and, where its destination is a write stream, the stream at the element that waits for the last lane, with what it holds so far (R246). -/
structure VState where
  op : VStateOp
  vd : VIdx
  base : Dword
  loc : Loc
  dg : Bool
  ctx : Ctx
  crew : CrewId
  lawb : Dword
  ticks : Ticks
  event : Option (BitVec 48)
  sse : Bool
  lanes : Dword
  input : Vword
  inTaint : Bool
  whole : Bool
  taint : Bool
  fault : Option (Nat × BitVec 8 × Dword)
  order : Nat
  taken : Bool
  push : Option (Stream × Vword)
deriving DecidableEq, Repr

/-- A late fault a WAIT reports (R249, R262): the cause, TVAL, EXTRA, and whether the C limit or the L limit covers it. -/
structure Late where
  cause : BitVec 8
  tval : Dword
  extra : Qword
  onC : Bool
  order : Nat
deriving DecidableEq, Repr

/-- A strand's place in a chain (R279): the cluster, the chain and the stage it runs. -/
structure ChainRef where
  cluster : Nat
  id : Nat
  stage : Nat
deriving DecidableEq, Repr

/-- Where a stage stands (R274, R275): before an instruction that can always go on, or before a GET or GETE, or a PUT, of a pipe. -/
inductive Stand where
  | clear
  | pipe (p : Nat) (get : Bool)
deriving DecidableEq, Repr

/-- Everything a strand slot holds (R21, R28). A FREE slot holds the record of a fresh strand. `pccFar` is the last PCC whose
counts fit, while the PC lies outside its representable region (R52). `farBound` counts the handles homed on other devices that the strand
has bound (R298). -/
structure Strand where
  status : Status
  prior : Status
  regs : Regs
  pcc : Cap
  pccFar : Option Cap
  csr : Csr
  ctr : Counters
  launch : LaunchId
  born : Nat
  exiting : Bool
  yielded : Bool
  follow : Option Follow
  rep : Option Rep
  resumed : Bool
  wait : Option WaitRec
  chain : Option ChainRef
  held : Option Stand
  streams : Vector (Option Stream) 4
  vloads : List VLoad
  vstates : List VState
  ticks : Option Ticks
  lates : List Late
  parkCause : BitVec 8
  sysPark : Bool
  scato : Word
  farBound : Nat
deriving DecidableEq, Repr

/-! ## Cores -/

/-- A line of the L1 data cache (R124, R125): the bytes it has, the bytes it has dirtied, tags, the taint of the sectors as
fetched, the taint of the stores since the line was last clean, the sectors that an untainted whole-sector store has cleared
since then, and the granules that arrived poisoned. -/
structure Line where
  data : BitVec 1024
  have' : BitVec 128
  dirty : BitVec 128
  tags : BitVec 8
  seen : BitVec 4
  taint : BitVec 4
  wiped : BitVec 4
  bad : BitVec 8
deriving DecidableEq, Repr

/-- The operations of RED (R202). -/
inductive RedOp where
  | add | and' | or' | xor' | min' | max' | fadd64 | fadd32
deriving DecidableEq, Repr

/-- A reduction on its way: a combining-buffer entry or a request to its home (R126 to R128), and the other strands whose reductions
routers have merged into it. -/
structure RedReq where
  owner : Owner
  others : List Owner
  src : Nat
  part : Nat
  ctx : Ctx
  va : Dword
  loc : Loc
  op : RedOp
  width : Nat
  signed : Bool
  scope : BitVec 3
  operand : Dword
  taint : Bool
  count : Nat
deriving DecidableEq, Repr

/-- The AMOFADD that the turn before this one served, which routers may yet merge with the next one (R128): its request, the word and
taint it found, the word it left, and whether it was served in this very turn. -/
structure Fadd where
  req : RedReq
  base : Nat
  baseTaint : Bool
  after : Nat
  fresh : Bool
deriving DecidableEq, Repr

/-- Device memory: bytes, tags by 16-B granule, taint by 32-B sector, and poison (R55, R119). An error poisons the four granules
of a 64-B unit, and only SSET clears one of them (R99). Each list is strictly rising and lists no address that reads as an
unlisted one does. -/
structure Memory where
  cells : List Host.Cell
  tags : List Nat
  taints : List Nat
  poison : List Nat
deriving DecidableEq, Repr

/-- A resident scratchpad page (R121, R123): whose page it is, the frame it was filled from, its bytes by offset, the bytes
dirtied since the fill, the sectors that stores have tainted or wholly cleared since then, and whether it is pinned, by an access
or by PINS, whether it was filled through a G leaf, and the log of that leaf's size (R310). -/
structure Page where
  asid : BitVec 16
  page : Nat
  frame : Nat
  bytes : Memory
  dirty : BitVec 4096
  stained : BitVec 128
  wiped : BitVec 128
  pinned : Bool
  explicit : Bool
  global : Bool
  leaf : Nat
deriving DecidableEq, Repr

/-- A way of a bank's row cache (R119): the open row, and whether it holds writes that the array lacks. -/
structure RowWay where
  row : Nat
  dirty : Bool
deriving DecidableEq, Repr

/-- A cached leaf (R399): its first virtual address, the log of its size, and the entry as walked. -/
structure TlbEntry where
  asid : BitVec 16
  va : Nat
  size : Nat
  pte : Dword
deriving DecidableEq, Repr

/-- The rows of an accumulator tile (R46); a missing row or element is +0. -/
abbrev Tile := List (List Word)

/-- An accumulator tile (R219): its holder, its contents and taint as the engine has written them, the taint it will have
once every command issued so far has run, which TST's guard reads (R367), and whether the holder has given it up, which frees it after
the holder's earlier commands on it. -/
structure TileState where
  owner : Option Owner
  data : Tile
  taint : Bool
  due : Bool
  leave : Bool
deriving DecidableEq, Repr

/-- The core's shadow accumulator (R41): its holder and the tile it is bound to, and the same as a tile. -/
structure Shadow where
  owner : Option Owner
  acc : Nat
  data : Tile
  taint : Bool
  due : Bool
  leave : Bool
deriving DecidableEq, Repr

/-- One operand buffer of a TMMA as sampled (R224): its core and window offset, the frames of its pages, its row count, code
width and swizzle, and the table or the direct format that decodes it. -/
structure Operand where
  core : Nat
  off : Nat
  frames : List (Nat × Nat)
  rows : Nat
  cw : Nat
  swz : Bool
  table : Option TableSlot
  bf16 : Bool
deriving DecidableEq, Repr

/-- What a TMMA samples at issue (R224), or COPYT for the TMMA it carries (R242), with the taint of its registers. -/
structure TmmaSample where
  owner : Owner
  ctx : Ctx
  src : Nat
  order : Nat
  acc : Nat
  shadow : Bool
  zero : Bool
  force : Bool
  fresh : Bool
  bind : Bool
  m : Nat
  n : Nat
  k : Nat
  j0 : Nat
  capA : Cap
  capB : Cap
  fmta : Dword
  fmtb : Dword
  slotA : TableSlot
  slotB : TableSlot
  sclm : Nat
  scla : Dword
  sclb : Dword
  taint : Bool
deriving DecidableEq, Repr

/-- A TMMA that has passed its checks (R225, R229): its sampled operands, the places of its scales, the next block, and the
recheck's running reference (R83) when it is captured. -/
structure Tmma where
  x : TmmaSample
  a : Operand
  b : Operand
  scalesA : List Loc
  scalesB : List Loc
  next : Nat
  opid : Nat
  checked : Bool
  ref : Option (List (List Dword))
deriving DecidableEq, Repr

/-- The accumulator operations (R231). -/
inductive AccKind where
  | zero | release | store32 | storeBf | storeCode | convert | load32 | loadBf | commit | discard | add
deriving DecidableEq, Repr

/-- An accumulator operation from issue on (R231, R232): whether it was the first to name its tile, the element region with the
places translated at issue, for TST.CD and TCVT slot 2 as sampled, and the taint of its
registers. TCVT's places are its buffer's words in order. -/
structure AccOp where
  owner : Owner
  ctx : Ctx
  order : Nat
  acc : Nat
  kind : AccKind
  fresh : Bool
  m : Nat
  n : Nat
  places : List Loc
  slot : Option TableSlot
  fmte : Dword
  taint : Bool
deriving DecidableEq, Repr

/-- The copy family (R238). -/
inductive CopyKind where
  | copy | copy2 | copyp | copyz | copyf | copyt | copyb
deriving DecidableEq, Repr

/-- A copy command from issue on (R235 to R244): its operands as sampled, the flag's or barrier word's address, the taint of
the e registers that its header or mark comes from, how many destination bytes of how many have landed, the bytes read that wait for
the rest of their destination unit, with their taint, the leaves its destination has gone through, by number and log of the size (R416),
the taint of the sources of the sector under way, a failed flag or credit write,
the error that ended it, and whether a spill ring holds its last act (R342). -/
structure Copy where
  owner : Owner
  ctx : Ctx
  src : Nat
  kind : CopyKind
  chan : Nat
  id : Word
  scope : BitVec 3
  dst : Cap
  source : Cap
  e0 : Word
  e1 : Word
  e2 : Word
  e3 : Word
  e5 : Word
  mark : Dword
  cw : Nat
  sig : Word
  tmma : Option TmmaSample
  taint : Bool
  pos : Nat
  total : Nat
  held : List Byte
  heldTaint : Bool
  leaves : List (Nat × Nat)
  carry : Bool
  broken : Option (BitVec 8 × Dword)
  error : Option (BitVec 8 × Dword)
  acted : Bool
deriving DecidableEq, Repr

/-- The gather family (R247). -/
inductive GatherKind where
  | gath | gaths | scat | scata | scato | logm
deriving DecidableEq, Repr

/-- A gather, scatter or log command from issue on (R247 to R251): its operands as sampled (the side read or written in
order, the indexed side, the index list), the elements to do, finished and failed, the lines GATHS has read, the addresses
SCAT has written, what LOGM is to add at each address, and the command's place in the strand's program. -/
structure Gather where
  owner : Owner
  ctx : Ctx
  src : Nat
  kind : GatherKind
  count : Nat
  sz : Nat
  iw : Nat
  op : Nat
  scope : BitVec 3
  inOrder : Cap
  indexed : Cap
  index : Cap
  status : Dword
  fresh : Bool
  todo : List Nat
  done : Nat
  failed : List Nat
  cause : BitVec 8
  faddr : Dword
  reads : List (Nat × List Byte × Bool)
  wrote : List (Nat × Nat)
  seq : Word
  merges : List (Dword × List Dword)
  order : Nat
deriving DecidableEq, Repr

/-- An entry of a core's dispatch queue (R44); `spring` stands for the vector state instruction of its strand with that place in the
strand's program, `vector` for a vector instruction of its strand, which took its effect when it was issued (log entry 125). -/
inductive Cmd where
  | tmma (t : Tmma)
  | acc (a : AccOp)
  | copy (c : Copy)
  | gather (g : Gather)
  | spring (owner : Owner) (order : Nat)
  | vector (owner : Owner)
deriving DecidableEq, Repr

/-- A copy channel (R236, R243): the two counts and the error record. -/
structure Channel where
  next : Word
  done : Word
  err : Option (Word × BitVec 8 × BitVec 8 × Dword)
deriving DecidableEq, Repr

/-- Whom a started record's strand serves: an invocation's callee copy and arguments (R293), or nobody. -/
structure Callee where
  handle : Dword
  args : List GReg
  fromCluster : Nat
deriving DecidableEq, Repr

/-- A task record (R326), with the launch a pushed record belongs to (R27) and, for an invocation, its callee. `rsv` holds its reserved
bits and BYP as pushed, and `bad` says that one of them is set. -/
structure TaskRec where
  code : Cap
  frame : Cap
  codeTaint : Bool
  frameTaint : Bool
  restTaint : Bool
  jaddr : Dword
  key : Word
  byp : Nat
  hint : Dword
  rsv : BitVec 96
  bad : Bool
  launch : Option LaunchId
  callee : Option Callee
deriving DecidableEq, Repr

/-- The units of a quad that take the heads of its cores' queues (R44): the wide engine, the Spring unit and the copy engine. -/
inductive QuadUnit where
  | wide | spring | copy
deriving DecidableEq, Repr

/-- Everything a core holds (R7); `rot` is the slot that last took its turn of the rotation (R43); `passed` lists, by unit, the cores of
the quad that still come before this one there, since it was served last and they were waiting (R44);
`ringBytes` is the window page of the ready ring, whose oldest record stands in slot `ringHead` (R327); `away` lists the launches whose core section SCTX has saved and LCTX has not loaded (R412). -/
structure Core where
  lines : Table Nat Line
  ilines : Table Nat (BitVec 1024 × BitVec 8)
  combine : List RedReq
  pages : List Page
  tlb : List TlbEntry
  tiles : Vector TileState 4
  shadow : Shadow
  tables : Vector TableSlot 4
  chkn : BitVec 17
  chkt : Word
  tmmaCount : Dword
  queue : List Cmd
  channels : Vector Channel 8
  ring : List TaskRec
  away : List LaunchId
  wide : List Cmd
  copies : List Copy
  gathers : List Gather
  rot : Nat
  passed : List (QuadUnit × Nat)
  ringHead : Nat
  ringBytes : Memory
deriving DecidableEq, Repr

/-- A recheck in a quad's check buffer (R82 to R84): the TMMA it captures and, once the reference is there, the deviation
and its position. -/
structure Check where
  core : Nat
  part : Nat
  opid : Nat
  forced : Bool
  src : Nat
  result : Option (Nat × Nat × Nat)
deriving DecidableEq, Repr

/-! ## Crews, calendars, sweepers -/

/-- An event record (R266, R104): the tick, the word's address, its law, the two values, the task and late bits, the poster and
the taint. -/
structure EventRec where
  tick : BitVec 48
  addr : BitVec 48
  law : BitVec 8
  v0 : Word
  v1 : Word
  task : Bool
  late : Bool
  src : Nat
  taint : Bool
deriving DecidableEq, Repr

/-- What a crew's strands share (R91, R107). -/
structure Crew where
  lclk : BitVec 48
  lawb : Dword
  stick : BitVec 5
  events : List EventRec
  loaded : Bool
deriving DecidableEq, Repr

/-- The arming crew of a word, and what its law is read under (R103). -/
structure Arming where
  crew : CrewId
  ctx : Ctx
  va : Dword
deriving DecidableEq, Repr

/-- A crossing-calendar entry (R102, R104, R107): the tick, the word by place and address, its law, the arming crew, a firing held for
a full event queue, and, for a TSRC = 1 word, whether the crew's clock has reached the tick (R265). -/
structure CalEntry where
  tick : BitVec 48
  loc : Loc
  law : BitVec 8
  tsrc : Bool
  arm : Arming
  held : Option EventRec
  sent : Bool
  due : Bool
deriving DecidableEq, Repr

/-- A firing request on its way to the word's home (R104), with TIME when it was sent. -/
structure FireReq where
  cluster : Nat
  entry : CalEntry
  time : Dword
deriving DecidableEq, Repr

/-- A region registered with the sweeper (R109), the pass's next word when one is under way, and whether that pass is one of the
logical clock's, for TSRC = 1 words alone (R110). -/
structure Region where
  base : Nat
  top : Nat
  arm : Arming
  next : Option Nat
  logical : Bool
  lastTime : Nat
  lastTick : BitVec 48
deriving DecidableEq, Repr

/-! ## Chains -/

/-- A stage entry of a chain descriptor (R268). -/
structure StageDesc where
  entry : Nat
  fg : Bool
  amask : BitVec 4
  vcnt : Nat
  vfst : Nat
  gcnt : Nat
  gfst : Nat
deriving DecidableEq, Repr

/-- A pipe item (R281): a g register's 128 bits in the low bits, or a v register. -/
structure Item where
  bits : Vword
  tag : Bool
  taint : Bool
deriving DecidableEq, Repr

/-- A pipe (R269, R274, R280): its entry, its items oldest first, the residual ring's oldest slot, whether the newest item is
in the latch (folded), and how it has been closed. -/
structure Pipe where
  prod : Nat
  cons : Nat
  cap : Nat
  wide : Bool
  qoff : Nat
  items : List Item
  head : Nat
  latch : Bool
  closed : Bool
  broken : Bool
  cause : BitVec 8
deriving DecidableEq, Repr

/-- A stage (R274): its own PC and FFLG while another stage of the folded chain runs, where it then stands, the slot it runs
on while the chain is spread, and whether a switch of form took place where it stands (R284). -/
structure StageState where
  pc : Dword
  fflg : BitVec 5
  started : Bool
  ended : Bool
  killed : Bool
  stand : Stand
  slot : Nat
  switched : Bool
deriving DecidableEq, Repr

/-- What asks January for a switch (R276): CHFLD or CHSPR of a strand, the policy, a pre-emption, or cores coming back. -/
inductive Trigger where
  | request (slot : Nat) (fold : Bool)
  | policy (fold : Bool)
  | preempt
  | back
deriving DecidableEq, Repr

/-- A bound chain (R270): who bound it and what for, its save area and what that is written under, the stages, the pipes, its
form, the folded strand's slot and running stage, the triggers in arrival order with their times, the policy's samples, whether
the scheduler folded it and whether its cores have come back, the ring position its spread placement starts from, and whether the
cores-return trigger waits for the folded strand to be READY (R349). -/
structure Chain where
  id : Nat
  desc : Nat
  launch : LaunchId
  byLaunch : Bool
  save : Dword
  ctx : Ctx
  flo : Nat
  pol : Nat
  stages : List StageDesc
  states : List StageState
  pipes : List Pipe
  folded : Bool
  pinned : Bool
  foldable : Bool
  slot : Nat
  running : Nat
  triggers : List (Trigger × Nat)
  lowSamples : Nat
  readySamples : Nat
  sched : Option Bool
  homeRing : Nat
  backDue : Bool
deriving DecidableEq, Repr

/-! ## Handles -/

/-- The states of a handle entry (R290). -/
inductive HState where
  | free | unbound | bound | fulfilled | broken
deriving DecidableEq, Repr

/-- What a message of the handle channel carries (R288, R291, R295, R296): a SENDH payload, an INVON, the breakage of the handle
by HBRK, its responsible strand or an upstream one, a released INVON with the upstream value on its way to a core, or an invocation's
record with its placement word; and what another device's HBIND, HFUL and HDROP do at an entry here. -/
inductive HBody where
  | send (payload : GReg)
  | invon (code : Cap) (args : List GReg) (handle : Dword)
  | bind
  | fulfil (value : GReg)
  | drop
  | broke (reason : Nat) (cause : BitVec 8) (user : Word) (origin : Dword)
  | start (core : Nat) (value : GReg) (code : Cap) (args : List GReg) (handle : Dword)
  | record (place : Dword) (core : Nat) (rec : TaskRec)
deriving DecidableEq, Repr

/-- A message to a handle (R299): its id, the sender's partition, number and sequence number, its cluster, and its content; while it
is buffered at the entry, the address of its record (R290). -/
structure HMsg where
  id : Dword
  part : Nat
  src : Nat
  seq : Nat
  cluster : Nat
  body : HBody
  place : Dword
deriving DecidableEq, Repr

/-- The command that stays outstanding while a spill ring holds a write of it (R342): a copy by its core, channel and number, or a gather
by its core, strand and place in the strand's program, and the element the write is for. -/
inductive Sender where
  | copy (core chan : Nat) (id : Word)
  | gather (core : Nat) (owner : Owner) (order element : Nat)
deriving DecidableEq, Repr

/-- What the spill ring catches for a halted context (R342): a handle message, or what an engine does in its window: bytes, a barrier
credit, or a reduction of SCATA. -/
inductive SpillBody where
  | handle (msg : HMsg)
  | write (sender : Sender) (ctx : Ctx) (va : Dword) (bytes : List Byte) (tag taint clear : Bool)
  | credit (sender : Sender) (ctx : Ctx) (va : Dword) (n : Nat) (taint : Bool)
  | red (sender : Sender) (r : RedReq)
deriving DecidableEq, Repr

/-- An entry of a cluster's spill ring (R342, R411): the context it is for, and what was caught. -/
structure Spill where
  owner : Owner
  body : SpillBody
deriving DecidableEq, Repr

/-- A mailbox bound to a handle (R296): its address, its slots, what it is written under and whether it keeps tags, and the
core of the strand that bound it. -/
structure Mailbox where
  addr : Dword
  cap : Nat
  ctx : Ctx
  stc : Bool
  owner : Owner
deriving DecidableEq, Repr

/-- A handle entry in use or freed (R290): its buffered messages in serialised order, the mailbox, the core where its value
lives (R295; 2048 for another device), the responsible strand and its stage (R298), and the invoker and its launch. -/
structure HEntry where
  state : HState
  gen : BitVec 8
  slice : Nat
  value : GReg
  box : Option Mailbox
  home : Nat
  resp : Option (Owner × Nat)
  invk : Nat
  invkLaunch : LaunchId
  cause : BitVec 8
  reason : Nat
  user : Word
  origin : Dword
  drop : Bool
  xdev : Bool
  msgs : List HMsg
deriving DecidableEq, Repr

/-! ## Launches and partitions -/

/-- The states of a launch (R317). -/
inductive LState where
  | waitDep | ready | running | ended
deriving DecidableEq, Repr

/-- What the strands of a core share in a saved context (R412). -/
structure CoreSect where
  tables : Vector TableSlot 4
  channels : Vector Channel 8
  chkn : BitVec 17
  chkt : Word
  tmmaCount : Dword
deriving DecidableEq, Repr

/-- The engine that holds a command (R44, R332). -/
inductive CmdAt where
  | queue | wide | copies | gathers
deriving DecidableEq, Repr

/-- Everything of a strand that leaves the cores with its saved context (R332, R408 to R411): its record, its tiles and shadow,
its commands with the engine that held each, and what the spill ring held for it. A context that SCTX wrote is known by the bytes it left where the manual gives
no layout. -/
structure SavedStrand where
  token : Nat
  strand : Strand
  tiles : List (Nat × TileState)
  shadow : Option Shadow
  cmds : List (CmdAt × Cmd)
  spills : List Spill
deriving DecidableEq, Repr

/-- A pre-emption under way (R339): the requester, the candidate crew it is for (R322), when it reached the crew's cores, whether its
copy drain budget has ended, and when its chain window was over. -/
structure Halting where
  src : Nat
  cand : Option (Nat × Nat)
  reached : Option Nat
  drained : Bool
  shut : Option Nat
deriving DecidableEq, Repr

/-- A crew that has been placed (R320 to R322): its index, its cluster, since when it holds it, the pre-emption under way,
whether it is halted in its slots, whether its contexts are saved and its cluster given up, whether it is about to resume,
whether its strands have all exited, and what has been saved. -/
structure Placed where
  index : Nat
  cluster : Nat
  since : Nat
  halting : Option Halting
  halted : Bool
  out : Bool
  resuming : Bool
  gone : Bool
  saved : List (Nat × SavedStrand)
  cores : List (Nat × CoreSect)
deriving DecidableEq, Repr

/-- A launch from its doorbell on (R312, R317), with what the launch unit has observed of each dependence (R318). -/
structure Launch where
  id : LaunchId
  qidx : Nat
  ringer : Nat
  state : LState
  ncrew : Nat
  tm1 : Nat
  sm1 : Nat
  pri : Nat
  dmode : Bool
  chn : Bool
  asid : BitVec 16
  root : BitVec 36
  code : Cap
  frame : Cap
  deps : List Dword
  seen : List (Option Bool)
  chdesc : Dword
  chsave : Dword
  doneVa : Dword
  crews : List Placed
deriving DecidableEq, Repr

/-- A fault record (R336), before its SEQ and VALID are given. -/
structure FaultRec where
  extra : Qword
  tepc : Dword
  addr : Dword
  time : Nat
  asid : BitVec 16
  stg : BitVec 4
  cause : BitVec 8
  src : Nat
  parked : Bool
deriving DecidableEq, Repr

/-- A telemetry record accepted for a reserved slot (R417, R418). -/
structure TelRec where
  bits : BitVec 256
  taint : Bool
  type : BitVec 8
  time : Nat
  src : Nat
deriving DecidableEq, Repr

/-- A resize under way (R392): the new rectangle, FORCE, and whether the pending bitmap has been taken. -/
structure Resize where
  rect : Nat
  force : Bool
  cleared : Bool
deriving DecidableEq, Repr

/-- Everything a partition has (R389): its block registers that are not kept elsewhere, by offset, and its queues. -/
structure Part where
  state : Nat
  outcome : BitVec 3
  regs : Table Nat Dword
  counters : Table Nat Dword
  bitmap : Dword
  pendingMap : Option Dword
  faults : List (FaultRec × Nat)
  faultSeq : Dword
  tel : List TelRec
  telSeq : Word
  entries : Table Nat HEntry
  nextSerial : Nat
  freed : List Nat
  segments : Table Nat (List TaskRec)
  heldRecs : Table Nat (List TaskRec)
  launches : List Launch
  ages : Nat
  pendingVec : BitVec 4
  /-- the crews of the standing launch that the system die has halted (R16) -/
  standing : List Placed
  resize : Option Resize
  layBusy : Bool
  layResult : BitVec 7
  layCmd : Dword
  rszBusy : Bool
  rszResult : BitVec 7
  areqBusy : Bool
  areqDone : Bool
  report : List Byte
deriving DecidableEq, Repr

/-! ## The system die -/

/-- An invalidation or a migration's commit on its way (R309, R310, R402): whose it is, the range, and whether its issuer
waits for it. -/
structure Inval where
  owner : Owner
  part : Nat
  asid : Option (BitVec 16)
  global : Bool
  lo : Nat
  hi : Nat
  async : Bool
deriving DecidableEq, Repr

/-- A migration between its MIGR and its commit (R402, R403): the entry's place, its frame and the new one, the leaf's size and
virtual range, and the address space it is invalidated in. -/
structure Migration where
  owner : Owner
  part : Nat
  asid : BitVec 16
  pte : Loc
  old : Nat
  new : Nat
  size : Nat
  lo : Nat
  hi : Nat
deriving DecidableEq, Repr

/-- A party of the consistency model by its location (R131, R427): a strand by its slot; the calendar, the sweeper and January by
their cluster; March by its L2 slice; the launch unit, the fault and telemetry writers and the system cores on the system die; the
host. -/
inductive Party where
  | strand (slot : Nat)
  | cluster (c : Nat)
  | slice (n : Nat)
  | system
  | host
deriving DecidableEq, Repr

/-- A scope-checker record (R139): the scope and the party of the last synchronising access. -/
structure ScopeRec where
  scope : BitVec 3
  party : Party
deriving DecidableEq, Repr

/-- A firmware update being written (R424). -/
structure Update where
  dest : Nat
  bytes : List Byte
  commit : Option (Nat × Nat)
deriving DecidableEq, Repr

/-- The system die (R383, R388, R420 to R424, R442): the global block's registers by offset, the system fault queue, the flash and the
counters of boot; which LMS state record is in use, its index and whether there is a valid one (R384); and the payload of the owner
block that the present one replaced (R382), and of the one that this boot accepted, whose keys and places hold until the next (R424). -/
structure Sys where
  regs : Table Nat Dword
  faults : List (FaultRec × Nat × Nat)
  faultSeq : Dword
  flash : List Host.Cell
  rpmc : Table Nat Nat
  bootCopy : Nat
  stage : Nat
  result : Nat
  reason : Nat
  detail : Nat
  lmsIndex : Nat
  lmsOk : Bool
  lmsSecond : Bool
  replaced : List Byte
  owner : List Byte
  ownerHash : BitVec 384
  hashes : List (BitVec 384)
  powered : Bool
  held : Bool
  heldCrews : List CrewId
  update : Option Update
  layers : BitVec 144
  mhz : Nat
  irqs : Table (Nat × Nat) Nat
deriving DecidableEq, Repr

/-- A supervisor strand's write to its partition's block, on its way through the system die (R198, R387): the partition, the
offset, the bytes and the strand's source number. -/
structure Posted where
  part : Nat
  off : Nat
  bytes : List Byte
  src : Nat
deriving DecidableEq, Repr

/-- What a turn does: the issue turn of a slot, or an event. -/
inductive Act where
  | issue (slot : Nat)
  | event (e : Instr)
deriving DecidableEq, Repr

/-- One turn of the machine: how many nanoseconds pass before it, and what acts. -/
structure Turn where
  dt : Nat
  act : Act
deriving DecidableEq, Repr

end Sys2Proof.Machine
end

