-- ==== Sys2Proof/Machine/State.lean ====
section
/-!
DEFINITION. The whole state of one SK-96, its faults and refusals, and the state after reset.
-/
namespace Sys2Proof.Machine

/-- A step never ends in a fault: every trap the manual describes is a next state (R307), and every stop below is a refusal.
The type has no constructor, so no claim can rest on one. Safe. -/
inductive Fault where
deriving DecidableEq, Repr

/-- Why a step has no meaning. -/
inductive Refusal where
  /-- Raised by an arm of `exec` whose instruction has no meaning in this model. Safe: nothing is claimed of it. -/
  | notModelled (mnemonic : String)
deriving DecidableEq, Repr

/-! ## Fresh records -/

/-- A g register of a new strand (R28). -/
def GReg.zero : GReg := ⟨0, false, false⟩
def VReg.zero : VReg := ⟨0, false⟩
def PReg.zero : PReg := ⟨0, false⟩
def EReg.zero : EReg := ⟨0, false⟩

/-- The registers of a new strand (R28). p0 and g0 are never read from here (R46). -/
def Regs.fresh : Regs :=
  ⟨Vector.replicate 64 GReg.zero, Vector.replicate 32 VReg.zero, Vector.replicate 8 PReg.zero, Vector.replicate 8 EReg.zero⟩

/-- The reset values of the per-strand control registers (R63, R64, R189, R222, R223, R232, R306). -/
def Csr.fresh : Csr where
  frm := 0
  fflg := 0
  fmta := 0
  fmtb := 0
  fmte := 1
  scla := 0
  sclb := 0
  sclm := 0
  trapv := 0
  tcause := 0
  tval := 0
  tepc := 0
  stg := 0
  inh := false
  repi := 0
  taintCount := 0
  taintSticky := false
  asid := 0
  ptbr := 0

def Counters.fresh : Counters := ⟨0, 0, 0, 0, 0, 0⟩

/-- What a FREE slot holds (R25, R28). -/
def Strand.fresh : Strand where
  status := .free
  prior := .ready
  regs := Regs.fresh
  pcc := ⟨0, true⟩
  pccFar := none
  csr := Csr.fresh
  ctr := Counters.fresh
  launch := ⟨0, 0⟩
  born := 0
  exiting := false
  yielded := false
  follow := none
  rep := none
  resumed := false
  wait := none
  chain := none
  held := none
  streams := Vector.replicate 4 none
  vloads := []
  vstates := []
  ticks := none
  lates := []
  parkCause := 0
  sysPark := false
  scato := 0
  farBound := 0

/-- A free tile (R219). -/
def TileState.fresh : TileState := ⟨none, [], false, false, false⟩

/-- A free shadow accumulator (R41). -/
def Shadow.fresh : Shadow := ⟨none, 0, [], false, false, false⟩

/-- A table slot at reset: invalid, with an all-zero image (R234). -/
def TableSlot.fresh : TableSlot := ⟨0, List.replicate 256 0, false, false⟩

def Channel.fresh : Channel := ⟨0, 0, none⟩

def Memory.empty : Memory := ⟨[], [], [], []⟩

/-- A core at reset (R81, R234, R236): its rotation offers slot 0 the first turn (log entry 132). -/
def Core.fresh : Core where
  lines := []
  ilines := []
  combine := []
  pages := []
  tlb := []
  tiles := Vector.replicate 4 TileState.fresh
  shadow := Shadow.fresh
  tables := Vector.replicate 4 TableSlot.fresh
  chkn := 0
  chkt := 1024
  tmmaCount := 0
  queue := []
  channels := Vector.replicate 8 Channel.fresh
  ring := []
  away := []
  wide := []
  copies := []
  gathers := []
  rot := 3
  passed := []
  ringHead := 0
  ringBytes := Memory.empty

/-- A crew when it is placed (R91). -/
def Crew.fresh : Crew := ⟨0, 0, 0, [], true⟩

/-- A partition at reset (R389, R390). The registers with a nonzero reset value are those of R389. -/
def Part.fresh : Part where
  state := 0
  outcome := 0
  regs := [(0x078, 64), (0x080, 64)]
  counters := []
  bitmap := 0
  pendingMap := none
  faults := []
  faultSeq := 0
  tel := []
  telSeq := 0
  entries := []
  nextSerial := 0
  freed := []
  segments := []
  heldRecs := []
  launches := []
  ages := 1
  pendingVec := 0
  standing := []
  resize := none
  layBusy := false
  layResult := 0
  layCmd := 0
  rszBusy := false
  rszResult := 0
  areqBusy := false
  areqDone := false
  report := []

/-- The system die at reset: boot has not begun, the input voltage is in range and no layer is trained (R15, R382, R383). -/
def Sys.fresh : Sys where
  regs := []
  faults := []
  faultSeq := 0
  flash := []
  rpmc := []
  bootCopy := 0
  stage := 0
  result := 0
  reason := 0
  detail := 0
  lmsIndex := 0
  lmsOk := false
  lmsSecond := false
  replaced := []
  owner := []
  ownerHash := 0
  hashes := []
  powered := true
  held := false
  heldCrews := []
  update := none
  layers := 0
  mhz := 1400
  irqs := []

/-! ## The state -/

/-- One SK-96. `me` is the strand of slot `cur`, whose turn it is or was last; `others` holds the other slots. A slot, core,
cluster or partition that a table does not list is as its fresh record says. -/
structure State where
  /-- The agenda: turns fixed in advance. When it is empty the schedule gives the next turn (log entry 1). -/
  agenda : List Turn
  /-- How many turns the schedule has given: the model's own counter, applied to the free schedule. -/
  turn : Nat
  /-- The model's own counter of free values drawn (log entry 13). -/
  draws : Nat
  /-- Creation numbers of strands and of crossings given so far, and the order of late faults: the model's own counter. -/
  serial : Nat
  /-- TIME (R12). -/
  time : Dword
  /-- The word of the instruction at issue, a halfword zero-extended: what TVAL and the wait record show (R163, R408). -/
  word : Word
  /-- Whether the last instruction at issue took its effect, for the forwarding of a leader's stream: the model's own. -/
  retired : Bool
  cur : Nat
  me : Strand
  others : Table Nat Strand
  cores : Table Nat Core
  mem : Memory
  /-- The base dies' row caches, by layer, pseudo-channel and bank: the ways most recently used first (R117, R119). -/
  rows : Table Nat (List RowWay)
  /-- Memory of the host behind the host windows (R115), by host address. -/
  hostMem : List Host.Cell
  l2tlb : Table Nat (List TlbEntry)
  crews : Table CrewId Crew
  calendars : Table Nat (List CalEntry)
  regions : Table Nat (List Region)
  arming : Table Loc Arming
  fires : List FireReq
  /-- Law entries that some home may still hold (R90), by place. -/
  laws : Table Loc (List (BitVec 256))
  chains : Table Nat (List Chain)
  checks : Table Nat Check
  reds : List RedReq
  /-- The AMOFADD that a router may still merge with the next turn's (R128). -/
  fadd : Option Fadd
  orphans : List (RedReq × BitVec 8)
  /-- Scope-checker records by line, or by 128-B block of a resident scratchpad page (R139). -/
  scopes : Table Loc ScopeRec
  hmsgs : List HMsg
  hseq : Table (Nat × Dword) Nat
  spills : Table Nat (List Spill)
  /-- Register writes of supervisor strands under way (R387). -/
  posted : List Posted
  invals : List Inval
  migrations : List Migration
  parts : Table Nat Part
  sys : Sys
deriving DecidableEq, Repr

/-- The machine right after reset: no strand, no launch, every partition FREE, nothing cached, memory with nothing listed. -/
def State.reset : State where
  agenda := []
  turn := 0
  draws := 0
  serial := 1
  time := 0
  word := 0
  retired := false
  cur := 0
  me := Strand.fresh
  others := []
  cores := []
  mem := Memory.empty
  rows := []
  hostMem := []
  l2tlb := []
  crews := []
  calendars := []
  regions := []
  arming := []
  fires := []
  laws := []
  chains := []
  checks := []
  reds := []
  fadd := none
  orphans := []
  scopes := []
  hmsgs := []
  hseq := []
  spills := []
  posted := []
  invals := []
  migrations := []
  parts := []
  sys := Sys.fresh

end Sys2Proof.Machine
end

