-- ==== Sys2Proof/Machine/Cells.lean ====
section
/-!
DEFINITION. Memory at its homes: sparse bytes with tags, taint and poison, in one canonical form (R54 to R57, R119).
-/
namespace Sys2Proof.Machine

/-! ## Sparse bytes and sparse sets, in one canonical form -/

/-- The byte at an address; an unlisted address reads as `d`. -/
def cellGet (d : Byte) : List Host.Cell → Nat → Byte
  | [], _ => d
  | (a', b') :: rest, a => if a = a' then b' else cellGet d rest a

/-- What a byte of memory that nothing has written reads as: log entry 4. -/
def Memory.unlisted : Byte := 0

def Memory.byte (m : Memory) (a : Nat) : Byte := cellGet Memory.unlisted m.cells a

/-- Writes a byte, keeping addresses strictly rising and listing no byte equal to `d`. -/
def cellSet (d : Byte) : List Host.Cell → Nat → Byte → List Host.Cell
  | [], a, b => if b = d then [] else [(a, b)]
  | (a', b') :: rest, a, b =>
    if a < a' then (if b = d then (a', b') :: rest else (a, b) :: (a', b') :: rest)
    else if a = a' then (if b = d then rest else (a, b) :: rest)
    else (a', b') :: cellSet d rest a b

/-- The canonical form of sparse bytes. -/
def cellsWf (d : Byte) : List Host.Cell → Bool
  | [] => true
  | [(_, b)] => decide (b ≠ d)
  | (a, b) :: (a', b') :: rest => decide (b ≠ d) && decide (a < a') && cellsWf d ((a', b') :: rest)

def natHas : List Nat → Nat → Bool
  | [], _ => false
  | a' :: rest, a => if a = a' then true else natHas rest a

/-- Adds or removes a member of a strictly rising list. -/
def natPut : List Nat → Nat → Bool → List Nat
  | [], a, b => if b then [a] else []
  | a' :: rest, a, b =>
    if a < a' then (if b then a :: a' :: rest else a' :: rest)
    else if a = a' then (if b then a :: rest else rest)
    else a' :: natPut rest a b

def natsWf : List Nat → Bool
  | [] => true
  | [_] => true
  | a :: a' :: rest => decide (a < a') && natsWf (a' :: rest)

def bytesGet (d : Byte) (c : List Host.Cell) (a : Nat) : Nat → List Byte
  | 0 => []
  | n + 1 => cellGet d c a :: bytesGet d c (a + 1) n

def bytesSet (d : Byte) (c : List Host.Cell) : Nat → List Byte → List Host.Cell
  | _, [] => c
  | a, b :: rest => bytesSet d (cellSet d c a b) (a + 1) rest

/-! ## Memory with its metadata (R54 to R57, R119) -/

namespace Memory

/-- The canonical form of memory. -/
def wf (m : Memory) : Bool := cellsWf unlisted m.cells && natsWf m.tags && natsWf m.taints && natsWf m.poison

def bytes (m : Memory) (a n : Nat) : List Byte := bytesGet unlisted m.cells a n
def nat (m : Memory) (a n : Nat) : Nat := ofBytes (m.bytes a n)
def tagAt (m : Memory) (granule : Nat) : Bool := natHas m.tags granule
def taintAt (m : Memory) (sector : Nat) : Bool := natHas m.taints sector
def poisonAt (m : Memory) (granule : Nat) : Bool := natHas m.poison granule
def putByte (m : Memory) (a : Nat) (b : Byte) : Memory := { m with cells := cellSet unlisted m.cells a b }
def putBytes (m : Memory) (a : Nat) (bs : List Byte) : Memory := { m with cells := bytesSet unlisted m.cells a bs }
def putTag (m : Memory) (granule : Nat) (b : Bool) : Memory := { m with tags := natPut m.tags granule b }
def putTaint (m : Memory) (sector : Nat) (b : Bool) : Memory := { m with taints := natPut m.taints sector b }
def putPoison (m : Memory) (granule : Nat) (b : Bool) : Memory := { m with poison := natPut m.poison granule b }
/-- An uncorrectable error poisons a 64-B unit: its four granules (R119). -/
def poisonUnit (m : Memory) (unit : Nat) : Memory := (List.range 4).foldl (fun m j => m.putPoison (4 * unit + j) true) m

/-- The indices of the `size`-byte units that n bytes at a touch. -/
def units (a n size : Nat) : List Nat := if n = 0 then [] else (List.range ((a + n - 1) / size - a / size + 1)).map (· + a / size)

/-- Whether any sector read is tainted (R48, R56). -/
def anyTaint (m : Memory) (a n : Nat) : Bool := (units a n 32).any m.taintAt
def anyPoison (m : Memory) (a n : Nat) : Bool := (units a n 16).any m.poisonAt

/-- The taint rule of a store for one sector (R56): a tainted store sets it, an untainted store of the whole sector clears it. -/
def storeTaint (m : Memory) (a n : Nat) (taint : Bool) : Memory :=
  (units a n 32).foldl (fun m s =>
    if taint then m.putTaint s true
    else if a ≤ 32 * s ∧ 32 * s + 32 ≤ a + n then m.putTaint s false else m) m

/-- A store of untagged data (R54, R56): the bytes, each touched granule's tag cleared, and the sectors' taint. Poison stays (log entry
124). -/
def store (m : Memory) (a : Nat) (bs : List Byte) (taint : Bool) : Memory :=
  ((units a bs.length 16).foldl (fun m g => m.putTag g false) (m.putBytes a bs)).storeTaint a bs.length taint

/-- A 16-B store of a value with its tag, as one access (R54). -/
def storeCap (m : Memory) (a : Nat) (bits : Qword) (tag taint : Bool) : Memory :=
  ((m.putBytes a (toBytes 16 bits.toNat)).putTag (a / 16) tag).storeTaint a 16 taint

/-- A 16-B value with its tag. -/
def cap (m : Memory) (a : Nat) : Cap := ⟨BitVec.ofNat 128 (m.nat a 16), m.tagAt (a / 16)⟩

end Memory

end Sys2Proof.Machine
end

