-- ==== Sys2Proof/Machine/Ops.lean ====
section
/-!
DEFINITION. The named operations over the strand at issue and over the tables of the state: registers with their fixed
behaviour and taint (R46 to R48), the units a slot belongs to (R17 to R20), fault records, taking an exception (R307, R333 to
R336) and returning from one (R308), and how the result of a meaning becomes an outcome.
-/
namespace Sys2Proof.Machine

/-- What a meaning answers. -/
abbrev Out := Host.Outcome State Fault Refusal

/-- Why an instruction does not complete now: a precise trap (R333), a stall (R43), or a wait (R32). -/
inductive Stop where
  | trap (cause : BitVec 8) (tval : Dword) (extra : Qword)
  | stall
  | wait (on : WaitOn)
deriving DecidableEq, Repr

/-- A computation that may stop. -/
abbrev Res (α : Type) := Except Stop α

def trap {α : Type} (cause : BitVec 8) (tval : Dword) : Res α := .error (.trap cause tval 0)
def trapX {α : Type} (cause : BitVec 8) (tval : Dword) (extra : Qword) : Res α := .error (.trap cause tval extra)
def stall {α : Type} : Res α := .error .stall
def waitFor {α : Type} (on : WaitOn) : Res α := .error (.wait on)
def guardTrap (ok : Bool) (cause : BitVec 8) (tval : Dword) : Res Unit := if ok then .ok () else trap cause tval

/-! ## Units (R17 to R20) -/

def coreOfSlot (slot : Nat) : Nat := slot / 4
def quadOfSlot (slot : Nat) : Nat := slot / 16
def clusterOfSlot (slot : Nat) : Nat := slot / 128
def dieOfSlot (slot : Nat) : Nat := slot / 2048
def clusterOfCore (core : Nat) : Nat := core / 32
/-- A core's ring position in its cluster (R34). -/
def ringOfCore (core : Nat) : Nat := core % 32
/-- A cluster's mesh number (R18). -/
def meshOf (cluster : Nat) : Nat :=
  let die := cluster / 16
  let c := cluster % 16
  8 * (4 * (die / 2) + c / 4) + (4 * (die % 2) + c % 4)
/-- This device's id (R14, R393, R442): DEVID.ID, which is 0 until a domain configuration block has been accepted. -/
def State.devId (s : State) : Nat := natBits (s.sys.regs.getD 0x0008 0).toNat 7 0
/-- A source number (R20). -/
def State.srcNum (s : State) (cls loc : Nat) : Nat := s.devId * 65536 + cls * 8192 + loc
def State.strandSrc (s : State) (slot : Nat) : Nat := s.srcNum 0 slot
/-- The L2 slice that homes a local physical address (R118). -/
def homeSlice (pa : Nat) : Nat :=
  let off := pa % 2 ^ 32
  let layer := natBits pa 39 32
  let h := (natBits off 11 7) ^^^ (natBits off 16 12) ^^^ (natBits off 21 17) ^^^ (natBits off 26 22) ^^^ (natBits off 31 27)
  layer / 36 * 32 + h

/-! ## Tables of the state -/

/-- Saturating addition to a 64-bit counter (R419). -/
def satAdd64 (n : Nat) (v : Dword) : Dword :=
  if 2 ^ 64 ≤ v.toNat + n then BitVec.allOnes 64 else v + BitVec.ofNat 64 n

namespace State

def setMe (s : State) (m : Strand) : State := { s with me := m }
def modMe (s : State) (f : Strand → Strand) : State := { s with me := f s.me }
/-- The strand of a slot. -/
def strand (s : State) (slot : Nat) : Strand := if slot = s.cur then s.me else s.others.getD slot Strand.fresh
def setStrand (s : State) (slot : Nat) (m : Strand) : State :=
  if slot = s.cur then { s with me := m } else { s with others := s.others.set slot m }
def modStrand (s : State) (slot : Nat) (f : Strand → Strand) : State := s.setStrand slot (f (s.strand slot))
/-- Makes a slot's strand the one at issue. -/
def focus (s : State) (slot : Nat) : State :=
  if slot = s.cur then s
  else { s with cur := slot, me := s.others.getD slot Strand.fresh, others := (s.others.erase slot).set s.cur s.me }
/-- Does something as the strand of another slot would. -/
def asSlot (s : State) (slot : Nat) (f : State → State) : State := (f (s.focus slot)).focus s.cur
def core (s : State) (c : Nat) : Core := s.cores.getD c Core.fresh
def modCore (s : State) (c : Nat) (f : Core → Core) : State := { s with cores := s.cores.modify c Core.fresh f }
def myCore (s : State) : Nat := coreOfSlot s.cur
def myCluster (s : State) : Nat := clusterOfSlot s.cur
def part (s : State) (p : Nat) : Part := s.parts.getD p Part.fresh
def modPart (s : State) (p : Nat) (f : Part → Part) : State := { s with parts := s.parts.modify p Part.fresh f }
def myPart (s : State) : Nat := s.me.launch.part
def crew (s : State) (k : CrewId) : Crew := s.crews.getD k Crew.fresh
def modCrew (s : State) (k : CrewId) (f : Crew → Crew) : State := { s with crews := s.crews.modify k Crew.fresh f }
def crewOf (s : State) (slot : Nat) : CrewId := ⟨(s.strand slot).launch, clusterOfSlot slot⟩
def myCrew (s : State) : CrewId := ⟨s.me.launch, s.myCluster⟩
def me? (s : State) : Owner := ⟨s.cur, s.me.born⟩
/-- Adds to a 64-bit partition counter, which saturates (R419). -/
def count (s : State) (p off n : Nat) : State :=
  s.modPart p (fun q => { q with counters := Table.modify q.counters off 0 (satAdd64 n) })
/-- A fresh number of the model's own counter. -/
def nextSerial (s : State) : Nat × State := (s.serial, { s with serial := s.serial + 1 })
/-- A free value: nothing constrains it (log entry 13). -/
def draw (s : State) : Nat × State := (Config.freeValue s.draws, { s with draws := s.draws + 1 })
/-- The launch with an id, if it is live. -/
def launch? (s : State) (k : LaunchId) : Option Launch := (s.part k.part).launches.find? (fun l => decide (l.id = k))
def modLaunch (s : State) (k : LaunchId) (f : Launch → Launch) : State :=
  s.modPart k.part (fun p => { p with launches := p.launches.map (fun l => if l.id = k then f l else l) })
/-- A crew that stands in its cluster; of the standing launch, only while the system die halts it. -/
def placed? (s : State) (k : CrewId) : Option Placed :=
  let pick (l : List Placed) : Option Placed := l.find? (fun c => c.cluster == k.cluster && !c.gone && !c.out)
  if k.launch.age = 0 then pick (s.part k.launch.part).standing
  else (s.launch? k.launch).bind (fun l => pick l.crews)
def modPlaced (s : State) (k : CrewId) (f : Placed → Placed) : State :=
  let g (l : List Placed) : List Placed := l.map (fun c => if c.cluster = k.cluster ∧ c.gone = false ∧ c.out = false then f c else c)
  if k.launch.age = 0 then s.modPart k.launch.part (fun p => { p with standing := g p.standing })
  else s.modLaunch k.launch (fun l => { l with crews := g l.crews })
/-- DMODE of a launch (R152, R305); the standing launch has 0 (R325). -/
def dmode (s : State) (k : LaunchId) : Bool := match s.launch? k with
  | some l => l.dmode
  | none => false
def nowNat (s : State) : Nat := s.time.toNat

end State

/-- A 64-bit register of a partition block as written (R389). -/
def Part.reg (p : Part) (off : Nat) : Dword := p.regs.getD off 0
/-- Clusters of a partition: its current bitmap by mesh number (R389, R391). -/
def Part.hasCluster (p : Part) (cluster : Nat) : Bool := p.bitmap.getLsbD (meshOf cluster)
/-- Layers of a partition (R389). -/
def Part.layers (p : Part) : BitVec 144 := (p.reg 0x028).extractLsb' 0 16 ++ p.reg 0x020 ++ p.reg 0x018
/-- The partition that holds a cluster, if an ACTIVE or RESIZING one does. -/
def State.partOfCluster (s : State) (cluster : Nat) : Option Nat :=
  (List.find? (fun (e : Nat × Part) => decide (e.2.state ≠ 0) && e.2.hasCluster cluster) s.parts).map (·.1)

/-! ## Registers (R46 to R48) -/

namespace Regs
def rg (r : Regs) (i : GIdx) : GReg := if i = 0 then GReg.zero else r.g[i.toNat]'(i.isLt)
def rv (r : Regs) (i : VIdx) : VReg := r.v[i.toNat]'(i.isLt)
def rp (r : Regs) (i : PIdx) : PReg := if i = 0 then ⟨BitVec.allOnes 64, false⟩ else r.p[i.toNat]'(i.isLt)
def re (r : Regs) (i : BitVec 3) : EReg := r.e[i.toNat]'(i.isLt)
def wg (r : Regs) (i : GIdx) (x : GReg) : Regs := if i = 0 then r else { r with g := r.g.set i.toNat x i.isLt }
def wv (r : Regs) (i : VIdx) (x : VReg) : Regs := { r with v := r.v.set i.toNat x i.isLt }
def wp (r : Regs) (i : PIdx) (x : PReg) : Regs := if i = 0 then r else { r with p := r.p.set i.toNat x i.isLt }
def we (r : Regs) (i : BitVec 3) (x : EReg) : Regs := { r with e := r.e.set i.toNat x i.isLt }
end Regs

/-- PCC at another address (R46, R52): its tag stays set, and its bounds stay as they are, also while the address lies outside the
representable region and the counts do not say them. -/
def Strand.setPc (m : Strand) (a : Dword) : Strand :=
  let from' : Cap := { m.pccFar.getD m.pcc with tag := true }
  let d := from'.move a
  { m with pcc := { d with tag := true }, pccFar := if d.tag then none else some from' }

/-- The strand's stage number; 0 outside a chain (R24). -/
def Strand.stage (m : Strand) : Nat := match m.chain with
  | some c => c.stage
  | none => 0

namespace State
def g (s : State) (i : GIdx) : GReg := s.me.regs.rg i
/-- Bits 63:0 of a g register (R46). -/
def x (s : State) (i : GIdx) : Dword := (s.g i).bits.extractLsb' 0 64
def p (s : State) (i : PIdx) : PReg := s.me.regs.rp i
def e (s : State) (i : BitVec 3) : Word := (s.me.regs.re i).bits
def eT (s : State) (i : BitVec 3) : Bool := (s.me.regs.re i).taint
def cap (s : State) (i : GIdx) : Cap := ⟨(s.g i).bits, (s.g i).tag⟩
def modRegs (s : State) (f : Regs → Regs) : State := { s with me := { s.me with regs := f s.me.regs } }
def modCsr (s : State) (f : Csr → Csr) : State := { s with me := { s.me with csr := f s.me.csr } }
def modCtr (s : State) (f : Counters → Counters) : State := { s with me := { s.me with ctr := f s.me.ctr } }
/-- Writes a g register whole. -/
def setG (s : State) (i : GIdx) (x : GReg) : State := s.modRegs (fun r => r.wg i x)
/-- Writes a g register with data: bits 127:64 zero, the tag clear (R46, R47). -/
def setX (s : State) (i : GIdx) (v : Dword) (taint : Bool) : State := s.setG i ⟨v.zeroExtend 128, false, taint⟩
def setCap (s : State) (i : GIdx) (c : Cap) (taint : Bool) : State := s.setG i ⟨c.bits, c.tag, taint⟩
def setP (s : State) (i : PIdx) (v : Dword) (taint : Bool) : State := s.modRegs (fun r => r.wp i ⟨v, taint⟩)
/-- The status predicate: all zeros for success, all ones for a condition (R46). -/
def setP7 (s : State) (ones : Bool) (taint : Bool) : State := s.setP 7 (if ones then BitVec.allOnes 64 else 0) taint
def setE (s : State) (i : BitVec 3) (v : Word) (taint : Bool) : State := s.modRegs (fun r => r.we i ⟨v, taint⟩)
def pc (s : State) : Dword := s.me.pcc.addr
/-- Whether the code may use supervisor instructions (R49, R162). -/
def sysMode (s : State) : Bool := s.me.pcc.permSys
/-- ORs flags into FFLG (R64). -/
def raiseFlags (s : State) (f : FFlags) : State := s.modCsr (fun c => { c with fflg := c.fflg ||| f })
def rm (s : State) : Rm := Rm.ofBits s.me.csr.frm
/-- One taint event (R150, R306): the sticky bit, and the count, which saturates. -/
def taintEvent (s : State) : State :=
  s.modCsr (fun c => { c with taintSticky := true, taintCount := if c.taintCount = BitVec.allOnes 32 then c.taintCount else c.taintCount + 1 })
/-- One event for each of `n`. -/
def taintEventIf (s : State) (b : Bool) : State := if b then s.taintEvent else s
/-- Moves the PC; PCC keeps its tag (R46, R52). -/
def setPc (s : State) (a : Dword) : State := s.modMe (·.setPc a)
/-- Past an instruction of `n` bytes. Inside a REP body the PC stays at REP, and the place in the body moves on, past the
body at last (R188). -/
def advance (s : State) (n : Nat) : State :=
  match s.me.rep with
  | none => s.setPc (s.pc + BitVec.ofNat 64 n)
  | some r =>
    if r.idx + 1 < r.body.length then s.modMe (fun m => { m with rep := some { r with idx := r.idx + 1 } })
    else if r.iter + 1 < r.count then s.modMe (fun m => { m with rep := some { r with idx := 0, iter := r.iter + 1 } })
    else (s.modMe (fun m => { m with rep := none })).setPc (s.pc + BitVec.ofNat 64 (4 + 4 * r.body.length))
/-- The context the strand's accesses are made under. -/
def ctx (s : State) : Ctx := ⟨s.me.csr.asid, s.me.csr.ptbr, s.sysMode, s.cur, s.myPart, s.dmode s.me.launch, BitVec.ofNat 4 s.me.stage⟩
end State

/-- The context of another slot's strand. -/
def State.ctxOf (s : State) (slot : Nat) : Ctx :=
  let m := s.strand slot
  ⟨m.csr.asid, m.csr.ptbr, m.pcc.permSys, slot, m.launch.part, s.dmode m.launch, BitVec.ofNat 4 m.stage⟩

/-! ## Fault and telemetry records -/

/-- Whether the queue slot of sequence number `seq` in a queue of 2^(LGN+6) slots is occupied (R401). -/
def State.slotHeld (s : State) (queue : Dword) (seq : Nat) : Bool :=
  (s.mem.byte ((queue.extractLsb' 12 36).toNat * 4096 + 64 * (seq % 2 ^ ((queue.extractLsb' 0 4).toNat + 6)) + 8)).getLsbD 0

/-- Whether 64 records already wait on chip because the queue is full (R337): the ring has no empty slots for all but the
last 63 of the records that are not placed yet. -/
def State.chipFull (s : State) (part : Nat) : Bool :=
  let p := s.part part
  let queue := p.reg 0x088
  let n := p.faults.length
  decide (64 ≤ n) && (decide (2 ^ ((queue.extractLsb' 0 4).toNat + 6) + 64 ≤ n) ||
    (List.range (n - 63)).any (fun k => s.slotHeld queue (p.faultSeq.toNat + k)))

/-- Posts a fault record to a partition's fault writer: a record without a parked strand beyond the 64 on chip is dropped and
counted, and so is one for a partition whose STATE is 0 (R337, R390). -/
def State.postFault (s : State) (part : Nat) (r : FaultRec) : State :=
  let p := s.part part
  if p.state = 0 ∨ (s.chipFull part = true ∧ r.parked = false) then s.count part 0x348 1
  else s.modPart part (fun q => { q with faults := q.faults ++ [(r, s.nowNat)] })

/-- Posts a record to the system fault queue (R308, R388). -/
def State.postSysFault (s : State) (part : Nat) (r : FaultRec) : State :=
  { s with sys := { s.sys with faults := s.sys.faults ++ [(r, s.nowNat, part)] } }

/-- The fault record of the strand at issue (R336). -/
def State.recordOf (s : State) (cause : BitVec 8) (addr tepc : Dword) (extra : Qword) (parked : Bool) : FaultRec where
  extra := extra
  tepc := tepc
  addr := addr
  time := s.nowNat
  asid := s.me.csr.asid
  stg := BitVec.ofNat 4 s.me.stage
  cause := cause
  src := s.strandSrc s.cur
  parked := parked

/-! ## Taking an exception (R307, R333 to R335) -/

/-- The user-handleable causes (R307). -/
def handleable (cause : BitVec 8) : Bool :=
  (decide (1 ≤ cause.toNat) && decide (cause.toNat ≤ 5)) || (decide (8 ≤ cause.toNat) && decide (cause.toNat ≤ 0x10))

/-- TRAPV's fields (R306). -/
def Csr.trapEn (c : Csr) : Bool := c.trapv.getLsbD 0
def Csr.sse (c : Csr) : Bool := c.trapv.getLsbD 48
/-- The handler's address, cat(HADDR, 0), a 48-bit address repeated into bits 63:48 as R49 asks (log entry 30). -/
def Csr.handler (c : Csr) : Dword := ((c.trapv.extractLsb' 1 47 ++ 0#1 : BitVec 48)).signExtend 64

/-- A REP stopped by a trap: REPI names the iteration and the body index (R189), and REP is no longer running. -/
def repiOf (r : Rep) : Dword :=
  1#1 ++ 0#4 ++ BitVec.ofNat 3 r.idx ++ BitVec.ofNat 28 r.count ++ BitVec.ofNat 28 r.iter

def Strand.stopRep (m : Strand) : Strand :=
  match m.rep with
  | some r => { m with rep := none, csr := { m.csr with repi := repiOf r } }
  | none => m

/-- Whether a word is RJOIN of a group (R190). -/
def isRjoin (w : Word) (gid : Nat) : Bool :=
  w.extractLsb' 4 7 == 0x26 && w.extractLsb' 29 3 == 2 && (w.extractLsb' 23 6).toNat == gid && w.getLsbD 0

/-- The leader's departure waits in the ring: the follower is no member any more (R190). -/
def Follow.gone (f : Follow) : Bool := f.stream.any (fun x => match x with
  | .leave _ => true
  | _ => false)

/-- A follower leaves its leader's stream and stays a member (R36), unless the stream it leaves says that the group has ended; an
RJOIN of the leader still in it has been missed (R37). -/
def Follow.off (f : Follow) : Option Follow :=
  if f.gone then none
  else some { f with
    attached := false
    stream := []
    missed := f.missed || f.stream.any (fun x => match x with
      | .insn _ w 4 _ _ => isRjoin w f.gid
      | _ => false) }

/-- An attached follower detaches. -/
def Strand.detach (m : Strand) : Strand :=
  match m.follow with
  | some f => if f.hop ≠ 0 ∧ f.attached = true then { m with follow := f.off } else m
  | none => m

/-- The record of another slot as a follower of the strand at issue, if it is one (R34). -/
def State.followerOf (s : State) (slot : Nat) (m : Strand) : Option Follow :=
  match s.me.follow, m.follow with
  | some f, some g =>
    if f.hop = 0 ∧ g.hop ≠ 0 ∧ g.leader = s.cur ∧ g.gid = f.gid ∧ g.gone = false ∧ clusterOfSlot slot = s.myCluster ∧ m.launch = s.me.launch then some g else none
  | _, _ => none

/-- Changes every follower of the strand at issue. -/
def State.mapFollowers (s : State) (f : Strand → Follow → Strand) : State :=
  match s.me.follow with
  | none => s
  | some _ => { s with others := s.others.map (fun e =>
      match s.followerOf e.1 e.2 with
      | some g => (e.1, f e.2 g)
      | none => e) }

/-- Sends something down the forwarding ring to the attached followers (R35). -/
def State.forward (s : State) (x : Forwarded) : State :=
  s.mapFollowers (fun m g => if g.attached then { m with follow := some { g with stream := g.stream ++ [x] } } else m)

/-- A follower that traps detaches first; a leader's trap hands the trapping instruction to its followers (R36). -/
def State.leaveStream (s : State) : State :=
  match s.me.follow with
  | none => s
  | some f =>
    if f.hop ≠ 0 then s.modMe Strand.detach
    else s.forward .detach

/-- A leader that stops ends the waits of the followers at RJOIN, which miss the join (R37). -/
def State.endJoins (s : State) : State :=
  if s.me.follow.any (fun f => f.hop == 0) then
    s.mapFollowers (fun m _ => match m.status, m.wait with
      | .waiting, some ⟨w, .join g true, since, _, x⟩ => { m with wait := some ⟨w, .join g true, since, true, x⟩ }
      | _, _ => m)
  else s

/-! ## Breaking handles (R291) -/

/-- The id of an entry (R289). -/
def HEntry.id (h : HEntry) (dev serial : Nat) : Dword :=
  BitVec.ofNat 8 dev ++ BitVec.ofNat 2 (h.slice / 32) ++ BitVec.ofNat 6 (h.slice % 32) ++ h.gen ++ BitVec.ofNat 40 serial

def HEntry.unresolved (h : HEntry) : Bool := h.state == .unbound || h.state == .bound

/-- The breakage sent on to the handle of an INVON whose upstream is broken. -/
def upstreamBreak (m : HMsg) (march slice : Nat) (origin : Dword) : List HMsg := match m.body with
  | .invon _ _ k => [⟨k, m.part, march, 0, slice / 2, .broke 5 0 0 origin, 0⟩]
  | _ => []

/-- An entry freed: the generation moves on and the serial goes to the end of the free list (R291, R292). -/
def Part.freeEntry (p : Part) (serial : Nat) (h : HEntry) : Part :=
  { p with
    entries := Table.set p.entries serial { h with state := .free, gen := h.gen + 1, drop := false, msgs := [], box := none, resp := none, value := GReg.zero }
    freed := p.freed ++ [serial] }

/-- The code of a state (R290). -/
def HState.code : HState → Nat
  | .free => 0
  | .unbound => 1
  | .bound => 2
  | .fulfilled => 3
  | .broken => 4

/-- An entry's 64 bytes in the backing area (R290). -/
def HEntry.image (h : HEntry) (src : Nat → Nat) : List Byte :=
  let record (m : Option HMsg) : Nat := (m.map (fun m => m.place.toNat)).getD 0
  toBytes 64 (2 ^ 448 * h.origin.toNat + 2 ^ 320 * h.value.bits.toNat + 2 ^ 319 * h.value.tag.toNat + 2 ^ 318 * h.value.taint.toNat +
    2 ^ 264 * (h.box.elim 0 (fun b => b.addr.toNat % 2 ^ 48)) + 2 ^ 240 * (h.resp.elim 0 (fun r => src r.1.slot)) +
    2 ^ 216 * (h.invk % 2 ^ 24) + 2 ^ 208 * h.cause.toNat + 2 ^ 200 * (h.reason % 256) + 2 ^ 168 * h.user.toNat +
    2 ^ 152 * (h.msgs.length % 2 ^ 16) + 2 ^ 136 * h.gen.toNat + 2 ^ 133 * h.state.code + 2 ^ 132 * h.drop.toNat +
    2 ^ 131 * h.xdev.toNat + 2 ^ 64 * record h.msgs.head? + record h.msgs.getLast?)

/-- Whether the slice that homes an entry keeps it on chip: it keeps the 4,096 of its entries in use with the least serials (R290, log
entry 76). -/
def Part.keepsEntry (p : Part) (serial : Nat) (h : HEntry) : Bool :=
  decide ((p.entries.filter (fun e => e.2.slice == h.slice && e.2.state != .free && decide (e.1 < serial))).length < 4096)

/-- The entry in use at a slice that exactly the 4,096 on chip go before, the first that the area holds. -/
def Part.pushedOff (p : Part) (slice : Nat) : Option (Nat × HEntry) :=
  let used := p.entries.filter (fun e => e.2.slice == slice && e.2.state != .free)
  used.find? (fun e => (used.filter (fun x => decide (x.1 < e.1))).length == 4096)

namespace State

/-- The backing area shows an entry that its slice does not keep on chip, and the one that it pushes off the chip (R290). -/
def backEntry (s : State) (pi serial : Nat) : State :=
  let p := s.part pi
  match Table.find? p.entries serial with
  | none => s
  | some h =>
    let put (m : Memory) (e : Nat × HEntry) : Memory :=
      m.store (((p.reg 0x050).extractLsb' 12 36).toNat * 4096 + 64 * e.1) (e.2.image s.strandSrc) false
    let own := if p.keepsEntry serial h then s.mem else put s.mem (serial, h)
    match p.pushedOff h.slice with
    | some e => { s with mem := put own e }
    | none => { s with mem := own }

/-- Changes an entry. -/
def setEntry (s : State) (pi serial : Nat) (h : HEntry) : State :=
  (s.modPart pi (fun p => { p with entries := Table.set p.entries serial h })).backEntry pi serial

/-- Frees an entry. -/
def freeEntry (s : State) (pi serial : Nat) (h : HEntry) : State :=
  (s.modPart pi (fun p => p.freeEntry serial h)).backEntry pi serial

/-- An unresolved entry breaks: its buffered INVONs break their handles, its buffered SENDHs are dropped and counted, and a
pending DROP frees it (R291). -/
def breakEntry (s : State) (pi serial : Nat) (h : HEntry) (reason : Nat) (cause : BitVec 8) (user : Word) (origin : Dword) : State :=
  let sends := (h.msgs.filter (fun m => match m.body with | .send _ => true | _ => false)).length
  let h' := { h with state := .broken, reason := reason, cause := cause, user := user, origin := origin, msgs := [] }
  let s1 := { s with hmsgs := s.hmsgs ++ h.msgs.flatMap (fun m => upstreamBreak m (s.srcNum 4 h.slice) h.slice origin) }
  let s2 := if sends = 0 then s1 else s1.count pi 0x358 sends
  if h.drop then s2.freeEntry pi serial h' else s2.setEntry pi serial h'

/-- Breaks the unresolved handles that a test of partition, serial and entry picks, each under its own id. -/
def breakHandles (s : State) (pick : Nat → Nat → HEntry → Bool) (reason : Nat) (cause : BitVec 8) : State :=
  s.parts.foldl (fun s (pi, p) =>
    p.entries.foldl (fun (s : State) (serial, h) =>
      if h.unresolved && pick pi serial h then s.breakEntry pi serial h reason cause 0 (h.id s.devId serial) else s) s) s

/-- Breaks the unresolved handles a strand is responsible for (R291, R298). -/
def breakHandlesOf (s : State) (o : Owner) (reason : Nat) (cause : BitVec 8) : State :=
  s.breakHandles (fun _ _ h => h.resp.any (fun r => decide (r.1 = o))) reason cause

end State

/-- Parking (R307, R335): the strand waits for the supervisor, its record is posted, and its handles break. -/
def State.park (s : State) (cause : BitVec 8) (tval : Dword) (extra : Qword) : State :=
  let m := s.me
  let s1 := (s.postFault s.myPart (s.recordOf cause tval s.pc extra true)).endJoins
  let s2 := s1.modMe (fun _ => { m with status := .parked, wait := none, resumed := false, parkCause := cause, sysPark := false })
  s2.breakHandlesOf s.me? 1 cause

/-- Taking an exception at the strand's current instruction: to its handler when the cause is handleable, EN = 1 and INH = 0,
else it parks (R307, R335). The five registers are the only ones that change. -/
def State.takeTrap (s : State) (cause : BitVec 8) (tval : Dword) (extra : Qword) : State :=
  let s := (s.leaveStream).modMe Strand.stopRep
  let c := s.me.csr
  if handleable cause && c.trapEn && !c.inh then
    (s.modMe (fun m => { m with
      status := .ready
      wait := none
      resumed := false
      csr := { m.csr with tcause := cause, tval := tval, tepc := s.pc, stg := BitVec.ofNat 4 m.stage, inh := true } })).setPc c.handler
  else s.park cause tval extra

/-- Returning from an exception (R308): PCC.ADDR := TEPC, INH := 0, REPI resumes under R189; an odd TEPC is misaligned and
INH stays 1. -/
def State.returnTrap (s : State) : Res State :=
  let t := s.me.csr.tepc
  if t.getLsbD 0 then trap 0x08 t
  else .ok ((s.modMe (fun m => { m with csr := { m.csr with inh := false }, resumed := true })).setPc t)

/-! ## From a result to an outcome -/

/-- Entering or keeping a wait (R32, R33): the wait record keeps its first-issue TIME. -/
def State.beginWait (s : State) (on : WaitOn) : State :=
  s.endJoins.modMe (fun m => { m with
    status := .waiting
    wait := some (match m.wait with
      | some w => { w with on := on, hit := false }
      | none => ⟨s.word, on, s.nowNat, false, false⟩) })

/-- Steps the counter of free values past the one a stopped instruction may have drawn (log entry 13). -/
def State.spent (s : State) : State := { s with draws := s.draws + 1 }

/-- An instruction has taken its effect: a wait it began and a resumption are over. -/
def State.retire (s : State) : State := { s.modMe (fun m => { m with wait := none, resumed := false }) with retired := true }

/-- The outcome of an instruction that sets its own PC. -/
def finish (s : State) (r : Res State) : Out :=
  match r with
  | .ok t => .next t.retire
  | .error (.trap c v x) => .next (s.spent.takeTrap c v x)
  | .error .stall => .next s.spent
  | .error (.wait on) => .next (s.spent.beginWait on)

/-- The outcome of an instruction of `n` bytes that falls through to the next one. -/
def fallThrough (n : Nat) (s : State) (r : Res State) : Out := finish s (r.map (fun t => t.advance n))

/-- The same for an instruction that may begin a wait with its effects so far kept. -/
def fallOrWait (n : Nat) (s : State) (r : Res (State × Option WaitOn)) : Out :=
  match r with
  | .ok (t, none) => fallThrough n s (.ok t)
  | .ok (t, some on) => .next (t.beginWait on)
  | .error e => finish s (.error e)

/-- The outcome of an event: the machine with the event applied, or unchanged when its occasion has not come. -/
def event (s : State) (r : Option State) : Out := .next (r.getD s)

end Sys2Proof.Machine
end

