-- ==== Sys2Proof/Machine/Flags.lean ====
section
/-!
DEFINITION. Condition codes (R159) and every floating operation at register width with the flags it raises (R60 to R66): the
instructions only choose one, round under FRM, and OR the flags into FFLG (R64).
-/
namespace Sys2Proof.Machine

/-- The integer condition codes (R159) on n-bit operands. -/
def intCond {n : Nat} (c : BitVec 3) (a b : BitVec n) : Bool :=
  match c.toNat with
  | 0 => a == b
  | 1 => a != b
  | 2 => a.slt b
  | 3 => !a.slt b
  | 4 => a.ult b
  | 5 => !a.ult b
  | 6 => (a &&& b) != 0
  | _ => (a &&& b) == 0

/-- All ones or all zeros: a scalar comparison's predicate (R171). -/
def ones64 (b : Bool) : Dword := if b then BitVec.allOnes 64 else 0

/-- A result of width n with its flags. -/
def fpOut (n : Nat) (r : Nat × FFlags) : BitVec n × FFlags := (BitVec.ofNat n r.1, r.2)

/-- The two-operand arithmetic of a format: F selects add, subtract, multiply, divide, minimum or maximum (R181). -/
inductive FpOp where
  | add | sub | mul | div | min' | max'
deriving DecidableEq, Repr

def fpBin (f : Fmt) (rm : Rm) (op : FpOp) (a b : Nat) : Nat × FFlags :=
  let x := Fl.ofPat f a
  let y := Fl.ofPat f b
  match op with
  | .add => addFl f rm x y
  | .sub => addFl f rm x y.neg
  | .mul => mulFl f rm x y
  | .div => divFl f rm x y
  | .min' => minMax f false a b
  | .max' => minMax f true a b

/-- Fused a × b + d, with the signs of the product and of d (R181, R209). -/
def fpFma (f : Fmt) (rm : Rm) (negProd negAdd : Bool) (a b d : Nat) : Nat × FFlags :=
  let x := Fl.ofPat f a
  let z := Fl.ofPat f d
  fmaFl f rm (if negProd then x.neg else x) (Fl.ofPat f b) (if negAdd then z.neg else z)

def fpSqrt (f : Fmt) (rm : Rm) (a : Nat) : Nat × FFlags := sqrtFl f rm (Fl.ofPat f a)

/-- Conversion of a pattern to a two's complement or unsigned integer of n bits (R65). -/
def fpToInt (f : Fmt) (rm : Rm) (n : Nat) (signed : Bool) (a : Nat) : BitVec n × FFlags :=
  let lo : Int := if signed then -(2 ^ (n - 1)) else 0
  let hi : Int := if signed then 2 ^ (n - 1) - 1 else 2 ^ n - 1
  let r := toIntFl rm lo hi (Fl.ofPat f a)
  (BitVec.ofInt n r.1, r.2)

end Sys2Proof.Machine
end

