-- ==== Sys2Proof/Machine/Mem.lean ====
section
/-!
DEFINITION. The L1 lines in front of memory (R124, R125), and the SRAM pages of the scratchpads (R121 to R123).
-/
namespace Sys2Proof.Machine

/-! ## L1 lines (R124, R125) -/

/-- A bit vector with one bit set or cleared. -/
def setBit {w : Nat} (v : BitVec w) (i : Nat) (b : Bool) : BitVec w :=
  if b then v ||| ((1#w) <<< i) else v &&& ~~~((1#w) <<< i)

/-- What a store of n bytes does to the record kept for a home (R56, R57): the sectors that stores have tainted, and those that an
untainted whole-sector store has cleared. -/
def sectorMarks {w : Nat} (a n : Nat) (taint : Bool) (m : BitVec w × BitVec w) : BitVec w × BitVec w :=
  (Memory.units a n 32).foldl (fun m k =>
    if taint then (setBit m.1 k true, m.2)
    else if a ≤ 32 * k ∧ 32 * k + 32 ≤ a + n then (setBit m.1 k false, setBit m.2 k true) else m) m

/-- The taint of a sector at its home once such stores have reached it (R57). -/
def sectorTaint (stained wiped home : Bool) : Bool := stained || (home && !wiped)

namespace Line

def empty : Line := ⟨0, 0, 0, 0, 0, 0, 0, 0⟩
def byte (l : Line) (i : Nat) : Byte := l.data.extractLsb' (8 * i) 8
def putByte (l : Line) (i : Nat) (b : Byte) : Line :=
  { l with data := (l.data &&& ~~~((255#1024) <<< (8 * i))) ||| ((b.zeroExtend 1024) <<< (8 * i)) }
def mask (i n : Nat) : BitVec 128 := BitVec.ofNat 128 ((2 ^ n - 1) * 2 ^ i)
def hasAll (l : Line) (i n : Nat) : Bool := (l.have' &&& mask i n) == mask i n
/-- Whether a sector reads as tainted: as fetched and as stored since (R56). -/
def taintOf (l : Line) (k : Nat) : Bool := sectorTaint (l.taint.getLsbD k) (l.wiped.getLsbD k) (l.seen.getLsbD k)
/-- Whether a read of n bytes consumes poison: a byte of a poisoned granule that no store has replaced (R119). -/
def poisoned (l : Line) (i n : Nat) : Bool :=
  (Memory.units i n 16).any l.bad.getLsbD && !((l.dirty &&& mask i n) == mask i n)

/-- The line with the taint of its sectors as their home has it now (R56). -/
def sample (m : Memory) (line : Nat) (l : Line) : Line :=
  { l with seen := (List.range 4).foldl (fun t k => setBit t k (m.taintAt (4 * line + k))) (0#4) }

/-- Brings the line's missing bytes from its home, dirty bytes kept over the fetched data (R124). -/
def fetch (m : Memory) (line : Nat) (l : Line) : Line :=
  let l1 := (List.range 128).foldl (fun l i => if l.dirty.getLsbD i then l else l.putByte i (m.byte (128 * line + i))) l
  let tags := (List.range 8).foldl (fun t g =>
    if l.dirty.extractLsb' (16 * g) 16 ≠ 0 then t else setBit t g (m.tagAt (8 * line + g))) l.tags
  let bad := (List.range 8).foldl (fun t g => setBit t g (m.poisonAt (8 * line + g))) (0#8)
  { l1.sample m line with have' := BitVec.allOnes 128, tags := tags, bad := bad }

/-- A store into the line (R124, R54, R56). -/
def store (l : Line) (i : Nat) (bs : List Byte) (taint : Bool) : Line :=
  let n := bs.length
  let l1 := (List.range n).foldl (fun l j => l.putByte (i + j) (bs.getD j 0)) l
  let tags := (Memory.units i n 16).foldl (fun t g => setBit t g false) l.tags
  let marks := sectorMarks i n taint (l.taint, l.wiped)
  { l1 with have' := l.have' ||| mask i n, dirty := l.dirty ||| mask i n, tags := tags, taint := marks.1, wiped := marks.2 }

/-- The line's dirty bytes at their home, with its tags and taint (R125). -/
def writeBack (m : Memory) (line : Nat) (l : Line) : Memory :=
  let m1 := (List.range 128).foldl (fun m i => if l.dirty.getLsbD i then m.putByte (128 * line + i) (l.byte i) else m) m
  let m2 := (List.range 8).foldl (fun m g =>
    if l.dirty.extractLsb' (16 * g) 16 ≠ 0 then m.putTag (8 * line + g) (l.tags.getLsbD g) else m) m1
  (List.range 4).foldl (fun m k =>
    if l.dirty.extractLsb' (32 * k) 32 ≠ 0 then
      m.putTaint (4 * line + k) (sectorTaint (l.taint.getLsbD k) (l.wiped.getLsbD k) (m.taintAt (4 * line + k)))
    else m) m2

/-- The line once its dirty bytes are at their home. -/
def clean (l : Line) : Line :=
  { l with dirty := 0, seen := (List.range 4).foldl (fun t k => setBit t k (l.taintOf k)) (0#4), taint := 0, wiped := 0 }

/-- What an acquire leaves of a line: its dirty bytes (R125), in sectors whose taint is what their home then has (R56). -/
def onlyDirty (m : Memory) (line : Nat) (l : Line) : Line := { l.sample m line with have' := l.dirty, bad := 0 }

end Line

/-! ## Words that strands watch (R204, R206) -/

namespace State

/-- The page of a core's ready ring, which is resident and pinned at all times (R327). -/
def ringPage (s : State) (c : Nat) : Page := ⟨0, 63, 0, (s.core c).ringBytes, 0, 0, 0, true, true, false, 12⟩

/-- The resident page of a core over a frame; page 63 is the ready ring's. -/
def findPage (s : State) (c page frame : Nat) : Option Page :=
  if page = 63 then some (s.ringPage c)
  else (s.core c).pages.find? (fun p => p.page == page && p.frame == frame)

/-- n bytes of a place as they stand at home: of a resident scratchpad page, else of its frame. -/
def homeNat (s : State) : Loc → Nat → Nat
  | .mem pa, n => s.mem.nat pa n
  | .scratch c page frame off, n =>
    match s.findPage c page frame with
    | some p => p.bytes.nat off n
    | none => s.mem.nat (frame + off) n
  | .host a, n => ofBytes (bytesGet 0 s.hostMem a n)
  | .mmio _, _ => 0

/-- Whether what a watching strand waits for holds at home now. -/
def watchHolds (s : State) : WaitOn → Bool
  | .word loc n cond operand _ _ => intCond cond (BitVec.ofNat 64 (s.homeNat loc n)) operand
  | .barrier loc phase => natBit (s.homeNat loc 16) 96 != phase
  | _ => false

def markHit (s : State) (m : Strand) : Strand :=
  match m.status, m.wait with
  | .waiting, some w => if !w.hit && s.watchHolds w.on then { m with wait := some { w with hit := true } } else m
  | _, _ => m

/-- After a write is served at home, every strand that watches a word sees whether its condition holds (R204). -/
def notice (s : State) : State :=
  if s.me.wait.isNone && s.others.all (fun e => e.2.wait.isNone) then s
  else { s with me := s.markHit s.me, others := s.others.map (fun e => (e.1, s.markHit e.2)) }

/-- A line of a core's L1; one that is not there has no bytes yet, and its sectors' taint is that of their home (R56). -/
def lineOf (s : State) (c line : Nat) : Line := Table.getD (s.core c).lines line (Line.empty.sample s.mem line)

/-- A release as far as the homes: every dirty line of the core is written back and stays clean (R125). -/
def flushCore (s : State) (c : Nat) : State :=
  let k := s.core c
  if k.lines.isEmpty then s
  else
    State.notice { s with
      mem := k.lines.foldl (fun m e => Line.writeBack m e.1 e.2) s.mem
      cores := Table.set s.cores c { k with lines := k.lines.map (fun e => (e.1, e.2.clean)) } }

/-- An acquire: the core's clean bytes are dropped, dirty bytes kept, and its instruction lines with them (R125, R164). -/
def dropClean (s : State) (c : Nat) : State :=
  let k := s.core c
  if k.lines.isEmpty && k.ilines.isEmpty then s
  else
    { s with cores := Table.set s.cores c { k with
        lines := (k.lines.filter (fun e => decide (e.2.dirty ≠ 0))).map (fun e => (e.1, e.2.onlyDirty s.mem e.1))
        ilines := [] } }

/-- One line written back and dropped: an eviction (R125). -/
def evictLine (s : State) (c line : Nat) : State :=
  match Table.find? (s.core c).lines line with
  | none => s
  | some l => State.notice { s with
      mem := Line.writeBack s.mem line l
      cores := Table.modify s.cores c Core.fresh (fun k => { k with lines := Table.erase k.lines line }) }

/-- Puts a line into a core's L1. The 64 KiB hold 512 lines (R7): a new one in a full cache replaces the oldest (log entry 106). -/
def setLine (s : State) (c line : Nat) (l : Line) : State :=
  let ls := (s.core c).lines
  let s1 := if ls.length < 512 ∨ (Table.find? ls line).isSome = true then s
    else match ls.head? with
      | some e => s.evictLine c e.1
      | none => s
  s1.modCore c (fun k => { k with lines := Table.set k.lines line l })

/-- A load of n bytes of memory within one line, through the core's L1 (R124): the bytes, their taint, whether a poisoned
unit was consumed, and the tag of the first granule. -/
def l1Load (s : State) (c pa n : Nat) : List Byte × Bool × Bool × Bool × State :=
  let line := pa / 128
  let i := pa % 128
  let l := s.lineOf c line
  let hit := l.hasAll i n
  let l' := if hit then l else Line.fetch s.mem line l
  let s' := if hit then s else s.setLine c line l'
  (tabulate n (fun j => l'.byte (i + j)), (Memory.units i n 32).any l'.taintOf, l'.poisoned i n, l'.tags.getLsbD (i / 16), s')

/-- A store of bytes within one line, through the core's L1 (R124). -/
def l1Store (s : State) (c pa : Nat) (bs : List Byte) (taint : Bool) : State :=
  let line := pa / 128
  s.setLine c line ((s.lineOf c line).store (pa % 128) bs taint)

/-- A 16-B store with a tag, through the core's L1. -/
def l1StoreCap (s : State) (c pa : Nat) (bits : Qword) (tag taint : Bool) : State :=
  let line := pa / 128
  let l := (s.lineOf c line).store (pa % 128) (toBytes 16 bits.toNat) taint
  s.setLine c line { l with tags := setBit l.tags (pa % 128 / 16) tag }

end State

/-- Pieces of n bytes at a that stay within `size`-byte units: address, offset from the start, length. -/
def splitAt (size : Nat) : Nat → Nat → Nat → Nat → List (Nat × Nat × Nat)
  | 0, _, _, _ => []
  | fuel + 1, a, off, n =>
    if n = 0 then []
    else
      let k := min n (size - a % size)
      (a, off, k) :: splitAt size fuel (a + k) (off + k) (n - k)

/-! ## Scratchpad pages (R121 to R123) -/

namespace State

/-- A drain: the bytes dirtied since the fill, with their tags and taint, at the frame's home; the page stays (R122, R123). A granule
that is written whole and good, as SSET leaves a poisoned one, is good at its frame (R99). -/
def drainPage (s : State) (pg : Page) : State :=
  let m1 := (List.range 4096).foldl (fun m i => if pg.dirty.getLsbD i then m.putByte (pg.frame + i) (pg.bytes.byte i) else m) s.mem
  let m2 := (List.range 256).foldl (fun m g =>
    if pg.dirty.extractLsb' (16 * g) 16 ≠ 0 then m.putTag (pg.frame / 16 + g) (pg.bytes.tagAt g) else m) m1
  let m3 := (List.range 128).foldl (fun m k =>
    if pg.dirty.extractLsb' (32 * k) 32 ≠ 0 then
      m.putTaint (pg.frame / 32 + k) (sectorTaint (pg.stained.getLsbD k) (pg.wiped.getLsbD k) (m.taintAt (pg.frame / 32 + k)))
    else m) m2
  let m4 := (List.range 256).foldl (fun m g =>
    if pg.dirty.extractLsb' (16 * g) 16 = BitVec.allOnes 16 ∧ pg.bytes.poisonAt g = false then m.putPoison (pg.frame / 16 + g) false else m) m3
  if pg.dirty = 0 then s else State.notice { s with mem := m4 }

/-- The 4 KiB of a frame as they stand at the fill (R123). -/
def frameBytes (m : Memory) (frame : Nat) : Memory where
  cells := (m.cells.filter (fun c => decide (frame ≤ c.1) && decide (c.1 < frame + 4096))).map (fun c => (c.1 - frame, c.2))
  tags := (m.tags.filter (fun g => decide (frame ≤ 16 * g) && decide (16 * g < frame + 4096))).map (· - frame / 16)
  taints := (m.taints.filter (fun k => decide (frame ≤ 32 * k) && decide (32 * k < frame + 4096))).map (· - frame / 32)
  poison := (m.poison.filter (fun k => decide (frame ≤ 16 * k) && decide (16 * k < frame + 4096))).map (· - frame / 16)

/-- The page slots of a core: one is the ready ring's while a partition holds the core (R121, R327). -/
def pageSlots (s : State) (c : Nat) : Nat := if (s.partOfCluster (clusterOfCore c)).isSome then 63 else 64

/-- The least recently used page that is not pinned, pages being kept most recently used first. -/
def victim (ps : List Page) : Option Page := (ps.filter (fun p => !p.pinned && !p.explicit)).getLast?

/-- The scope records of a page's blocks go when the page leaves its slot (R139). -/
def dropScopes (s : State) (c : Nat) (pg : Page) : State :=
  { s with scopes := s.scopes.filter (fun e => match e.1 with
    | .scratch c' page frame _ => !(c' == c && page == pg.page && frame == pg.frame)
    | _ => true) }

/-- Makes a page resident and pinned and the most recently used (R121). `none`: every slot of the core is pinned. -/
def touchPage (s : State) (c : Nat) (asid : BitVec 16) (page frame : Nat) (global : Bool) (leaf : Nat) : Option State :=
  if page = 63 then some s else
  let ps := (s.core c).pages
  let others := ps.filter (fun p => !(decide (p.asid = asid) && p.page == page && p.frame == frame))
  match ps.find? (fun p => decide (p.asid = asid) && p.page == page && p.frame == frame) with
  | some p => some (s.modCore c (fun k => { k with pages := { p with pinned := true } :: others }))
  | none =>
    let fill (s : State) (rest : List Page) : State :=
      let new : Page := ⟨asid, page, frame, frameBytes s.mem frame, 0, 0, 0, true, false, global, leaf⟩
      s.modCore c (fun k => { k with pages := new :: rest })
    if ps.length < s.pageSlots c then some (fill s ps)
    else
      match victim ps with
      | none => none
      | some v => some (fill ((s.drainPage v).dropScopes c v) (ps.filter (fun p => decide (p ≠ v))))

/-- Changes the first page, in order of use, that stands over a frame. -/
def modFirst (page frame : Nat) (f : Page → Page) : List Page → List Page
  | [] => []
  | p :: rest => if p.page = page ∧ p.frame = frame then f p :: rest else p :: modFirst page frame f rest

def modPage (s : State) (c page frame : Nat) (f : Page → Page) : State :=
  if page = 63 then s.modCore c (fun k => { k with ringBytes := (f (s.ringPage c)).bytes })
  else s.modCore c (fun k => { k with pages := modFirst page frame f k.pages })

end State

/-- A page that n bytes have been stored into: they are dirty, and their sectors are marked. -/
def Page.mark (p : Page) (off n : Nat) (taint : Bool) : Page :=
  let marks := sectorMarks off n taint (p.stained, p.wiped)
  { p with dirty := p.dirty ||| BitVec.ofNat 4096 ((2 ^ n - 1) * 2 ^ off), stained := marks.1, wiped := marks.2 }

/-- Stores into a resident page. -/
def Page.store (p : Page) (off : Nat) (bs : List Byte) (taint : Bool) : Page :=
  { p.mark off bs.length taint with bytes := p.bytes.store off bs taint }

def Page.storeCap (p : Page) (off : Nat) (bits : Qword) (tag taint : Bool) : Page :=
  { p.mark off 16 taint with bytes := p.bytes.storeCap off bits tag taint }

/-- A page one of whose sectors an engine has covered whole, untainted (R56, R235). -/
def Page.clearSector (p : Page) (k : Nat) : Page :=
  { p with bytes := p.bytes.putTaint k false, stained := setBit p.stained k false, wiped := setBit p.wiped k true }

/-- A page whose dirty bytes are at its frame. -/
def Page.drained (p : Page) : Page := { p with dirty := 0, stained := 0, wiped := 0 }

end Sys2Proof.Machine
end

