-- ==== Sys2Proof/Machine/Mmio.lean ====
section
/-!
DEFINITION. What a read of the MMIO map returns (R383, R387 to R389, R404, R419 to R423, R442).
-/
namespace Sys2Proof.Machine

/-- A partition block register as the host reads it (R389, R392, R404, R419). Write-only registers read zero. -/
def State.blockRead (s : State) (pi off : Nat) : Dword :=
  let p := s.part pi
  if off = 0x000 then BitVec.ofNat 64 (p.state + 0x10000 * p.outcome.toNat)
  else if off = 0x010 then p.bitmap
  else if off = 0x040 then 0
  else if off = 0x0A8 then BitVec.ofBool p.layBusy ++ p.layResult ++ p.layCmd.extractLsb' 0 56
  else if off = 0x0B0 then BitVec.ofBool p.rszBusy ++ p.rszResult ++ (p.reg 0x0B0).extractLsb' 0 56
  else if off = 0x0E0 then BitVec.ofNat 64 (2 * p.areqDone.toNat + 4 * p.areqBusy.toNat)
  else if 0x300 ≤ off ∧ off < 0x368 then p.counters.getD off 0
  else if 0x1000 ≤ off then BitVec.ofNat 64 (ofBytes ((p.report.drop (off - 0x1000)).take 8))
  else p.reg off

/-- BOOTST (R383). -/
def Sys.bootst (y : Sys) : Dword := BitVec.ofNat 64 (y.detail * 65536 + y.reason * 256 + y.stage * 4 + y.result)

/-- THR (R421). -/
def Sys.thr (y : Sys) : Dword :=
  BitVec.ofNat 64 ((decide (y.mhz < 1400)).toNat + 2 * y.held.toNat + 4 * (!y.powered).toNat)

/-- TEMP0 to TEMP4, and PWR as number 5: what the sensors read now (R421), zero until boot has begun (log entry 128). -/
def State.sensorRead (s : State) (k : Nat) : Dword :=
  if s.sys.stage = 0 then 0 else ((BitVec.ofNat 16 (Config.sensor s.time.toNat k)) : BitVec 16).setWidth 64

/-- A global block register as the host reads it (R383, R388, R420, R421, R423, R442). -/
def State.globalRead (s : State) (off : Nat) : Dword :=
  if off = 0x0000 then s.sys.bootst
  else if 0x0100 ≤ off ∧ off ≤ 0x0128 then s.sensorRead ((off - 0x0100) / 8)
  else if off = 0x0130 then BitVec.ofNat 64 s.sys.mhz
  else if off = 0x0138 then s.sys.thr
  else if off = 0x0068 then 0
  else s.sys.regs.getD off 0

/-- A doubleword of the MMIO map by local address, at its aligned place; the reserved range reads zero (R387). -/
def State.mmioRead (s : State) (addr : Nat) : Dword :=
  let x := addr / 8 * 8 - 0xF000000000
  if x < 0x10000 then s.globalRead x
  else if x < 0x410000 then s.blockRead ((x - 0x10000) / 0x10000) ((x - 0x10000) % 0x10000)
  else 0

end Sys2Proof.Machine
end

