-- ==== Sys2Proof/Machine/Translate.lean ====
section
/-!
DEFINITION. Translation (R113 to R120, R395 to R400): the walk, the cached leaves, the leaf checks, the fate of an access by
where its address lies, and reads and writes of a translated place.
-/
namespace Sys2Proof.Machine

/-- The kinds of access a leaf governs (R397, R115). -/
inductive Acc where
  | fetch | load | store | amo | red | stateRead | stateOp | capLoad | capStore | engineRead | engineWrite | clean | inval
deriving DecidableEq, Repr

def Acc.writes : Acc → Bool
  | .store | .amo | .red | .stateOp | .capStore | .engineWrite => true
  | _ => false

/-! A page-table entry's fields (R395). -/
namespace Pte
def v (p : Dword) : Bool := p.getLsbD 0
def r (p : Dword) : Bool := p.getLsbD 1
def w (p : Dword) : Bool := p.getLsbD 2
def x (p : Dword) : Bool := p.getLsbD 3
def u (p : Dword) : Bool := p.getLsbD 4
def g (p : Dword) : Bool := p.getLsbD 5
def c (p : Dword) : Bool := p.getLsbD 6
def m (p : Dword) : Bool := p.getLsbD 7
def big (p : Dword) : Bool := p.getLsbD 8
def dg (p : Dword) : Bool := p.getLsbD 9
def frame (p : Dword) : Nat := (p.extractLsb' 12 36).toNat * 4096
def reserved (p : Dword) : Bool := p.extractLsb' 48 16 != 0 || p.extractLsb' 10 2 != 0
/-- Any of R, W, X, U, G, C, M, DG: none may be set in a table entry that is no leaf (R396). -/
def anyLeafBit (p : Dword) : Bool := r p || w p || x p || u p || g p || c p || m p || dg p
end Pte

/-- A fault of a walk: its cause and the entry as walked, or 0 (R334). -/
abbrev WalkFault := BitVec 8 × Dword

/-- Whether a local physical address lies in a layer present in the partition (R115, R396). -/
def State.layerPresent (s : State) (part pa : Nat) : Bool :=
  natBits pa 47 40 == s.devId && decide (natBits pa 39 32 ≤ 0x8F) &&
  (s.part part).layers.getLsbD (natBits pa 39 32) && s.sys.layers.getLsbD (natBits pa 39 32)

/-- The leaf a walk returns (R396): the log of its size, or a fault. -/
def leafOf (s : State) (part lvl : Nat) (pte : Dword) : Except WalkFault (Nat × Dword) :=
  let size := match lvl, Pte.big pte with
    | 1, true => some 30
    | 2, true => some 21
    | 3, false => some 12
    | 3, true => some 16
    | _, _ => none
  match size with
  | none => .error (0x06, pte)
  | some n =>
    if Pte.frame pte % 2 ^ n ≠ 0 then .error (0x06, pte)
    else
      let f := Pte.frame pte
      let layer := natBits f 39 32
      if natBits f 47 40 = s.devId ∧ layer < 0xC0 ∧ s.layerPresent part f = false then .error (0x12, 0)
      else .ok (n, pte)

/-- The walk from level `lvl` with table `t` (R396); `fuel` is the number of levels left. -/
def walkFrom (s : State) (part va : Nat) : Nat → Nat → Nat → Except WalkFault (Nat × Dword)
  | 0, _, _ => .error (0x06, 0)
  | fuel + 1, lvl, t =>
    if s.layerPresent part t = false then .error (0x12, 0)
    else
      let at' := t + 8 * natBits va (47 - 9 * lvl) (39 - 9 * lvl)
      if s.mem.anyPoison at' 8 then .error (0x13, 0)
      else
        let pte : Dword := BitVec.ofNat 64 (s.mem.nat at' 8)
        if !Pte.v pte || Pte.reserved pte then .error (0x06, pte)
        else if lvl = 3 ∨ Pte.big pte = true then leafOf s part lvl pte
        else if Pte.anyLeafBit pte then .error (0x06, pte)
        else walkFrom s part va fuel (lvl + 1) (Pte.frame pte)

/-- Walk(va) under a root (R396). -/
def State.walk (s : State) (c : Ctx) (va : Nat) : Except WalkFault (Nat × Dword) :=
  walkFrom s c.part va 4 0 (c.root.toNat * 4096)

def TlbEntry.covers (e : TlbEntry) (asid : BitVec 16) (va : Nat) : Bool :=
  (decide (e.asid = asid) || Pte.g e.pte) && va / 2 ^ e.size == e.va / 2 ^ e.size

/-- The leaf that translates an address (R399, R400): the core's TLB, then the cluster's, then a walk at the homes, which
fills both. The oldest entry leaves a full TLB (log entry 15). -/
def State.leaf (s : State) (c : Ctx) (va : Nat) : Except WalkFault (Nat × Dword × State) :=
  let core := coreOfSlot c.slot
  let cl := clusterOfSlot c.slot
  match (s.core core).tlb.find? (fun e => e.covers c.asid va) with
  | some e => .ok (e.size, e.pte, s)
  | none =>
    let l2 := Table.getD s.l2tlb cl []
    match l2.find? (fun e => e.covers c.asid va) with
    | some e => .ok (e.size, e.pte, s.modCore core (fun k => { k with tlb := (e :: k.tlb).take 96 }))
    | none =>
      match s.walk c va with
      | .error f => .error f
      | .ok (n, pte) =>
        let e : TlbEntry := ⟨c.asid, va / 2 ^ n * 2 ^ n, n, pte⟩
        let s1 := s.modCore core (fun k => { k with tlb := (e :: k.tlb).take 96 })
        .ok (n, pte, { s1 with l2tlb := Table.set s1.l2tlb cl ((e :: l2).take 4096) })

/-- The leaf checks of R397, in their order. -/
def leafAllows (c : Ctx) (a : Acc) (tagged : Bool) (pte : Dword) : Bool :=
  (c.sys || Pte.u pte) &&
  (match a with
   | .fetch => Pte.x pte
   | .load | .capLoad | .engineRead | .stateRead | .clean => Pte.r pte
   | .amo => Pte.r pte && Pte.w pte
   | .stateOp => Pte.w pte
   | .store | .red | .capStore | .engineWrite | .inval => Pte.w pte) &&
  (!(a == .capStore && tagged) || Pte.c pte)

/-- A translated access: the place, the leaf it went through, and the log of the leaf's size. -/
structure Trans where
  loc : Loc
  pte : Dword
  size : Nat
deriving DecidableEq, Repr

/-- The physical address a leaf gives (R396). -/
def leafAddr (size : Nat) (pte : Dword) (va : Nat) : Nat := Pte.frame pte / 2 ^ size * 2 ^ size + va % 2 ^ size

/-- The fate of a physical address outside the scratchpads (R115, R387, R389, R394). No engine reaches MMIO (R235). A kind of access
that no host window takes has cause 0x07 whether or not the unit is mapped (log entry 107). -/
def State.placeOf (s : State) (c : Ctx) (a : Acc) (va : Dword) (pa : Nat) (pte : Dword) : Res Loc :=
  let dev := natBits pa 47 40
  let layer := natBits pa 39 32
  let special := match a with
    | .amo | .red | .stateRead | .stateOp | .capLoad | .capStore => true
    | _ => false
  if dev ≥ 192 then trap 0x12 va
  else if dev ≠ s.devId then
    let dset := ((s.part c.part).reg 0x030).extractLsb' 8 8
    let admitted := dset != 0 && Config.peerHolds dev dset.toNat
    if layer ≤ 0x8F then (if admitted && Config.peerLayer dev layer then .ok (.mem pa) else trap 0x12 va)
    else if layer < 0xC0 then trap 0x12 va
    else if special = true ∨ 0xF0 ≤ layer then trapX 0x07 va (pte.zeroExtend 128)
    else if admitted && Config.peerWindow dev (layer - 0xC0) then .ok (.host (2 ^ 64 + pa)) else trap 0x12 va
  else if layer ≤ 0x8F then if s.layerPresent c.part pa then .ok (.mem pa) else trap 0x12 va
  else if layer < 0xC0 then trap 0x12 va
  else if layer ≤ 0xEF then
    let unit := (s.part c.part).reg (0x100 + 8 * (layer - 0xC0))
    if special then trapX 0x07 va (pte.zeroExtend 128)
    else if !unit.getLsbD 0 then trap 0x12 va
    else .ok (.host ((unit.extractLsb' 32 32).toNat * 2 ^ 32 + pa % 2 ^ 32))
  else
    let loc := pa % 2 ^ 40
    let base := 0xF000010000 + 0x10000 * c.part
    if special || a == .engineRead || a == .engineWrite || !c.sys || decide (loc < base) || decide (base + 0x10000 ≤ loc) then trapX 0x07 va (pte.zeroExtend 128)
    else .ok (.mmio loc)

/-- The place of an access at `va` (R113 to R120, R396, R397). A store to a page with M = 1 stalls (R144). A window page over anything
but memory has cause 0x07 (log entry 107). -/
def State.locate (s : State) (c : Ctx) (a : Acc) (tagged : Bool) (va : Dword) : Res (Trans × State) :=
  let n := va.toNat
  let inWindow := inScratchRange n
  let core := (n - 0x7F0000000000) / 0x100000
  let woff := (n - 0x7F0000000000) % 0x100000
  if inWindow = true ∧ (2048 ≤ core ∨ 0x40000 ≤ woff) then trap 0x12 va
  else if inWindow = true ∧ clusterOfCore core ≠ clusterOfSlot c.slot then trap 0x07 va
  else if inWindow = true ∧ 0x3F000 ≤ woff ∧ c.sys = false then trap 0x07 va
  else
    match s.leaf c (n % 2 ^ 48) with
    | .error (cause, pte) => trapX cause va (pte.zeroExtend 128)
    | .ok (size, pte, s1) =>
      if leafAllows c a tagged pte = false then trapX 0x07 va (pte.zeroExtend 128)
      else
        let pa := leafAddr size pte (n % 2 ^ 48)
        match s1.placeOf c a va pa pte with
        | .error e => .error e
        | .ok loc =>
          if a.writes = true ∧ Pte.m pte = true then stall
          else if inWindow then
            match loc with
            | .mem p =>
              .ok (⟨.scratch core (woff / 4096) (p / 4096 * 4096) (woff % 4096), pte, size⟩, s1)
            | _ => trapX 0x07 va (pte.zeroExtend 128)
          else .ok (⟨loc, pte, size⟩, s1)

/-- Translation of an access at `va`: its place, a scratchpad page made resident and pinned (R121). The access stalls while every slot
of the core is pinned. -/
def State.translate (s : State) (c : Ctx) (a : Acc) (tagged : Bool) (va : Dword) : Res (Trans × State) :=
  match s.locate c a tagged va with
  | .error e => .error e
  | .ok (t, s1) =>
    match t.loc with
    | .scratch core page frame _ =>
      match s1.touchPage core c.asid page frame (Pte.g t.pte) t.size with
      | some s2 => .ok (t, s2)
      | none => stall
    | _ => .ok (t, s1)

/-! ## Reads and writes of a place -/

/-- What a read brings. -/
structure Got where
  bytes : List Byte
  taint : Bool
  tag : Bool
deriving DecidableEq, Repr

def Got.nat (g : Got) : Nat := ofBytes g.bytes

/-- n bytes of the MMIO map, each of the register it lies in (R387). -/
def State.mmioBytes (s : State) (a n : Nat) : List Byte :=
  tabulate n (fun i => (s.mmioRead (a + i)).extractLsb' (8 * ((a + i) % 8)) 8)

/-- A read by a strand of n bytes at a place, within one line (R124, R120, R115). Poison is reported when consumed (R119). -/
def State.readLoc (s : State) (c : Ctx) (loc : Loc) (va : Dword) (n : Nat) : Res (Got × State) :=
  match loc with
  | .mem pa =>
    let (bs, t, bad, tag, s') := s.l1Load (coreOfSlot c.slot) pa n
    if bad then trap 0x13 va else .ok (⟨bs, t, tag⟩, s')
  | .scratch core page frame off =>
    match s.findPage core page frame with
    | none => stall
    | some p =>
      if p.bytes.anyPoison off n then trap 0x13 va
      else .ok (⟨p.bytes.bytes off n, p.bytes.anyTaint off n, p.bytes.tagAt (off / 16)⟩, s)
  | .host a => .ok (⟨bytesGet 0 s.hostMem a n, false, false⟩, s)
  | .mmio a => .ok (⟨s.mmioBytes a n, false, false⟩, s)

/-- A store by a strand of bytes at a place, within one line. A tainted value stored where no taint is kept counts as a taint
event (R56). -/
def State.writeLoc (s : State) (c : Ctx) (loc : Loc) (bs : List Byte) (taint : Bool) : State :=
  match loc with
  | .mem pa => s.l1Store (coreOfSlot c.slot) pa bs taint
  | .scratch core page frame off => (s.modPage core page frame (fun p => p.store off bs taint)).notice
  | .host a => State.notice { s with hostMem := bytesSet 0 s.hostMem a bs }
  | .mmio a => { s with posted := s.posted ++ [⟨c.part, (a - 0xF000010000) % 0x10000, bs, s.strandSrc c.slot⟩] }

/-- A 16-B store with a tag by a strand (R54). -/
def State.writeCapLoc (s : State) (c : Ctx) (loc : Loc) (bits : Qword) (tag taint : Bool) : State :=
  match loc with
  | .mem pa => s.l1StoreCap (coreOfSlot c.slot) pa bits tag taint
  | .scratch core page frame off => (s.modPage core page frame (fun p => p.storeCap off bits tag taint)).notice
  | .host a => State.notice { s with hostMem := bytesSet 0 s.hostMem a (toBytes 16 bits.toNat) }
  | .mmio _ => s

/-- A read at the home by an engine or a unit of the device, past L1 (R87, R118). -/
def State.readHome (s : State) (loc : Loc) (n : Nat) : Option Got :=
  match loc with
  | .mem pa => if s.mem.anyPoison pa n then none else some ⟨s.mem.bytes pa n, s.mem.anyTaint pa n, s.mem.tagAt (pa / 16)⟩
  | .scratch core page frame off =>
    match s.findPage core page frame with
    | none =>
      if s.mem.anyPoison (frame + off) n then none
      else some ⟨s.mem.bytes (frame + off) n, s.mem.anyTaint (frame + off) n, s.mem.tagAt ((frame + off) / 16)⟩
    | some p => if p.bytes.anyPoison off n then none else some ⟨p.bytes.bytes off n, p.bytes.anyTaint off n, p.bytes.tagAt (off / 16)⟩
  | .host a => some ⟨bytesGet 0 s.hostMem a n, false, false⟩
  | .mmio a => some ⟨s.mmioBytes a n, false, false⟩

/-- A write at the home by an engine or a unit of the device. -/
def State.writeHome (s : State) (loc : Loc) (bs : List Byte) (taint : Bool) : State :=
  match loc with
  | .mem pa => State.notice { s with mem := s.mem.store pa bs taint }
  | .scratch core page frame off =>
    match s.findPage core page frame with
    | none => State.notice { s with mem := s.mem.store (frame + off) bs taint }
    | some _ => (s.modPage core page frame (fun p => p.store off bs taint)).notice
  | .host a => State.notice { s with hostMem := bytesSet 0 s.hostMem a bs }
  | .mmio _ => s

def State.writeCapHome (s : State) (loc : Loc) (bits : Qword) (tag taint : Bool) : State :=
  match loc with
  | .mem pa => State.notice { s with mem := s.mem.storeCap pa bits tag taint }
  | .scratch core page frame off =>
    match s.findPage core page frame with
    | none => State.notice { s with mem := s.mem.storeCap (frame + off) bits tag taint }
    | some _ => (s.modPage core page frame (fun p => p.storeCap off bits tag taint)).notice
  | .host a => State.notice { s with hostMem := bytesSet 0 s.hostMem a (toBytes 16 bits.toNat) }
  | .mmio _ => s

end Sys2Proof.Machine
end

