-- ==== Sys2Proof/Machine/Operands.lean ====
section
/-!
DEFINITION. The operand forms the classes share: capability checks that trap (R53, R195), reductions on their way (R126 to
R128), release and acquire (R125, R137), the scope checker (R139, R140), the outstanding counters (R198), checked loads and
stores, v registers with their streams (R207 to R209, R245, R246), and the push to an engine (R44).
-/
namespace Sys2Proof.Machine

/-! ## Capability checks -/

/-- EXTRA of a capability trap: capability bits 127:64; none for a misaligned address (R334). -/
def capTrap {α : Type} (c : Cap) (cause : BitVec 8) (a : Dword) : Res α :=
  if cause = 0x08 then trap cause a else trapX cause a ((c.bits.extractLsb' 64 64).setWidth 128)

/-- CapCheck at an address computed exactly (R53, R195): one outside 64 bits lies outside every bound. -/
def capCheckAt (c : Cap) (kinds : List Nat) (need : Need) (a : Int) (n align : Nat) : Res Dword :=
  let v : Dword := BitVec.ofInt 64 a
  if 0 ≤ a ∧ a < 2 ^ 64 then
    match c.check kinds need v n align with
    | some cause => capTrap c cause v
    | none => .ok v
  else capTrap c ((c.check kinds need 0 0 1).getD 0x02) v

/-- The exact sum of a capability's address and an offset. -/
def Cap.plus (c : Cap) (off : Int) : Int := (c.addr.toNat : Int) + off

/-! ## Counters (R198) -/

namespace State

def raiseL (s : State) : Res State := if 255 ≤ s.me.ctr.l then stall else .ok (s.modCtr (fun c => { c with l := c.l + 1 }))
def raiseS (s : State) : Res State := if 255 ≤ s.me.ctr.s then stall else .ok (s.modCtr (fun c => { c with s := c.s + 1 }))
def raiseC (s : State) : Res State := if 255 ≤ s.me.ctr.c then stall else .ok (s.modCtr (fun c => { c with c := c.c + 1 }))
def raiseT (s : State) : Res State := if 255 ≤ s.me.ctr.t then stall else .ok (s.modCtr (fun c => { c with t := c.t + 1 }))

/-- Whether the strand that an owner names still occupies its slot. -/
def alive (s : State) (o : Owner) : Bool :=
  let m := s.strand o.slot
  m.status != .free && m.born == o.born
/-- Lowers a counter of a strand, if it still exists. -/
def lower (s : State) (o : Owner) (f : Counters → Counters) : State :=
  if s.alive o then s.modStrand o.slot (fun m => { m with ctr := f m.ctr }) else s

end State

/-! ## Reductions (R126 to R128, R145, R202) -/

/-- The new value of an n-bit word under an operation (R201, R202): the floating adds round to nearest even. -/
def redNew (op : RedOp) (n : Nat) (signed : Bool) (old v : Nat) : Nat :=
  let a : BitVec n := BitVec.ofNat n old
  let b : BitVec n := BitVec.ofNat n v
  match op with
  | .add => (a + b).toNat
  | .and' => (a &&& b).toNat
  | .or' => (a ||| b).toNat
  | .xor' => (a ^^^ b).toNat
  | .min' => (if signed then (if b.slt a then b else a) else (if b.ult a then b else a)).toNat
  | .max' => (if signed then (if a.slt b then b else a) else (if a.ult b then b else a)).toNat
  | .fadd64 => (fpBin .b64 .rne .add old v).1
  | .fadd32 => (fpBin .b32 .rne .add old v).1

def RedOp.float : RedOp → Bool
  | .fadd64 | .fadd32 => true
  | _ => false

/-- Whether a request carries a reduction of a strand. -/
def RedReq.of (r : RedReq) (o : Owner) : Bool := r.owner == o || r.others.contains o

/-- Whether n bytes at one place and m bytes at another overlap. -/
def Loc.overlaps (a : Loc) (n : Nat) (b : Loc) (m : Nat) : Bool :=
  match a, b with
  | .mem x, .mem y => decide (x < y + m) && decide (y < x + n)
  | .scratch c p f o, .scratch c' p' f' o' => c == c' && p == p' && f == f' && decide (o < o' + m) && decide (o' < o + n)
  | _, _ => false

/-- Whether a request that comes first has to be served first: the two carry reductions of one strand to overlapping bytes (R134). -/
def RedReq.before (r q : RedReq) : Bool := (r.owner :: r.others).any q.of && r.loc.overlaps r.width q.loc q.width

/-- The requests that a test picks, with every earlier one that has to be served before one of them; and the others. -/
def dueReds (pick : RedReq → Bool) : List RedReq → List RedReq × List RedReq
  | [] => ([], [])
  | r :: l =>
    let (due, kept) := dueReds pick l
    if pick r || due.any r.before then (r :: due, kept) else (due, r :: kept)

namespace State

/-- Drops a core's L1 copy of the line at a place, its dirty bytes going home first (R125). -/
def evictAt (s : State) (core : Nat) (loc : Loc) : State := match loc with
  | .mem pa => s.evictLine core (pa / 128)
  | _ => s

/-- Why a write that reaches its home cannot be performed there (R145). -/
def homeFault (s : State) (part : Nat) (loc : Loc) (n : Nat) : Option (BitVec 8) := match loc with
  | .mem pa =>
    if natBits pa 47 40 = s.devId ∧ s.layerPresent part pa = false then some 0x12
    else if s.mem.anyPoison pa n then some 0x13 else none
  | _ => none

/-- The cores of a request's strands give up their own copies of the word's line, so that no strand loads a value older than its own
reduction (R135). -/
def evictFor (s : State) (r : RedReq) : State :=
  (r.owner :: r.others).foldl (fun (s : State) o => s.evictAt (coreOfSlot o.slot) r.loc) s

/-- A reduction applied at its home; one that fails there is an orphan (R145). -/
def applyRed (s : State) (r : RedReq) : State :=
  let s := s.evictFor r
  match s.homeFault r.part r.loc r.width with
  | some cause => { s with orphans := s.orphans ++ [(r, cause)] }
  | none =>
    match s.readHome r.loc r.width with
    | none => { s with orphans := s.orphans ++ [(r, 0x13)] }
    | some g =>
      s.writeHome r.loc (toBytes r.width (redNew r.op (8 * r.width) r.signed g.nat r.operand.toNat)) (r.taint || r.op.float)

/-- Brings home, in order, the strand's reductions that a test picks: those resting in its core's buffer and those under way, merged
with another strand's or not, and with them what has to be served before one of them (R134). -/
def settleReds (s : State) (pick : RedReq → Bool) : State :=
  let mine (r : RedReq) : Bool := r.of s.me? && pick r
  let buf := (s.core s.myCore).combine
  if !buf.any mine && !s.reds.any mine then s
  else
    let here := buf.filter mine
    let (due, kept) := dueReds (fun r => mine r || here.any r.before) s.reds
    let s1 := { s with reds := kept }
    let s2 := s1.modCore s.myCore (fun k => { k with combine := k.combine.filter (fun r => !mine r) })
    (due ++ here).foldl applyRed s2

/-- A load, store or AMO that overlaps a reduction's word brings it home first (R127). -/
def settleOver (s : State) (loc : Loc) (n : Nat) : State := s.settleReds (fun r => r.loc.overlaps r.width loc n)

/-! ## Release and acquire (R125, R127, R137) -/

/-- A release at a scope: the reductions it includes, then, from QUAD on, the core's dirty bytes, are at their homes. -/
def release (s : State) (scope : Nat) : State :=
  let s := s.settleReds (fun r => decide (r.scope.toNat ≤ scope))
  if scope = 0 then s else s.flushCore s.myCore

/-- An acquire at a scope: from QUAD on the core's clean lines are dropped. -/
def acquire (s : State) (scope : Nat) : State := if scope = 0 then s else s.dropClean s.myCore

end State

/-! ## The scope checker (R131, R139, R140, R427) -/

/-- The cluster a party is in, if it is in one: an L2 slice lies in its cluster (R17). -/
def Party.cluster? : Party → Option Nat
  | .strand slot => some (clusterOfSlot slot)
  | .cluster c => some c
  | .slice n => some (n / 2)
  | _ => none

/-- The strand slot a party is, if it is one. -/
def Party.slot? : Party → Option Nat
  | .strand slot => some slot
  | _ => none

/-- Whether two parties are known to share a unit that holds each of them. -/
def shares (f : Nat → Nat) (x y : Option Nat) : Bool := match x, y with
  | some a, some b => f a == f b
  | _, _ => false

/-- Whether a scope of party x includes party y, on one device or the host (R131). -/
def scopeIncludes (scope : Nat) (x y : Party) : Bool :=
  match scope with
  | 0 => shares coreOfSlot x.slot? y.slot?
  | 1 => shares quadOfSlot x.slot? y.slot?
  | 2 => shares id x.cluster? y.cluster?
  | 3 => shares (· / 16) x.cluster? y.cluster?
  | 4 | 5 => x != .host && y != .host
  | _ => true

/-- The line or scratchpad block whose record an access meets. -/
def scopeKey : Loc → Option Loc
  | .mem pa => some (.mem (pa / 128 * 128))
  | .scratch core page frame off => some (.scratch core page frame (off / 128 * 128))
  | _ => none

/-- A party as EXTRA's free layout takes it: its kind and its number. -/
def Party.code : Party → Nat × Nat
  | .strand slot => (0, slot)
  | .cluster c => (1, c)
  | .slice n => (2, n)
  | .system => (3, 0)
  | .host => (4, 0)

def scopeTrap {α : Type} (va : Dword) (r : Option ScopeRec) : Res α :=
  trapX 0x09 va (BitVec.ofNat 128 (Config.scopeExtra (r.map (fun r => (r.scope.toNat, r.party.code)))))

/-- The scope traps of R140, judged on the translated place. -/
def State.scopeFits (s : State) (scope slot : Nat) (loc : Loc) : Bool :=
  match loc with
  | .mem pa => natBits pa 47 40 == s.devId || decide (5 ≤ scope)
  | .host _ => decide (6 ≤ scope)
  | .scratch core _ _ _ =>
    !(scope == 0 && coreOfSlot slot != core) && !(scope == 1 && slot / 16 != core / 4)
  | .mmio _ => true

/-- A synchronising access that does not trap replaces the record of its line (R139). -/
def State.putScope (s : State) (k : Loc) (r : ScopeRec) : State := { s with scopes := Table.set s.scopes k r }

/-- A synchronising access that a unit makes for no strand: it leaves the unit's own location in the record of its line, and cannot trap
(R427, log entry 108). -/
def State.unitSync (s : State) (scope : BitVec 3) (who : Party) (loc : Loc) : State := match scopeKey loc with
  | some k => s.putScope k ⟨scope, who⟩
  | none => s

/-- A synchronising access meets the record of its line (R139). A record whose memory line has been evicted is gone: whether it has
is free (log entry 20). A scratchpad page takes its blocks' records with it. -/
def State.scopeCheck (s : State) (scope : BitVec 3) (loc : Loc) (va : Dword) : Res State :=
  if s.scopeFits scope.toNat s.cur loc = false then scopeTrap va none
  else
    match scopeKey loc with
    | none => .ok s
    | some k =>
      let mine : ScopeRec := ⟨scope, .strand s.cur⟩
      match Table.find? s.scopes k with
      | none => .ok (s.putScope k mine)
      | some r =>
        if scopeIncludes scope.toNat mine.party r.party && scopeIncludes r.scope.toNat r.party mine.party then .ok (s.putScope k mine)
        else match loc with
          | .mem _ =>
            let (n, s') := s.draw
            if n % 2 = 1 then .ok (s'.putScope k mine) else scopeTrap va (some r)
          | _ => scopeTrap va (some r)

/-! ## Checked loads and stores within one line (R195) -/

/-- The determinism guard (R152, R367). -/
def State.guardTaint (s : State) (pte : Dword) (taint : Bool) (va : Dword) : Res Unit :=
  guardTrap (!(taint && s.dmode s.me.launch && Pte.dg pte)) 0x0F va

/-- A tainted value that goes where no taint is kept is a taint event (R56). -/
def State.noteLost (s : State) (loc : Loc) (taint : Bool) : State := match loc with
  | .host _ => s.taintEventIf taint
  | .mmio _ => s.taintEventIf taint
  | _ => s

/-- A checked load of n bytes. -/
def State.loadAt (s : State) (acc : Acc) (va : Dword) (n : Nat) : Res (Got × State) :=
  match s.translate s.ctx acc false va with
  | .error e => .error e
  | .ok (t, s1) => (s1.settleOver t.loc n).readLoc s.ctx t.loc va n

/-- A checked store of bytes. -/
def State.storeAt (s : State) (va : Dword) (bs : List Byte) (taint : Bool) : Res State :=
  match s.translate s.ctx .store false va with
  | .error e => .error e
  | .ok (t, s1) =>
    match s1.guardTaint t.pte taint va with
    | .error e => .error e
    | .ok _ => .ok (((s1.settleOver t.loc bs.length).writeLoc s.ctx t.loc bs taint).noteLost t.loc taint)

/-! ## Reads and writes at home by an engine or unit acting for a context (R53, R118, R120) -/

/-- The pieces of n bytes at a virtual address that no line or page boundary cuts: address, offset, length. -/
def piecesOf (va : Dword) (n : Nat) : List (Dword × Nat × Nat) :=
  (splitAt 128 (n + 1) va.toNat 0 n).map (fun p => (BitVec.ofNat 64 p.1, p.2.1, p.2.2))

/-- Reads n bytes through the strand's own loads, in pieces no line cuts. -/
def State.readThrough (s : State) (va : Dword) (n : Nat) : Res (List Byte × Bool × State) :=
  (piecesOf va n).foldlM (fun (acc : List Byte × Bool × State) p => do
    let (g, s1) ← acc.2.2.loadAt .load p.1 p.2.2
    return (acc.1 ++ g.bytes, acc.2.1 || g.taint, s1)) ([], false, s)

/-- A read of n bytes at their homes under a context: the bytes and their taint. -/
def State.readVirt (s : State) (c : Ctx) (va : Dword) (n : Nat) : Res (List Byte × Bool × State) :=
  (piecesOf va n).foldlM (fun (acc : List Byte × Bool × State) p =>
    match acc.2.2.translate c .engineRead false p.1 with
    | .error e => .error e
    | .ok (t, s1) =>
      match s1.readHome t.loc p.2.2 with
      | none => trap 0x13 p.1
      | some g => .ok (acc.1 ++ g.bytes, acc.2.1 || g.taint, s1)) ([], false, s)

/-- A write of bytes at their homes under a context. -/
def State.writeVirt (s : State) (c : Ctx) (va : Dword) (bs : List Byte) (taint : Bool) : Res State :=
  (piecesOf va bs.length).foldlM (fun (s : State) p =>
    match s.translate c .engineWrite false p.1 with
    | .error e => .error e
    | .ok (t, s1) => .ok (s1.writeHome t.loc ((bs.drop p.2.1).take p.2.2) taint)) s

/-- A 16-B value with its tag at its home under a context: the tag only where the reader may load one (R54, R50). -/
def State.readCapVirt (s : State) (c : Ctx) (ldc : Bool) (va : Dword) : Res (GReg × State) :=
  match s.translate c (if ldc then .capLoad else .engineRead) false va with
  | .error e => .error e
  | .ok (t, s1) =>
    match s1.readHome t.loc 16 with
    | none => trap 0x13 va
    | some g =>
      let b : Qword := BitVec.ofNat 128 g.nat
      .ok (⟨b, ldc && g.tag && !(Cap.malformed ⟨b, true⟩), g.taint⟩, s1)

/-! ## The lanes of a v register -/

/-- A number from its 32-bit lanes, lane 0 lowest. -/
def ofWords : List Word → Nat
  | [] => 0
  | w :: rest => w.toNat + 2 ^ 32 * ofWords rest
def lane (v : Vword) (i : Nat) : Word := v.extractLsb' (32 * i) 32
def lanes (v : Vword) : List Word := tabulate 64 (lane v)
def ofLanes (l : List Word) : Vword := BitVec.ofNat 2048 (ofWords l)
def lane16 (v : Vword) (j : Nat) : Half := v.extractLsb' (16 * j) 16
def byteLane (v : Vword) (j : Nat) : Byte := v.extractLsb' (8 * j) 8
def ofHalves (l : List Half) : Vword := BitVec.ofNat 2048 (l.foldr (fun h n => h.toNat + 2 ^ 16 * n) 0)
def ofByteLanes (l : List Byte) : Vword := BitVec.ofNat 2048 (ofBytes l)
def vBytes (v : Vword) : List Byte := toBytes 256 v.toNat

/-! ## Streams (R245, R246) and v registers -/

/-- The stream of a v register, if one is active there. -/
def State.stream? (s : State) (v : VIdx) : Option Stream :=
  if 28 ≤ v.toNat then s.me.streams.toList.getD (v.toNat - 28) none else none
def State.setStream (s : State) (v : VIdx) (x : Option Stream) : State :=
  s.modMe (fun m => { m with streams := m.streams.setIfInBounds (v.toNat - 28) x })

/-- How many elements a stream's pattern has. -/
def Stream.total (t : Stream) : Nat := t.counts.foldl (· * ·) 1

/-- The address of element n (R245). -/
def Stream.addr (t : Stream) (n : Nat) : Int :=
  let c0 := t.counts.getD 0 1
  let c1 := t.counts.getD 1 1
  t.cap.plus (((n % c0 : Nat) : Int) * t.strides.getD 0 0 + ((n / c0 % c1 : Nat) : Int) * t.strides.getD 1 0 +
    ((n / c0 / c1 : Nat) : Int) * t.strides.getD 2 0)

/-- A read of n bytes that acquires them: the core's own copies of their lines go home first, so that they are read there, and no later
load of the strand finds an older copy (R137). -/
def State.readAcquired (s : State) (c : Ctx) (va : Dword) (n : Nat) : Res (List Byte × Bool × State) :=
  (piecesOf va n).foldlM (fun (acc : List Byte × Bool × State) p =>
    match acc.2.2.translate c .engineRead false p.1 with
    | .error e => .error e
    | .ok (t, s1) =>
      let s2 := s1.evictAt (coreOfSlot c.slot) t.loc
      match s2.readHome t.loc p.2.2 with
      | none => trap 0x13 p.1
      | some g => .ok (acc.1 ++ g.bytes, acc.2.1 || g.taint, s2)) ([], false, s)

/-- Pops the next element of a read stream (R246). -/
def State.popStream (s : State) (v : VIdx) (t : Stream) : Res (VReg × State) :=
  if t.total ≤ t.pos then .ok (⟨0, false⟩, s.setStream v (some { t with ovr := true }))
  else
    match capCheckAt t.cap [0] { r := true } (t.addr t.pos) 256 4 with
    | .error e => .error e
    | .ok a =>
      match s.readAcquired s.ctx a 256 with
      | .error (.trap c _ x) => trapX c a x
      | .error e => .error e
      | .ok (bs, tn, s1) => .ok (⟨ofByteLanes bs, tn⟩, s1.setStream v (some { t with pos := t.pos + 1 }))

/-- The address of a write stream's next element, checked; `none` past the last one. A fault names the element (R246). -/
def Stream.pushAt (t : Stream) : Res (Option Dword) :=
  if t.total ≤ t.pos then .ok none else (capCheckAt t.cap [0] { w := true } (t.addr t.pos) 256 4).map some

/-- One element at its checked address, as plain stores (R246). -/
def State.storeElement (s : State) (a : Dword) (x : VReg) : Res State :=
  let stores : Res State := (piecesOf a 256).foldlM (fun (s : State) p =>
    s.storeAt p.1 (((vBytes x.bits).drop p.2.1).take p.2.2) x.taint) s
  match stores with
  | .error (.trap c _ e) => trapX c a e
  | r => r

/-- Pushes one element into a write stream. -/
def State.pushStream (s : State) (v : VIdx) (t : Stream) (x : VReg) : Res State :=
  match t.pushAt with
  | .error e => .error e
  | .ok none => .ok (s.setStream v (some { t with ovr := true }))
  | .ok (some a) =>
    match s.storeElement a x with
    | .error e => .error e
    | .ok s1 => (s1.setStream v (some { t with pos := t.pos + 1 })).raiseS

/-- A source v register: a read stream pops (R209). One that is a write stream has the register's own bits (log entry 138). -/
def State.readV (s : State) (v : VIdx) : Res (VReg × State) :=
  match s.stream? v with
  | some t => if t.write then .ok (s.me.regs.rv v, s) else s.popStream v t
  | none => .ok (s.me.regs.rv v, s)

/-- The old contents of a destination, which pops nothing. -/
def State.oldV (s : State) (v : VIdx) : VReg := s.me.regs.rv v

/-- A destination v register: a write stream pushes (R209). One that is a read stream takes the bits as its own (log entry 138). -/
def State.writeV (s : State) (v : VIdx) (x : VReg) : Res State :=
  match s.stream? v with
  | some t => if t.write then s.pushStream v t x else .ok (s.modRegs (fun r => r.wv v x))
  | none => .ok (s.modRegs (fun r => r.wv v x))

/-- A masked write of 32-bit lanes under a predicate (R207, R208): inactive lanes keep their contents, and a partial write
ORs its taint. -/
def State.writeLanes (s : State) (v : VIdx) (m : PIdx) (l : List Word) (taint : Bool) : Res State :=
  let mask := s.p m
  let old := s.oldV v
  let merged := l.mapIdx (fun i w => if mask.bits.getLsbD i then w else lane old.bits i)
  s.writeV v ⟨ofLanes merged, if m = 0 then taint else old.taint || taint⟩

/-- The same for 16-bit lanes: bit i of the predicate governs lanes 2i and 2i + 1. -/
def State.writeHalves (s : State) (v : VIdx) (m : PIdx) (l : List Half) (taint : Bool) : Res State :=
  let mask := s.p m
  let old := s.oldV v
  let merged := l.mapIdx (fun j h => if mask.bits.getLsbD (j / 2) then h else lane16 old.bits j)
  s.writeV v ⟨ofHalves merged, if m = 0 then taint else old.taint || taint⟩

/-! ## Engines (R44) -/

/-- Pushes a command to the core's dispatch queue; a full queue stalls the strand. -/
def State.pushCmd (s : State) (c : Cmd) : Res State :=
  if 8 ≤ (s.core s.myCore).queue.length then stall
  else .ok (s.modCore s.myCore (fun k => { k with queue := k.queue ++ [c] }))

end Sys2Proof.Machine
end

