-- ==== Sys2Proof/Machine/Fetch.lean ====
section
/-!
DEFINITION. Fetching an instruction (R153, R164) and the staggered words of a REP body (R188).
-/
namespace Sys2Proof.Machine

/-- The check of PCC at a fetch address (R53, R153). A PC outside PCC's representable region is out of its bounds (R52). -/
def State.codeAt (s : State) (addr : Int) : Res Dword :=
  match s.me.pccFar with
  | none => capCheckAt s.me.pcc [0] { x := true } addr 2 2
  | some _ =>
    let v : Dword := BitVec.ofInt 64 addr
    match s.me.pcc.check [0] { x := true } v 2 2 with
    | some 0x08 | none => capTrap s.me.pcc 0x02 v
    | some cause => capTrap s.me.pcc cause v

/-- Brings a line into a core's L1 instruction cache, its poisoned granules noted. The 32 KiB hold 256 lines (R7): a new one in a
full cache replaces the oldest (log entry 106). -/
def State.fetchLine (s : State) (c line : Nat) : State :=
  let ls := (s.core c).ilines
  if (Table.find? ls line).isSome then s
  else
    let f := Line.fetch s.mem line (s.lineOf c line)
    let bad := (List.range 8).foldl (fun t g => setBit t g (f.poisoned (16 * g) 16)) (0#8)
    s.modCore c (fun k => { k with ilines := Table.set (if ls.length < 256 then ls else ls.drop 1) line (f.data, bad) })

/-- The halfword at an address, read through the core's L1 instruction cache, which fills past what the core's own data cache has
dirtied (R164). -/
def State.fetchHalf (s : State) (addr : Int) : Res (Half × State) := do
  let a ← s.codeAt addr
  let (t, s1) ← s.translate s.ctx .fetch false a
  match t.loc with
  | .mem pa =>
    let s2 := s1.fetchLine s1.myCore (pa / 128)
    let (l, bad) := Table.getD (s2.core s2.myCore).ilines (pa / 128) (0, 0)
    if bad.getLsbD (pa % 128 / 16) then trap 0x13 a
    else .ok (l.extractLsb' (8 * (pa % 128)) 16, s2)
  | loc =>
    match s1.readHome loc 2 with
    | none => trap 0x13 a
    | some g => .ok (BitVec.ofNat 16 g.nat, s1)

/-- A fetched pattern: a 16-bit instruction, or a 32-bit word. -/
inductive Fetched where
  | half (h : Half)
  | word (w : Word)
deriving DecidableEq, Repr

/-- The instruction at an address (R153). -/
def State.fetchAt (s : State) (va : Nat) : Res (Fetched × State) := do
  let (lo, s1) ← s.fetchHalf va
  if lo.getLsbD 0 then
    let (hi, s2) ← s1.fetchHalf ((va + 2 : Nat) : Int)
    return (.word (hi ++ lo), s2)
  else return (.half lo, s1)

/-- The major opcode of a word (R154). -/
def majorOf (w : Word) : Nat := (w.extractLsb' 4 7).toNat

/-- Majors a REP body may hold (R188). -/
def repMajor (m : Nat) : Bool :=
  (decide (0x50 ≤ m) && decide (m ≤ 0x5A)) || m == 0x60 || m == 0x61 || m == 0x63 || m == 0x64

/-- Adds k to a five-bit field modulo 32. -/
def bump (w : Word) (lo k : Nat) : Word :=
  let f := (w.extractLsb' lo 5) + BitVec.ofNat 5 k
  (w &&& ~~~((31#32) <<< lo)) ||| (f.setWidth 32 <<< lo)

/-- The V-format fields of a word that name v registers (R156, R213, R216): their low bits. -/
def vFields (w : Word) : List Nat :=
  let m := majorOf w
  let f := (w.extractLsb' 29 3).toNat
  if m = 0x50 then (if 6 ≤ f then [11, 16] else [11, 16, 21])
  else if m = 0x51 then (if 3 ≤ f then [11, 16] else [11, 16, 21])
  else if m = 0x52 then [11, 16, 21]
  else if m = 0x53 ∨ m = 0x54 then (if f = 7 then [11, 16] else [11, 16, 21])
  else if m = 0x55 ∨ m = 0x56 then [16, 21]
  else if m = 0x57 then (if 5 ≤ f then [11, 16] else [11, 16, 21])
  else if m = 0x58 then (if f = 6 then [11, 16, 21] else [11, 16])
  else if m = 0x59 then (if f = 2 ∨ f = 4 then [11, 16, 21] else [11, 16])
  else if m = 0x5A then (if f = 4 ∨ f = 5 then [11, 23] else [11])
  else if m = 0x64 then (if f = 2 then [11, 23] else [11])
  else []

/-- The word of a body instruction in iteration i (R188). -/
def stagger (w : Word) (k : Nat) : Word := (vFields w).foldl (fun w lo => bump w lo k) w

/-- Captures a REP body of n words after the REP at `pc`: a body instruction of another kind traps at REP (R188). -/
def State.captureBody (s : State) (pc : Nat) : Nat → Res (List Word × State)
  | 0 => .ok ([], s)
  | n + 1 => do
    let (l, s1) ← s.captureBody pc n
    let (x, s2) ← s1.fetchAt (pc + 4 + 4 * n)
    match x with
    | .half h => trap 0x01 (h.setWidth 64)
    | .word w => if repMajor (majorOf w) then .ok (l ++ [w], s2) else trap 0x01 (w.setWidth 64)

end Sys2Proof.Machine
end

