-- ==== Sys2Proof/Machine/Integer.lean ====
section
/-!
DEFINITION. Majors 0x00 to 0x0F: integers, constants, comparisons, bit fields and predicates (R166 to R174).
-/
namespace Sys2Proof.Machine

/-- Taint of two g sources (R48). -/
def State.t2 (s : State) (a b : GIdx) : Bool := (s.g a).taint || (s.g b).taint

/-- A two-operand integer instruction (R167, R168). -/
def int2 (f : Dword → Dword → Dword) (d a b : GIdx) (s : State) : Out :=
  fallThrough 4 s (.ok (s.setX d (f (s.x a) (s.x b)) (s.t2 a b)))

/-- A one-operand integer instruction (R167, R168). -/
def int1 (f : Dword → Dword) (d a : GIdx) (s : State) : Out :=
  fallThrough 4 s (.ok (s.setX d (f (s.x a)) (s.g a).taint))

/-! Arithmetic on doublewords (R58, R59, R168). -/

def mulHigh (a b : Dword) : Dword := BitVec.ofInt 64 (a.toInt * b.toInt / 2 ^ 64)
def mulHighZ (a b : Dword) : Dword := BitVec.ofNat 64 (a.toNat * b.toNat / 2 ^ 64)
def addW (a b : Dword) : Dword := ((a + b).extractLsb' 0 32).signExtend 64
def subW (a b : Dword) : Dword := ((a - b).extractLsb' 0 32).signExtend 64
/-- Signed division (R59): by zero all ones; the most negative number by −1 itself; else rounded towards zero. -/
def divS (a b : Dword) : Dword := if b = 0 then BitVec.allOnes 64 else BitVec.ofInt 64 (a.toInt.tdiv b.toInt)
def divZ (a b : Dword) : Dword := if b = 0 then BitVec.allOnes 64 else BitVec.ofNat 64 (a.toNat / b.toNat)
def remS (a b : Dword) : Dword := if b = 0 then a else BitVec.ofInt 64 (a.toInt.tmod b.toInt)
def remZ (a b : Dword) : Dword := if b = 0 then a else BitVec.ofNat 64 (a.toNat % b.toNat)
def minS (a b : Dword) : Dword := if b.slt a then b else a
def maxS (a b : Dword) : Dword := if a.slt b then b else a
def minU (a b : Dword) : Dword := if b.ult a then b else a
def maxU (a b : Dword) : Dword := if a.ult b then b else a
def shl64 (a b : Dword) : Dword := a <<< (b.extractLsb' 0 6).toNat
def shr64 (a b : Dword) : Dword := a >>> (b.extractLsb' 0 6).toNat
def sar64 (a b : Dword) : Dword := a.sshiftRight (b.extractLsb' 0 6).toNat
def rol64 (a b : Dword) : Dword := a.rotateLeft (b.extractLsb' 0 6).toNat
/-- Set bits below bit n. -/
def popFrom (v : Dword) : Nat → Nat
  | 0 => 0
  | n + 1 => (if v.getLsbD n then 1 else 0) + popFrom v n
/-- Zero bits from bit n − 1 down to the first set one. -/
def leadFrom (v : Dword) : Nat → Nat
  | 0 => 0
  | n + 1 => if v.getLsbD n then 0 else 1 + leadFrom v n
/-- Zero bits from bit i up to the first set one, n bits at most. -/
def trailFrom (v : Dword) (i : Nat) : Nat → Nat
  | 0 => 0
  | n + 1 => if v.getLsbD i then 0 else 1 + trailFrom v (i + 1) n
def clz64 (a : Dword) : Dword := BitVec.ofNat 64 (leadFrom a 64)
def ctz64 (a : Dword) : Dword := BitVec.ofNat 64 (trailFrom a 0 64)
def popc64 (a : Dword) : Dword := BitVec.ofNat 64 (popFrom a 64)
def brev64 (a : Dword) : Dword := a.reverse
def bswap64 (a : Dword) : Dword := BitVec.ofNat 64 (ofBytes (toBytes 8 a.toNat).reverse)
/-- The width a two-bit code names (R168). -/
def widthBits (w : BitVec 2) : Nat := 8 * 2 ^ w.toNat
def sextW (w : BitVec 2) (a : Dword) : Dword := ((a.setWidth (widthBits w)).signExtend 64)
def zextW (w : BitVec 2) (a : Dword) : Dword := ((a.setWidth (widthBits w)).setWidth 64)

def execAdd (d a b : GIdx) (s : State) : Out := int2 (· + ·) d a b s
def execSub (d a b : GIdx) (s : State) : Out := int2 (· - ·) d a b s
def execMul (d a b : GIdx) (s : State) : Out := int2 (· * ·) d a b s
def execMulh (d a b : GIdx) (s : State) : Out := int2 mulHigh d a b s
def execMulhz (d a b : GIdx) (s : State) : Out := int2 mulHighZ d a b s
def execAddw (d a b : GIdx) (s : State) : Out := int2 addW d a b s
def execSubw (d a b : GIdx) (s : State) : Out := int2 subW d a b s
def execNeg (d a : GIdx) (s : State) : Out := int1 (fun x => -x) d a s
def execDiv (d a b : GIdx) (s : State) : Out := int2 divS d a b s
def execDivz (d a b : GIdx) (s : State) : Out := int2 divZ d a b s
def execRem (d a b : GIdx) (s : State) : Out := int2 remS d a b s
def execRemz (d a b : GIdx) (s : State) : Out := int2 remZ d a b s
def execMin (d a b : GIdx) (s : State) : Out := int2 minS d a b s
def execMax (d a b : GIdx) (s : State) : Out := int2 maxS d a b s
def execMinz (d a b : GIdx) (s : State) : Out := int2 minU d a b s
def execMaxz (d a b : GIdx) (s : State) : Out := int2 maxU d a b s
def execAnd (d a b : GIdx) (s : State) : Out := int2 (· &&& ·) d a b s
def execOr (d a b : GIdx) (s : State) : Out := int2 (· ||| ·) d a b s
def execXor (d a b : GIdx) (s : State) : Out := int2 (· ^^^ ·) d a b s
def execAndn (d a b : GIdx) (s : State) : Out := int2 (fun x y => x &&& ~~~y) d a b s
def execOrn (d a b : GIdx) (s : State) : Out := int2 (fun x y => x ||| ~~~y) d a b s
def execShl (d a b : GIdx) (s : State) : Out := int2 shl64 d a b s
def execShr (d a b : GIdx) (s : State) : Out := int2 shr64 d a b s
def execSar (d a b : GIdx) (s : State) : Out := int2 sar64 d a b s
def execRol (d a b : GIdx) (s : State) : Out := int2 rol64 d a b s
def execClz (d a : GIdx) (s : State) : Out := int1 clz64 d a s
def execCtz (d a : GIdx) (s : State) : Out := int1 ctz64 d a s
def execPopc (d a : GIdx) (s : State) : Out := int1 popc64 d a s
def execBrev (d a : GIdx) (s : State) : Out := int1 brev64 d a s
def execBswap (d a : GIdx) (s : State) : Out := int1 bswap64 d a s
def execSext (d a : GIdx) (w : BitVec 2) (s : State) : Out := int1 (sextW w) d a s
def execZext (d a : GIdx) (w : BitVec 2) (s : State) : Out := int1 (zextW w) d a s

/-! Immediates (R169). -/

def execAddi (d a : GIdx) (i : BitVec 9) (s : State) : Out := int1 (· + i.signExtend 64) d a s
def execAndi (d a : GIdx) (i : BitVec 9) (s : State) : Out := int1 (· &&& i.signExtend 64) d a s
def execOri (d a : GIdx) (i : BitVec 9) (s : State) : Out := int1 (· ||| i.signExtend 64) d a s
def execXori (d a : GIdx) (i : BitVec 9) (s : State) : Out := int1 (· ^^^ i.signExtend 64) d a s
def execShli (d a : GIdx) (i : BitVec 6) (s : State) : Out := int1 (fun x => shl64 x (i.setWidth 64)) d a s
def execShri (d a : GIdx) (i : BitVec 6) (s : State) : Out := int1 (fun x => shr64 x (i.setWidth 64)) d a s
def execSari (d a : GIdx) (i : BitVec 6) (s : State) : Out := int1 (fun x => sar64 x (i.setWidth 64)) d a s
def execRoli (d a : GIdx) (i : BitVec 6) (s : State) : Out := int1 (fun x => rol64 x (i.setWidth 64)) d a s

/-! Constants (R170). -/

def execLi (d : GIdx) (i : BitVec 15) (s : State) : Out := fallThrough 4 s (.ok (s.setX d (i.signExtend 64) false))
def execLie (d : GIdx) (i : BitVec 15) (s : State) : Out :=
  fallThrough 4 s (.ok (s.setX d ((s.e 1 ++ s.e 0) + i.signExtend 64) (s.eT 0 || s.eT 1)))

/-! Comparisons and selection (R171, R172). -/

def execCmp (p c : PIdx) (a b : GIdx) (s : State) : Out :=
  fallThrough 4 s (.ok (s.setP p (ones64 (intCond c (s.x a) (s.x b))) (s.t2 a b)))
def execCmpW (p c : PIdx) (a b : GIdx) (s : State) : Out :=
  fallThrough 4 s (.ok (s.setP p (ones64 (intCond c ((s.x a).extractLsb' 0 32) ((s.x b).extractLsb' 0 32))) (s.t2 a b)))
def execCmpi (p c : PIdx) (a : GIdx) (i : BitVec 9) (s : State) : Out :=
  fallThrough 4 s (.ok (s.setP p (ones64 (intCond c (s.x a) (i.signExtend 64))) (s.g a).taint))
def execSel (d a b : GIdx) (p : PIdx) (s : State) : Out :=
  fallThrough 4 s (.ok (s.setX d (if (s.p p).bits.getLsbD 0 then s.x a else s.x b) ((s.p p).taint || s.t2 a b)))

/-! Bit fields (R173). -/

def fieldPos (b : Dword) : Nat := (b.extractLsb' 0 6).toNat
def fieldLen (b : Dword) : Nat := if b.extractLsb' 8 6 = 0 then 64 else (b.extractLsb' 8 6).toNat
def bfx (a b : Dword) : Dword := (((a >>> fieldPos b).setWidth (fieldLen b)).signExtend 64)
def bfxz (a b : Dword) : Dword := (((a >>> fieldPos b).setWidth (fieldLen b)).setWidth 64)
def bfi (d a b : Dword) : Dword :=
  let m : Dword := BitVec.ofNat 64 ((2 ^ fieldLen b - 1) * 2 ^ fieldPos b)
  (d &&& ~~~m) ||| ((a <<< fieldPos b) &&& m)

def execBfx (d a b : GIdx) (s : State) : Out := int2 bfx d a b s
def execBfxz (d a b : GIdx) (s : State) : Out := int2 bfxz d a b s
def execBfi (d a b : GIdx) (s : State) : Out :=
  fallThrough 4 s (.ok (s.setX d (bfi (s.x d) (s.x a) (s.x b)) (s.t2 a b || (s.g d).taint)))

/-! Predicates (R174). -/

def pred2 (f : Dword → Dword → Dword) (d a b : PIdx) (s : State) : Out :=
  fallThrough 4 s (.ok (s.setP d (f (s.p a).bits (s.p b).bits) ((s.p a).taint || (s.p b).taint)))
def execPand (d a b : PIdx) (s : State) : Out := pred2 (· &&& ·) d a b s
def execPor (d a b : PIdx) (s : State) : Out := pred2 (· ||| ·) d a b s
def execPxor (d a b : PIdx) (s : State) : Out := pred2 (· ^^^ ·) d a b s
def execPandn (d a b : PIdx) (s : State) : Out := pred2 (fun x y => x &&& ~~~y) d a b s
def execPnot (d a : PIdx) (s : State) : Out := fallThrough 4 s (.ok (s.setP d (~~~(s.p a).bits) (s.p a).taint))
def execPmovg (d : GIdx) (a : PIdx) (s : State) : Out := fallThrough 4 s (.ok (s.setX d (s.p a).bits (s.p a).taint))
def execPfromg (d : PIdx) (a : GIdx) (s : State) : Out := fallThrough 4 s (.ok (s.setP d (s.x a) (s.g a).taint))
def execPcnt (d : GIdx) (a : PIdx) (s : State) : Out := fallThrough 4 s (.ok (s.setX d (popc64 (s.p a).bits) (s.p a).taint))

end Sys2Proof.Machine
end

