-- ==== Sys2Proof/Machine/Memory.lean ====
section
/-!
DEFINITION. Majors 0x30 to 0x41: loads, stores, atomics, reductions, fences, WAIT and WAITA (R195 to R204), and the events by
which stores, reductions and waits end.
-/
namespace Sys2Proof.Machine

/-- Cause 0x01 after decode: TVAL is the instruction's word (R163). -/
def State.illegal {α : Type} (s : State) : Res α := trap 0x01 (s.word.setWidth 64)

/-! ## Plain loads and stores (R196, R197) -/

/-- A plain load of n bytes through gA, sign- or zero-extended. -/
def State.loadTo (s : State) (d a : GIdx) (addr : Int) (n : Nat) (signed : Bool) (taint : Bool) : Res State := do
  let va ← capCheckAt (s.cap a) [0] { r := true } addr n n
  let (g, s1) ← s.loadAt .load va n
  let v : Dword := if signed then (BitVec.ofNat (8 * n) g.nat).signExtend 64 else BitVec.ofNat 64 g.nat
  return s1.setX d v (taint || g.taint)

/-- A plain store of the low n bytes of gD through gA. -/
def State.storeFrom (s : State) (d a : GIdx) (addr : Int) (n : Nat) : Res State := do
  let va ← capCheckAt (s.cap a) [0] { w := true } addr n n
  let s1 ← s.storeAt va (toBytes n (s.g d).bits.toNat) (s.g d).taint
  s1.raiseS

def sizeOf (z : BitVec 2) : Nat := 2 ^ z.toNat

/-- The address of an M-format access. -/
def State.mAddr (s : State) (a : GIdx) (z : BitVec 2) (i : BitVec 6) : Int := (s.cap a).plus (i.toInt * sizeOf z)

def execLd (d a : GIdx) (z : BitVec 2) (x : Bool) (i : BitVec 6) (s : State) : Out :=
  fallThrough 4 s (s.loadTo d a (s.mAddr a z i) (sizeOf z) x (s.g a).taint)
def execSt (d a : GIdx) (z : BitVec 2) (i : BitVec 6) (s : State) : Out :=
  fallThrough 4 s (s.storeFrom d a (s.mAddr a z i) (sizeOf z))
def execLdx (d a b : GIdx) (s : State) : Out :=
  fallThrough 4 s (s.loadTo d a ((s.cap a).plus (8 * (s.x b).toNat)) 8 false (s.t2 a b))
def execStx (d a b : GIdx) (s : State) : Out :=
  fallThrough 4 s (s.storeFrom d a ((s.cap a).plus (8 * (s.x b).toNat)) 8)

/-- The address of a 16-byte access: gA.ADDR + gB[63:0], exactly. -/
def State.qAddr (s : State) (a b : GIdx) : Int := (s.cap a).plus (s.x b).toNat

def execLdq (d a b : GIdx) (s : State) : Out :=
  fallThrough 4 s (do
    let va ← capCheckAt (s.cap a) [0] { r := true } (s.qAddr a b) 16 16
    let (g, s1) ← s.loadAt .load va 16
    return s1.setG d ⟨BitVec.ofNat 128 g.nat, false, s.t2 a b || g.taint⟩)
def execStq (d a b : GIdx) (s : State) : Out := fallThrough 4 s (s.storeFrom d a (s.qAddr a b) 16)
def execLdc (d a b : GIdx) (s : State) : Out :=
  fallThrough 4 s (do
    let c := s.cap a
    let va ← capCheckAt c [0] { r := true } (s.qAddr a b) 16 16
    let (g, s1) ← s.loadAt (if c.permLdc then .capLoad else .load) va 16
    let v : Cap := ⟨BitVec.ofNat 128 g.nat, true⟩
    return s1.setG d ⟨v.bits, c.permLdc && g.tag && !v.malformed, s.t2 a b || g.taint⟩)

/-- Whether an address lies inside a scratchpad window (R120). -/
def inWindow (a : Dword) : Bool :=
  inScratchRange a.toNat && decide (a.toNat ≤ 0x7F007FFFFFFF) && decide ((a.toNat - 0x7F0000000000) % 0x100000 < 0x40000)

/-- The rights a store of a tagged value asks beyond W (R54). They are asked after CapCheck and before translation (log entry 109). -/
def tagRights (dest value : Cap) (va : Dword) : Res Unit :=
  if !value.tag then .ok ()
  else if !dest.permStc then capTrap dest 0x03 va
  else if !value.permGlobal && !inWindow va then capTrap value 0x03 va
  else .ok ()

def execStc (d a b : GIdx) (s : State) : Out :=
  fallThrough 4 s (do
    let c := s.cap a
    let v := s.g d
    let va ← capCheckAt c [0] { w := true } (s.qAddr a b) 16 16
    tagRights c (s.cap d) va
    let (t, s1) ← s.translate s.ctx .capStore v.tag va
    s1.guardTaint t.pte v.taint va
    let s2 := ((s1.settleOver t.loc 16).writeCapLoc s.ctx t.loc v.bits v.tag v.taint).noteLost t.loc v.taint
    s2.raiseS)

/-- PREF fetches the line of a memory address into L1 and has no other effect; one that fails a check does nothing. -/
def execPref (l : Bool) (a b : GIdx) (s : State) : Out :=
  fallThrough 4 s (.ok (
    match capCheckAt (s.cap a) [0] { r := true } (s.qAddr a b) 1 1 with
    | .error _ => s
    | .ok va =>
      if l || inScratchRange va.toNat then s
      else
        match s.translate s.ctx .load false va with
        | .ok (⟨.mem pa, _, _⟩, s1) => (s1.l1Load s.myCore (pa / 128 * 128) 128).2.2.2.2
        | _ => s))

/-! ## Acquire loads and release stores (R200) -/

def execLda (d a : GIdx) (w : BitVec 2) (f : BitVec 3) (s : State) : Out :=
  fallThrough 4 s (do
    let n := sizeOf w
    let va ← capCheckAt (s.cap a) [0] { r := true } (s.cap a).addr.toNat n n
    let (t, s1) ← s.translate s.ctx .load false va
    let s2 ← s1.scopeCheck f t.loc va
    let s3 := (s2.settleOver t.loc n).evictAt s.myCore t.loc
    match t.loc with
    | .mmio _ => do
      let (g, s4) ← s3.readLoc s.ctx t.loc va n
      return (s4.acquire f.toNat).setX d (BitVec.ofNat 64 g.nat) ((s.g a).taint || g.taint)
    | _ =>
      match s3.readHome t.loc n with
      | none => trap 0x13 va
      | some g => return (s3.acquire f.toNat).setX d (BitVec.ofNat 64 g.nat) ((s.g a).taint || g.taint))

def execStl (d a : GIdx) (w : BitVec 2) (f : BitVec 3) (s : State) : Out :=
  fallThrough 4 s (do
    let n := sizeOf w
    let tn := (s.g d).taint
    let va ← capCheckAt (s.cap a) [0] { w := true } (s.cap a).addr.toNat n n
    let (t, s1) ← s.translate s.ctx .store false va
    s1.guardTaint t.pte tn va
    let s2 ← s1.scopeCheck f t.loc va
    let s3 := (s2.settleOver t.loc n).release f.toNat
    let bs := toBytes n (s.x d).toNat
    let s4 := match t.loc with
      | .mem _ => if f = 0 then s3.writeLoc s.ctx t.loc bs tn else (s3.evictAt s.myCore t.loc).writeHome t.loc bs tn
      | _ => s3.writeLoc s.ctx t.loc bs tn
    (s4.noteLost t.loc tn).raiseS)

/-! ## Atomics (R201) -/

/-- Width in bytes and signedness from e7; `wide` when 16 B is allowed. -/
def State.amoShape (s : State) (wide : Bool) : Res (Nat × Bool) :=
  let signed := !(s.e 7).getLsbD 2
  match ((s.e 7).extractLsb' 0 2).toNat with
  | 0 => .ok (8, signed)
  | 1 => .ok (4, signed)
  | 2 => if wide then .ok (16, signed) else s.illegal
  | _ => s.illegal

/-- An AMO as far as its serialising point: the checks, the release, the acquire, and the word as it stands there. -/
def State.amoOpen (s : State) (f : BitVec 3) (a : GIdx) (n : Nat) (stored : Cap) (taint : Bool) : Res (Loc × Got × State) := do
  let c := s.cap a
  let va ← capCheckAt c [0] { r := true, w := true } c.addr.toNat n n
  tagRights c stored va
  let (t, s1) ← s.translate s.ctx .amo false va
  if stored.tag && !Pte.c t.pte then trapX 0x07 va (t.pte.setWidth 128)
  s1.guardTaint t.pte taint va
  let s2 ← s1.scopeCheck f t.loc va
  let s3 := (((s2.settleOver t.loc n).release f.toNat).evictAt s.myCore t.loc).acquire f.toNat
  match s3.readHome t.loc n with
  | none => trap 0x13 va
  | some g => return (t.loc, g, s3)

def extendTo (n : Nat) (signed : Bool) (v : Nat) : Dword :=
  if signed then (BitVec.ofNat (8 * n) v).signExtend 64 else BitVec.ofNat 64 v

/-- Whether two reductions may become one (R126, R128): the same place, operation, width, signedness and scope. -/
def RedReq.matches' (r q : RedReq) : Bool :=
  decide (r.loc = q.loc) && r.op == q.op && r.width == q.width && r.signed == q.signed && r.scope == q.scope

/-- Whether routers may merge two operations for both launches (R128, R152). -/
def mergeable (r q : RedReq) : Bool :=
  r.matches' q && r.part == q.part && (!r.op.float || (!r.ctx.dmode && !q.ctx.dmode))

/-- A reduction of another strand that a router may merge with a request of the strand at issue, by its place among those under way: none
that has to be served before it is still under way. -/
def State.partner (s : State) (r : RedReq) : Option Nat :=
  (List.range s.reds.length).find? (fun i => (s.reds[i]?).any (fun q =>
    !(q.of s.me?) && mergeable r q && !(s.reds.take i).any (fun x => x.before q)))

/-- One reduction from two. -/
def RedReq.merge (r q : RedReq) : RedReq :=
  { r with
    others := r.others ++ (q.owner :: q.others).filter (fun o => o != r.owner && !r.others.contains o)
    operand := BitVec.ofNat 64 (redNew r.op (8 * r.width) r.signed r.operand.toNat q.operand.toNat)
    taint := r.taint || q.taint || r.op.float
    count := r.count + q.count }

/-- What the serialising point of an AMO leaves: the word its strand receives, and what the home holds, each with its taint. -/
structure Served where
  old : Nat
  oldTaint : Bool
  new : Nat
  newTaint : Bool
  after : State
deriving DecidableEq, Repr

/-- The AMOFADD of the turn before that routers may have merged with this one: of another strand with a lower source number, and no one
has written the word since (R128). -/
def State.faddBefore (s : State) (r : RedReq) (g : Got) : Option Fadd :=
  s.fadd.filter (fun x => r.op.float && !x.fresh && decide (x.req.src < r.src) && !x.req.of r.owner && mergeable x.req r && g.nat == x.after)

/-- An AMO served by itself; of an AMOFADD the machine keeps in mind what the next turn's may have merged with. -/
def State.amoAlone (s : State) (r : RedReq) (g : Got) : Served :=
  let new := redNew r.op (8 * r.width) r.signed g.nat r.operand.toNat
  ⟨g.nat, g.taint, new, r.taint, if r.op.float then { s with fadd := some ⟨r, g.nat, g.taint, new, true⟩ } else s⟩

/-- The serialising point of an AMO (R128, R134): routers may merge it with another strand's operation of the same kind, which is then
served with it, the lower source number first: with a reduction under way, or an AMOFADD with the one served in the turn before, whose
strand has received what it then would. Whether they do is free (log entry 20). -/
def State.amoServe (s : State) (r : RedReq) (g : Got) : Served :=
  let f (a b : Nat) : Nat := redNew r.op (8 * r.width) r.signed a b
  match s.partner r with
  | some i =>
    let (n, s1) := s.draw
    (match s.reds[i]? with
    | some q =>
      if n % 2 = 0 then s1.amoAlone r g
      else
        let s2 : State := ({ s1 with reds := listDrop s1.reds i } : State).evictFor q
        let g := (s2.readHome r.loc r.width).getD g
        if r.src < q.src then ⟨g.nat, g.taint, f g.nat (f r.operand.toNat q.operand.toNat), r.taint || q.taint, s2⟩
        else ⟨f g.nat q.operand.toNat, g.taint || q.taint, f g.nat (f q.operand.toNat r.operand.toNat), r.taint || q.taint, s2⟩
    | none => s.amoAlone r g)
  | none =>
    match s.faddBefore r g with
    | none => s.amoAlone r g
    | some x =>
      let (n, s1) := s.draw
      if n % 2 = 0 then s1.amoAlone r g
      else
        let m := x.req.merge r
        let new := f x.base m.operand.toNat
        ⟨g.nat, g.taint, new, m.taint, { s1 with fadd := some ⟨m, x.base, x.baseTaint, new, true⟩ }⟩

/-- An AMO of 4 or 8 bytes that always stores. -/
def State.amoAlu (s : State) (op : RedOp) (n : Nat) (signed : Bool) (d a b : GIdx) (f : BitVec 3) (tb : Bool) : Res State := do
  let (loc, g, s1) ← s.amoOpen f a n Cap.null tb
  let va := (s.cap a).addr
  let v := s1.amoServe
    ⟨s.me?, [], s.strandSrc s.cur, s.myPart, s.ctx, va, loc, op, n, signed, f, BitVec.ofNat 64 ((s.x b).toNat % 2 ^ (8 * n)), tb, 1⟩ g
  let s2 := v.after.writeHome loc (toBytes n v.new) v.newTaint
  return s2.setX d (extendTo n signed v.old) ((s.g a).taint || tb || (!op.float && s.eT 7) || v.oldTaint)

/-- The same with width and signedness from e7. -/
def State.amoInt (s : State) (op : RedOp) (d a b : GIdx) (f : BitVec 3) : Res State := do
  let (n, signed) ← s.amoShape false
  s.amoAlu op n signed d a b f (s.g b).taint

def execAmoadd (d a b : GIdx) (f : BitVec 3) (s : State) : Out := fallThrough 4 s (s.amoInt .add d a b f)
def execAmoand (d a b : GIdx) (f : BitVec 3) (s : State) : Out := fallThrough 4 s (s.amoInt .and' d a b f)
def execAmoor (d a b : GIdx) (f : BitVec 3) (s : State) : Out := fallThrough 4 s (s.amoInt .or' d a b f)
def execAmoxor (d a b : GIdx) (f : BitVec 3) (s : State) : Out := fallThrough 4 s (s.amoInt .xor' d a b f)
def execAmomin (d a b : GIdx) (f : BitVec 3) (s : State) : Out := fallThrough 4 s (s.amoInt .min' d a b f)
def execAmomax (d a b : GIdx) (f : BitVec 3) (s : State) : Out := fallThrough 4 s (s.amoInt .max' d a b f)

/-- The value a 16-byte AMO stores carries its tag; narrower ones store data. -/
def State.wideStored (s : State) (b : GIdx) (n : Nat) : Cap := if n = 16 then s.cap b else Cap.null

/-- Writes gB at the word of a swap. -/
def State.swapIn (s : State) (loc : Loc) (n : Nat) (v : GReg) (taint : Bool) : State :=
  if n = 16 then s.writeCapHome loc v.bits v.tag taint else s.writeHome loc (toBytes n v.bits.toNat) taint

/-- Writes the old word to gD: whole and with its tag for 16 bytes. -/
def State.oldOut (s : State) (d : GIdx) (c : Cap) (n : Nat) (signed : Bool) (g : Got) (taint : Bool) : State :=
  if n = 16 then
    let v : Cap := ⟨BitVec.ofNat 128 g.nat, true⟩
    s.setG d ⟨v.bits, c.permLdc && g.tag && !v.malformed, taint⟩
  else s.setX d (extendTo n signed g.nat) taint

def execAmoswap (d a b : GIdx) (f : BitVec 3) (s : State) : Out :=
  fallThrough 4 s (do
    let (n, signed) ← s.amoShape true
    let tb := (s.g b).taint
    let (loc, g, s1) ← s.amoOpen f a n (s.wideStored b n) tb
    return (s1.swapIn loc n (s.g b) tb).oldOut d (s.cap a) n signed g ((s.g a).taint || tb || s.eT 7 || g.taint))

def execAmocas (d a b : GIdx) (f : BitVec 3) (s : State) : Out :=
  fallThrough 4 s (do
    let (n, signed) ← s.amoShape true
    let tw := (s.g b).taint || (s.g d).taint
    let (loc, g, s1) ← s.amoOpen f a n (s.wideStored b n) tw
    let same := decide (g.nat = (s.g d).bits.toNat % 2 ^ (8 * n)) && (n != 16 || g.tag == (s.g d).tag)
    let s2 := if same then s1.swapIn loc n (s.g b) (s.g b).taint else s1
    let t := (s.g a).taint || tw || s.eT 7 || g.taint
    return (s2.oldOut d (s.cap a) n signed g t).setP7 (!same) t)

def execAmofadd (d a b : GIdx) (f : BitVec 3) (s : State) : Out :=
  fallThrough 4 s ((s.amoAlu .fadd64 8 false d a b f true).map State.taintEvent)

/-! ## Reductions (R202, R126) -/

def redOpOf (o : BitVec 3) : RedOp :=
  match o.toNat with
  | 0 => .add
  | 1 => .and'
  | 2 => .or'
  | 3 => .xor'
  | 4 => .min'
  | 5 => .max'
  | 6 => .fadd64
  | _ => .fadd32

/-- The bytes and signedness of a reduction: the integer forms take them from e7. -/
def State.redShape (s : State) (op : RedOp) : Res (Nat × Bool) :=
  match op with
  | .fadd64 => .ok (8, true)
  | .fadd32 => .ok (4, true)
  | _ => s.amoShape false

/-- A reduction enters the core's combining buffer (R126): an entry at its address with another operation, width or scope leaves for its
home first, whoever's it is, and so does an entry of its own strand that overlaps it. Every RED to memory rests there, and none travels at once (log
entry 134). -/
def State.combineRed (s : State) (r : RedReq) : State :=
  let buf := (s.core s.myCore).combine
  let mine (q : RedReq) : Bool := decide (q.owner = r.owner)
  if buf.any (fun q => mine q && q.matches' r) then
    s.modCore s.myCore (fun k => { k with combine := buf.map (fun q => if mine q && q.matches' r then q.merge r else q) })
  else
    let clash (q : RedReq) : Bool := (decide (q.loc = r.loc) && !q.matches' r) || (mine q && q.loc.overlaps q.width r.loc r.width)
    let kept := buf.filter (fun q => !clash q)
    let out := buf.filter clash
    let (out, kept) := if 32 ≤ kept.length then (out ++ kept.take 1, kept.drop 1) else (out, kept)
    let s1 : State := { s with reds := s.reds ++ out }
    s1.modCore s.myCore (fun k => { k with combine := kept ++ [r] })

/-- RED (R126, R148): one of floating-point addition is one taint event, and what routers merge of it is none (log entry 135). -/
def execRed (o : BitVec 3) (a b : GIdx) (f : BitVec 3) (s : State) : Out :=
  fallThrough 4 s (do
    let op := redOpOf o
    let (n, signed) ← s.redShape op
    let tb := (s.g b).taint || op.float
    let c := s.cap a
    let va ← capCheckAt c [0] { w := true } c.addr.toNat n n
    let (t, s1) ← s.translate s.ctx .red false va
    s1.guardTaint t.pte tb va
    let r : RedReq := ⟨s.me?, [], s.strandSrc s.cur, s.myPart, s.ctx, va, t.loc, op, n, signed, f, BitVec.ofNat 64 ((s.x b).toNat % 2 ^ (8 * n)), tb, 1⟩
    let s2 := match t.loc with
      | .mem _ => (s1.evictAt s.myCore t.loc).combineRed r
      | _ => s1.applyRed r
    (if op.float then s2.taintEvent else s2).raiseS)

/-! ## Fences and cache operations (R203) -/

def execFenceAcq (f : BitVec 3) (s : State) : Out := fallThrough 4 s (.ok (s.acquire f.toNat))
def execFenceRel (f : BitVec 3) (s : State) : Out := fallThrough 4 s (.ok (s.release f.toNat))
def execFenceFull (f : BitVec 3) (s : State) : Out := fallThrough 4 s (.ok ((s.release f.toNat).acquire f.toNat))

/-- A cache operation on the line that holds gA.ADDR; on anything but memory it ends with the check, which fills no page. -/
def State.lineOp (s : State) (acc : Acc) (need : Need) (a : GIdx) (f : State → Nat → State) : Res State := do
  let va ← capCheckAt (s.cap a) [0] need (s.cap a).addr.toNat 1 1
  let (t, s1) ← s.locate s.ctx acc false va
  match t.loc with
  | .mem pa => return f s1 (pa / 128)
  | _ => return s1

/-- The line's dirty bytes go home; the line stays, clean. -/
def State.cleanLine (s : State) (line : Nat) : State :=
  match Table.find? (s.core s.myCore).lines line with
  | none => s
  | some l => State.notice { s with
      mem := Line.writeBack s.mem line l
      cores := Table.modify s.cores s.myCore Core.fresh (fun k => { k with lines := Table.set k.lines line l.clean }) }

def State.dropLine (s : State) (line : Nat) : State :=
  s.modCore s.myCore (fun k => { k with lines := Table.erase k.lines line })

def execFenceClean (a : GIdx) (f : BitVec 3) (s : State) : Out :=
  fallThrough 4 s (s.lineOp .clean { r := true } a (fun s l => if f = 0 then s else s.cleanLine l))
def execFenceInv (a : GIdx) (_ : BitVec 3) (s : State) : Out :=
  fallThrough 4 s (s.lineOp .inval { w := true } a (fun s l => s.dropLine l))
def execFenceCleaninv (a : GIdx) (f : BitVec 3) (s : State) : Out :=
  fallThrough 4 s (s.lineOp .inval { w := true } a (fun s l => (if f = 0 then s else s.cleanLine l).dropLine l))

/-! ## WAIT (R199) -/

/-- A limit of 31 is none. -/
def within (limit : VIdx) (n : Nat) : Bool := limit == 31 || decide (n ≤ limit.toNat)

/-- The oldest report that a WAIT with these L and C limits covers (R199, R249, R262). -/
def oldestLate (l c : VIdx) (lates : List Late) : Option Late :=
  (lates.filter (fun r => if r.onC then c != 31 else l != 31)).foldl (fun best r =>
    match best with
    | some b => if r.order < b.order then some r else some b
    | none => some r) none

/-- WAIT of n bytes: waits for the counters, then delivers the oldest report it covers as a precise trap, or goes on. -/
def waitInsn (n : Nat) (l st c t : VIdx) (s : State) : Out :=
  let k := s.me.ctr
  if within l k.l && within st k.s && within c k.c && within t k.t then
    match oldestLate l c s.me.lates with
    | some r =>
      let s1 := s.modMe (fun m => { m with lates := m.lates.filter (fun q => q.order != r.order), wait := none })
      finish s1 (trapX r.cause r.tval r.extra)
    | none => fallThrough n s (.ok (s.acquire 2))
  else finish s (waitFor (.counters t.toNat c.toNat st.toNat l.toNat))

def execWait (l st c t : VIdx) (s : State) : Out := waitInsn 4 l st c t s

/-! ## WAITA (R204) -/

def execWaita (f c : BitVec 3) (a b : GIdx) (k : BitVec 3) (s : State) : Out :=
  let src := s.t2 a b
  let ended (s : State) (loc : Loc) : State :=
    let s0 := s.evictAt s.myCore loc
    let tn := match s0.readHome loc 8 with
      | some g => g.taint
      | none => false
    (s0.acquire f.toNat).setP7 false (src || tn)
  fallOrWait 4 s (
    match s.me.wait with
    | some ⟨_, .word loc _ _ _ _ _, _, hit, expired⟩ =>
      if expired then .ok ((s.setP7 true true).taintEvent, none)
      else if hit then .ok (ended s loc, none)
      else waitFor (.word loc 8 c (s.x b) false k.toNat)
    | _ => do
      let va ← capCheckAt (s.cap a) [0] { r := true } (s.cap a).addr.toNat 8 8
      let (t, s1) ← s.translate s.ctx .load false va
      match t.loc with
      | .mmio _ => trapX 0x07 va (t.pte.setWidth 128)
      | _ => do
        let s2 ← s1.scopeCheck f t.loc va
        let s3 := (s2.settleOver t.loc 8).evictAt s.myCore t.loc
        match s3.readHome t.loc 8 with
        | none => trap 0x13 va
        | some g =>
          if intCond c (BitVec.ofNat 64 g.nat) (s.x b) then return (ended s3 t.loc, none)
          else return (s3, some (.word t.loc 8 c (s.x b) false k.toNat)))

/-- The timeout of a class, in ns; none for class 0. -/
def waitaLimit (cls : Nat) : Option Nat := if cls = 0 then none else some (2 ^ (4 * cls + 6))

/-! ## Events -/

/-- Ends a wait: the strand is READY and issues its waiting instruction again. -/
def Strand.wakeUp (m : Strand) (f : WaitRec → WaitRec) : Strand := { m with status := .ready, wait := m.wait.map f }

/-- WAITA_TIMEOUT: the class's time has passed since the first issue, and no write satisfied the condition before. -/
def execWaitaTimeout (slot : Nat) (s : State) : Out :=
  let m := s.strand slot
  event s (match m.status, m.wait with
    | .waiting, some ⟨_, .word _ _ _ _ _ cls, since, false, _⟩ =>
      match waitaLimit cls with
      | some lim => if since + lim ≤ s.nowNat then some (s.setStrand slot (m.wakeUp (fun w => { w with expired := true }))) else none
      | none => none
    | _, _ => none)

/-- STORE_COMPLETE: a store reaches its completion point and S falls (R198). -/
def execStoreComplete (slot : Nat) (s : State) : Out :=
  event s (if (s.strand slot).ctr.s = 0 then none
    else some (s.modStrand slot (fun m => { m with ctr := { m.ctr with s := m.ctr.s - 1 } })))

/-- Whether a combining-buffer entry has to leave at no access of its strand: the strand has executed EXIT or is gone, or a halt of its
crew is under way (R127). -/
def State.mustFlush (s : State) (r : RedReq) : Bool :=
  let m := s.strand r.owner.slot
  !s.alive r.owner || m.exiting || m.status == .halted ||
  (s.launch? m.launch).any (fun l => l.crews.any (fun c => c.cluster == clusterOfSlot r.owner.slot && c.halting.isSome))

/-- COMBINING_FLUSH: the oldest entry that its strand's EXIT or a halt sends home leaves the buffer (R127); a release, an overlapping
access and a full buffer send entries home where they occur. -/
def execCombiningFlush (core : Nat) (s : State) : Out :=
  let buf := (s.core core).combine
  event s (match buf.findIdx? s.mustFlush with
    | none => none
    | some i => (buf[i]?).map (fun r =>
      ({ s with reds := s.reds ++ [r] } : State).modCore core (fun k => { k with combine := listDrop buf i })))

/-- Whether the routers of its partition forward a request to its home, under the reading that their check meets such requests (R391, log
entry 127). -/
def State.homeRouted (s : State) (r : RedReq) : Bool := match r.loc with
  | .mem pa =>
    let cl := homeSlice pa / 2
    natBits pa 47 40 != s.devId || (s.part r.part).hasCluster cl || (s.part r.part).pendingMap.any (·.getLsbD (meshOf cl)) || !Config.homeRouted
  | _ => true

/-- HOME_REQUEST: a home serves a reduction; of one strand's reductions to overlapping bytes the older goes first (R134, R148). -/
def execHomeRequest (index : Nat) (s : State) : Out :=
  event s (match s.reds[index]? with
    | none => none
    | some r =>
      let s1 : State := { s with reds := listDrop s.reds index }
      if (s.reds.take index).any (fun q => q.before r) then none
      else if s.homeRouted r then some (s1.applyRed r)
      else some (s1.count r.part 0x340 1))

/-- ROUTER_MERGE: two matching reductions on their way become one, at the place of the earlier, or of the later where one between them has
to be served before that one (R134). -/
def execRouterMerge (first second : Nat) (s : State) : Out :=
  event s (match s.reds[first]?, s.reds[second]? with
    | some r, some q =>
      let between := (s.reds.take second).drop (first + 1)
      if first < second ∧ mergeable r q = true then
        let m := if q.src < r.src then q.merge r else r.merge q
        if between.all (fun x => !x.before q) then some { s with reds := listSet (listDrop s.reds second) first m }
        else if between.all (fun x => !r.before x) then some { s with reds := listDrop (listSet s.reds second m) first }
        else none
      else none
    | _, _ => none)

/-- ORPHAN_REDUCTION: a dropped reduction is counted and reported with cause 0x14 (R145). -/
def execOrphanReduction (index : Nat) (s : State) : Out :=
  event s (match s.orphans[index]? with
    | none => none
    | some (r, cause) =>
      let s1 := ({ s with orphans := listDrop s.orphans index } : State).count r.part 0x330 1
      some (s1.postFault r.part {
        extra := 0#56 ++ cause ++ r.operand
        tepc := 0
        addr := r.va
        time := s.nowNat
        asid := r.ctx.asid
        stg := r.ctx.stg
        cause := 0x14
        src := r.src
        parked := false }))

/-- L1_EVICT: a line leaves a core's L1, its dirty bytes going home (R125). -/
def execL1Evict (core line : Nat) (s : State) : Out := event s (some (s.evictLine core line))

end Sys2Proof.Machine
end

