-- ==== Sys2Proof/Machine/Barrier.lean ====
section
/-!
DEFINITION. Major 0x42: cluster barriers (R205, R206, R147).
-/
namespace Sys2Proof.Machine

/-- A barrier word (R205). -/
structure Barrier where
  ovr : Bool
  ph : Bool
  bytes : Word
  arr : Word
  exp : Word
deriving DecidableEq, Repr

def Barrier.ofNat (n : Nat) : Barrier :=
  ⟨natBit n 97, natBit n 96, BitVec.ofNat 32 (natBits n 95 64), BitVec.ofNat 32 (natBits n 63 32), BitVec.ofNat 32 (natBits n 31 0)⟩

/-- The word with its fields replaced; bits 127:98 stay as they are. -/
def Barrier.toNat (b : Barrier) (high : Nat) : Nat :=
  b.exp.toNat + 2 ^ 32 * b.arr.toNat + 2 ^ 64 * b.bytes.toNat + 2 ^ 96 * b.ph.toNat + 2 ^ 97 * b.ovr.toNat + 2 ^ 98 * high

/-- Complete (R206, R147). -/
def Barrier.complete (b : Barrier) : Barrier :=
  if b.exp.ule b.arr && b.bytes == 0 then
    { b with arr := b.arr - b.exp, ph := !b.ph, ovr := b.ovr || b.arr - b.exp != 0 }
  else b

/-- The checks every barrier instruction makes, the determinism guard among them (R367), and the word's place. -/
def State.barrierAt (s : State) (a : GIdx) (acc : Acc) (taint : Bool) : Res (Dword × Loc × State) := do
  let va ← capCheckAt (s.cap a) [0] { r := true, w := true } (s.cap a).addr.toNat 16 16
  guardTrap (inScratchRange va.toNat) 0x07 va
  let (t, s1) ← s.translate s.ctx acc false va
  s1.guardTaint t.pte taint va
  let s2 ← s1.scopeCheck 2 t.loc va
  return (va, t.loc, s2)

/-- The word at its home. -/
def State.barrierGet (s : State) (va : Dword) (loc : Loc) : Res (Nat × Bool) :=
  match s.readHome loc 16 with
  | none => trap 0x13 va
  | some g => .ok (g.nat, g.taint)

/-- One served operation on a barrier word, which runs Complete afterwards. -/
def State.barrierPut (s : State) (loc : Loc) (old : Nat) (b : Barrier) (taint : Bool) : State :=
  s.writeHome loc (toBytes 16 (b.complete.toNat (natBits old 127 98))) taint

def execBinit (a b : GIdx) (s : State) : Out :=
  fallThrough 4 s (do
    let n := (s.x b).extractLsb' 0 32
    let (_, loc, s1) ← s.barrierAt a .amo ((s.g b).taint && n != 0)
    let t := s.t2 a b
    if n = 0 then return s1.setP7 true t
    else
      let w : Barrier := ⟨false, false, 0, 0, n⟩
      return (s1.writeHome loc (toBytes 16 (w.complete.toNat 0)) (s.g b).taint).setP7 false t)

/-- An arrival that adds `bytes` to the outstanding count: the phase before it and its taint. -/
def State.arrive (s : State) (a : GIdx) (bytes : Word) (taint : Bool) : Res (Bool × Bool × Loc × State) := do
  let (va, loc, s1) ← s.barrierAt a .amo taint
  let s2 := s1.release 2
  let (old, tn) ← s2.barrierGet va loc
  let b := Barrier.ofNat old
  return (b.ph, tn, loc, s2.barrierPut loc old { b with arr := b.arr + 1, bytes := b.bytes + bytes } taint)

def execBarr (d a : GIdx) (s : State) : Out :=
  fallThrough 4 s (do
    let (ph, tn, _, s1) ← s.arrive a 0 false
    return s1.setX d (BitVec.ofNat 64 ph.toNat) ((s.g a).taint || tn))
def execBarb (d a b : GIdx) (s : State) : Out :=
  fallThrough 4 s (do
    let (ph, tn, _, s1) ← s.arrive a ((s.x b).extractLsb' 0 32) (s.g b).taint
    return s1.setX d (BitVec.ofNat 64 ph.toNat) (s.t2 a b || tn))

/-- BWAIT, a served operation like the others (R206): Complete runs after it. -/
def execBwait (a b : GIdx) (s : State) : Out :=
  fallOrWait 4 s (
    match s.me.wait with
    | some ⟨_, .barrier loc phase, _, hit, _⟩ => if hit then .ok (s.acquire 2, none) else waitFor (.barrier loc phase)
    | _ => do
      let (va, loc, s1) ← s.barrierAt a .amo false
      let (old, _) ← s1.barrierGet va loc
      let w := Barrier.ofNat old
      let phase := (s.x b).getLsbD 0
      let s2 := if w.complete = w then s1 else s1.barrierPut loc old w false
      if w.ph != phase || w.complete.ph != phase then return (s2.acquire 2, none) else return (s2, some (.barrier loc phase)))

/-- BARW: the arrival, committed at once, then the wait for its phase; a wait begun does not arrive again. -/
def execBarw (d a : GIdx) (s : State) : Out :=
  match s.me.wait with
  | some ⟨_, .barrier loc phase, _, hit, _⟩ =>
    if hit then fallThrough 4 s (.ok (s.acquire 2)) else finish s (waitFor (.barrier loc phase))
  | _ =>
    match s.arrive a 0 false with
    | .error e => finish s (.error e)
    | .ok (ph, tn, loc, s1) =>
      let s2 := s1.setX d (BitVec.ofNat 64 ph.toNat) ((s.g a).taint || tn)
      if natBit (s2.homeNat loc 16) 96 != ph then fallThrough 4 s2 (.ok (s2.acquire 2))
      else .next (s2.beginWait (.barrier loc ph))

def execBdrop (a : GIdx) (s : State) : Out :=
  fallThrough 4 s (do
    let (va, loc, s1) ← s.barrierAt a .amo false
    let (old, tn) ← s1.barrierGet va loc
    let b := Barrier.ofNat old
    let t := (s.g a).taint || tn
    if b.exp.toNat ≤ 1 then return s1.setP7 true t
    else return (s1.barrierPut loc old { b with exp := b.exp - 1 } false).setP7 false t)

/-- A COPYB credit: the landed bytes leave BYTES (R206). -/
def State.credit (s : State) (loc : Loc) (landed : Nat) (taint : Bool) : State :=
  let old := s.homeNat loc 16
  let b := Barrier.ofNat old
  s.barrierPut loc old { b with bytes := b.bytes - BitVec.ofNat 32 landed } taint

end Sys2Proof.Machine
end

