-- ==== Sys2Proof/Machine/Tasks.lean ====
section
/-!
DEFINITION. Strands and task records (R27 to R29, R326 to R328): creating a strand, reading a record, and pushing one to a
ready ring or to the device-wide queue.
-/
namespace Sys2Proof.Machine

namespace State

/-- The ASID and root page table of a launch's strands; the standing launch has the partition's default pair (R325). -/
def spaceOf (s : State) (k : LaunchId) : BitVec 16 × BitVec 36 :=
  match s.launch? k with
  | some l => (l.asid, l.root)
  | none => ((s.part k.part).reg 0x060 |>.extractLsb' 0 16, (s.part k.part).reg 0x068 |>.extractLsb' 12 36)

/-- The control registers of a new strand of a launch (R28, R306). -/
def freshCsr (s : State) (k : LaunchId) : Csr := { Csr.fresh with asid := (s.spaceOf k).1, ptbr := (s.spaceOf k).2 }

/-- Starts a strand in a FREE slot; its core acquires what its creator released (R191, R192). -/
def createStrand (s : State) (slot : Nat) (m : Strand) : State :=
  let (n, s1) := s.nextSerial
  (s1.setStrand slot { m with status := .ready, born := n }).dropClean (coreOfSlot slot)

/-- The launch that holds a cluster, if one does (R319, R321). -/
def holder (s : State) (part cluster : Nat) : Option LaunchId :=
  ((s.part part).launches.find? (fun l => l.crews.any (fun c => c.cluster == cluster && !c.out && !c.gone))).map (·.id)

end State

/-! ## Task records (R326) -/

/-- A record from its 64 bytes as four granules with tags. -/
def TaskRec.ofGranules (code frame g2 g3 : GReg) (launch : Option LaunchId) : TaskRec where
  code := ⟨code.bits, code.tag⟩
  frame := ⟨frame.bits, frame.tag⟩
  codeTaint := code.taint
  frameTaint := frame.taint
  restTaint := g2.taint || g3.taint
  jaddr := g2.bits.extractLsb' 0 64
  key := g2.bits.extractLsb' 96 32
  byp := 0
  hint := g3.bits.extractLsb' 64 64
  rsv := g3.bits.extractLsb' 0 64 ++ g2.bits.extractLsb' 64 32
  bad := g2.bits.extractLsb' 64 32 != 0 || g3.bits.extractLsb' 0 64 != 0
  launch := launch
  callee := none

/-- A record's third and fourth granules. -/
def TaskRec.granule2 (r : TaskRec) : Qword := r.key ++ r.rsv.extractLsb' 0 32 ++ r.jaddr
def TaskRec.granule3 (r : TaskRec) : Qword := r.hint ++ r.rsv.extractLsb' 32 64

/-- The cause that keeps a record from starting (R29, R326), or its code capability unsealed. A kind-4 entry needs no X here, and a sealed
capability of kind 0 is not stopped here: the strand's first fetch is. -/
def TaskRec.check (r : TaskRec) : Except (BitVec 8) Cap :=
  if r.bad then .error 0x01
  else if !r.code.tag then .error 0x04
  else if !(r.code.kind == 4 || (r.code.kind == 0 && r.code.permX)) then .error 0x03
  else
    let c := if r.code.kind = 4 then (r.code.withKind 0).withOtype 0 else r.code
    if decide (c.addr.toNat < c.base) || decide (c.top ≤ c.addr.toNat) then .error 0x02
    else .ok c

/-! ## The device-wide queue (R328) -/

/-- The clusters of a partition in increasing device index. -/
def Part.clusters (p : Part) : List Nat := (List.range 64).filter p.hasCluster
/-- Its L2 slices in increasing device slice index. -/
def Part.slices (p : Part) : List Nat := p.clusters.flatMap (fun c => [2 * c, 2 * c + 1])
/-- Mix (R328). -/
def mixKey (k : Word) : Nat := ((k * 0x9E3779B1#32) >>> 16).toNat
/-- The segment of a key. -/
def Part.segmentOf (p : Part) (k : Word) : Nat :=
  if k.toNat < 64 ∧ p.hasCluster k.toNat = true then 2 * k.toNat
  else p.slices.getD (mixKey k % p.slices.length) 0
/-- The records a segment holds (R389). -/
def Part.segmentCap (p : Part) : Nat := 2 ^ ((p.reg 0x048).extractLsb' 0 5).toNat

/-- Writes a record's 64 bytes with the tags of its capabilities. -/
def Memory.putRec (m : Memory) (a : Nat) (r : TaskRec) : Memory :=
  (((m.storeCap a r.code.bits r.code.tag r.codeTaint).storeCap (a + 16) r.frame.bits r.frame.tag r.frameTaint).storeCap
    (a + 32) r.granule2 false r.restTaint).storeCap (a + 48) r.granule3 false r.restTaint

/-- The i-th record of a core's ring as its page holds it, with the launch it belongs to and its callee (R327). -/
def Core.ringRec (k : Core) (i : Nat) (r : TaskRec) : TaskRec :=
  let a := 64 * ((k.ringHead + i) % 64)
  let gr (j : Nat) : GReg :=
    let c := k.ringBytes.cap (a + 16 * j)
    ⟨c.bits, c.tag && !c.malformed, k.ringBytes.anyTaint (a + 16 * j) 16⟩
  { TaskRec.ofGranules (gr 0) (gr 1) (gr 2) (gr 3) r.launch with callee := r.callee }

namespace State

/-- Appends a record to its segment; `none` when the segment is full. -/
def pushSegment (s : State) (part : Nat) (r : TaskRec) : Option State :=
  let p := s.part part
  let k := p.segmentOf r.key
  let q := p.segments.getD k []
  if p.segmentCap ≤ q.length then none
  else some (s.modPart part (fun p => { p with segments := Table.set p.segments k (q ++ [r]) }))

/-- The same, the record being held at a full segment (R193, R288). -/
def pushOrHold (s : State) (part : Nat) (r : TaskRec) : State :=
  let p := s.part part
  let k := p.segmentOf r.key
  let held := p.heldRecs.getD k []
  match if held.isEmpty then s.pushSegment part r else none with
  | some s1 => s1
  | none => s.modPart part (fun p => { p with heldRecs := Table.set p.heldRecs k (held ++ [r]) })

/-- Appends a record to a core's ready ring; `none` when its 64 places are taken (R327). -/
def pushRing (s : State) (core : Nat) (r : TaskRec) : Option State :=
  if 64 ≤ (s.core core).ring.length then none
  else some (s.modCore core (fun k => { k with
    ring := k.ring ++ [r]
    ringBytes := k.ringBytes.putRec (64 * ((k.ringHead + k.ring.length) % 64)) r }))

/-- The records of a core's ring, oldest first, as its page holds them. -/
def ringRecs (s : State) (core : Nat) : List TaskRec := (s.core core).ring.mapIdx (fun i r => (s.core core).ringRec i r)

/-- Takes the oldest record of a core's ring. -/
def popRing (s : State) (core : Nat) : Option (TaskRec × State) := match s.ringRecs core with
  | [] => none
  | r :: _ => some (r, s.modCore core (fun k => { k with ring := k.ring.drop 1, ringHead := (k.ringHead + 1) % 64 }))

/-- Keeps of a core's ring the records that a test picks. -/
def filterRing (s : State) (core : Nat) (keep : TaskRec → Bool) : State :=
  let l := s.ringRecs core
  if l.all keep then s
  else (l.filter keep).foldl (fun (s : State) r => (s.pushRing core r).getD s) (s.modCore core (fun k => { k with ring := [] }))

/-- A task record through a capability, as ENQG and ENQL read it (R192). -/
def readTask (s : State) (a : GIdx) : Res (TaskRec × State) := do
  let va ← capCheckAt (s.cap a) [0] { r := true, ldc := true } (s.cap a).addr.toNat 64 16
  let granule (s : State) (k : Nat) : Res (GReg × State) := do
    let (g, s1) ← s.loadAt (if k < 2 then .capLoad else .load) (va + BitVec.ofNat 64 (16 * k)) 16
    let b : Qword := BitVec.ofNat 128 g.nat
    return (⟨b, g.tag && !(Cap.malformed ⟨b, true⟩), g.taint⟩, s1)
  let (g0, s0) ← granule s 0
  let (g1, s1) ← granule s0 1
  let (g2, s2) ← granule s1 2
  let (g3, s3) ← granule s2 3
  return (TaskRec.ofGranules g0 g1 g2 g3 none, s3)

end State

/-- ENQG (R192). -/
def execEnqg (a : GIdx) (s : State) : Out :=
  fallThrough 4 s (do
    let (r, s1) ← s.readTask a
    let t := (s.g a).taint || r.codeTaint || r.frameTaint || r.restTaint
    match (s1.release 4).pushSegment s.myPart r with
    | some s2 => return s2.setP7 false t
    | none => return (s1.release 4).setP7 true t)

/-- ENQL (R192): B = 0 names the strand's own core. -/
def execEnql (a b : GIdx) (s : State) : Out :=
  fallThrough 4 s (do
    let (r, s1) ← s.readTask a
    let core := if b = 0 then s.myCore else 32 * s.myCluster + (s.x b).toNat % 32
    let t := s.t2 a b || r.codeTaint || r.frameTaint || r.restTaint
    match (s1.release 2).pushRing core { r with launch := some s.me.launch } with
    | some s2 => return s2.setP7 false t
    | none => return (s1.release 2).setP7 true t)

/-- JDEC (R193): a record pushed to the device-wide queue carries no launch (log entry 111); the counter falls at its home as one operation, and its record is pushed when it reaches zero.
Its leaf rights and the cause of a counter in a host window are log entry 139. -/
def execJdec (d a : GIdx) (s : State) : Out :=
  fallThrough 4 s (do
    let c := s.cap a
    let va ← capCheckAt c [0] { r := true, w := true } c.addr.toNat 80 16
    let (t, s0) ← s.translate s.ctx .amo false va
    let s1 ← (List.range 4).foldlM (fun (s : State) k =>
      (s.translate s.ctx (if k < 2 ∧ c.permLdc = true then .capLoad else .engineRead) false (va + BitVec.ofNat 64 (16 * (k + 1)))).map (·.2)) s0
    let ring := match t.loc with
      | .scratch core _ _ _ => some core
      | _ => none
    let s2 := ((s1.settleOver t.loc 80).release (if ring.isSome then 2 else 4)).evictAt s.myCore t.loc
    match s2.readHome t.loc 8 with
    | none => trap 0x13 va
    | some g =>
      let tn := (s.g a).taint || g.taint
      if g.nat = 0 then return (s2.setP7 true tn).setX d 0 tn
      else
        let s3 := s2.writeHome t.loc (toBytes 8 (g.nat - 1)) false
        let out (s : State) : State := (s.setP7 false tn).setX d (BitVec.ofNat 64 g.nat) tn
        if g.nat ≠ 1 then return out s3
        else
          let ldc := c.permLdc
          let at' (k : Nat) : Dword := va + BitVec.ofNat 64 (16 + 16 * k)
          let (g0, s4) ← s3.readCapVirt s.ctx ldc (at' 0)
          let (g1, s5) ← s4.readCapVirt s.ctx ldc (at' 1)
          let (g2, s6) ← s5.readCapVirt s.ctx false (at' 2)
          let (g3, s7) ← s6.readCapVirt s.ctx false (at' 3)
          let r := TaskRec.ofGranules g0 g1 g2 g3 none
          match ring with
          | some core =>
            match s7.pushRing core { r with launch := some s.me.launch } with
            | some s8 => return out s8
            | none => return out (s7.pushOrHold s.myPart r)
          | none => return out (s7.pushOrHold s.myPart r))

/-- HELD_RECORD_PUSH: the oldest record held at a segment is appended once there is room (R193, R288). -/
def execHeldRecordPush (part slice : Nat) (s : State) : Out :=
  let p := s.part part
  let q := p.segments.getD slice []
  event s (match p.heldRecs.getD slice [] with
    | [] => none
    | r :: rest =>
      if p.segmentCap ≤ q.length then none
      else some (s.modPart part (fun p => { p with
        segments := Table.set p.segments slice (q ++ [r])
        heldRecs := Table.set p.heldRecs slice rest })))

/-! ## Load levelling (R39) -/

/-- How many records a core gives in a round, and to which ring position: the neighbour with the lesser occupancy, the lower
position on a tie. -/
def levelMove (occ : List Nat) (p : Nat) : Nat × Nat :=
  let a := occ.getD p 0
  let l := (p + 31) % 32
  let r := (p + 1) % 32
  let (lo, hi) := if l < r then (l, r) else (r, l)
  let q := if occ.getD hi 0 < occ.getD lo 0 then hi else lo
  let b := occ.getD q 0
  (if b + 8 < a then (a - b) / 2 else 0, q)

/-- BALANCE_ROUND: all moves come from one snapshot; donors are taken in ring order, each limited to the receiver's space. A donor that
has received records earlier in the round gives the youngest of its ring as it then stands (log entry 112). -/
def execBalanceRound (cluster : Nat) (s : State) : Out :=
  let occ := tabulate 32 (fun p => (s.core (32 * cluster + p)).ring.length)
  event s (some ((List.range 32).foldl (fun (s : State) p =>
    let (n, q) := levelMove occ p
    let donor := 32 * cluster + p
    let taker := 32 * cluster + q
    let give := s.ringRecs donor
    let n := min (min n give.length) (64 - (s.core taker).ring.length)
    let keep := give.length - n
    if n = 0 then s
    else (give.drop keep).foldl (fun (s : State) r => (s.pushRing taker r).getD s)
      (s.modCore donor (fun k => { k with ring := k.ring.take keep }))) s))

end Sys2Proof.Machine
end

