-- ==== Sys2Proof/Machine/Control.lean ====
section
/-!
DEFINITION. Majors 0x20 to 0x27 and 0x2A: branches, jumps, REP, follow groups, SPAWN, YIELD, NOP and SLEEP (R184 to R191,
R194, R34 to R38).
-/
namespace Sys2Proof.Machine

/-! ## Branches (R184) -/

/-- A branch target: a number of halfwords from the branching instruction. -/
def State.branchTo (s : State) (off : Int) : State := s.setPc (s.pc + BitVec.ofInt 64 (2 * off))

/-- Link: PCC at the next instruction, its taint clear. -/
def State.link (s : State) (n : Nat) : GReg :=
  let c := s.me.pcc.move (s.pc + BitVec.ofNat 64 n)
  ⟨c.bits, c.tag, false⟩

def execBr (i : BitVec 21) (s : State) : Out := finish s (.ok (s.branchTo i.toInt))
def execCall (i : BitVec 21) (s : State) : Out := finish s (.ok ((s.setG 1 (s.link 4)).branchTo i.toInt))

/-- BRC of n bytes: taken when bit 0 of the predicate differs from N. -/
def brcInsn (n : Nat) (p : PIdx) (neg : Bool) (off : Int) (s : State) : Out :=
  finish s (.ok (if (s.p p).bits.getLsbD 0 != neg then s.branchTo off else s.advance n))
def execBrc (p : PIdx) (n : Bool) (i : BitVec 17) (s : State) : Out := brcInsn 4 p n i.toInt s

def execLoop (d : GIdx) (i : BitVec 9) (s : State) : Out :=
  let v := s.x d - 1
  let s1 := s.setX d v (s.g d).taint
  finish s (.ok (if v ≠ 0 then s1.branchTo i.toInt else s1.advance 4))

/-! ## Jumps (R186) -/

/-- JumpTarget: the capability PCC becomes. -/
def jumpTarget (c : Cap) : Res Cap :=
  if !c.tag then capTrap c 0x04 c.addr
  else
    let u : Cap := if c.kind = 4 then (c.withKind 0).withOtype 0 else c
    if u.otype ≠ 0 then capTrap c 0x05 c.addr
    else if u.kind ≠ 0 then capTrap c 0x03 c.addr
    else if !u.permX then capTrap c 0x03 c.addr
    else if u.addr.getLsbD 0 then capTrap c 0x08 c.addr
    else .ok u

def State.setPcc (s : State) (c : Cap) : State := s.modMe (fun m => { m with pcc := c, pccFar := none })

/-- A jump through a register, with a link of n bytes if one is written. -/
def jumpInsn (target : GIdx) (link : Option (GIdx × Nat)) (s : State) : Out :=
  finish s ((jumpTarget (s.cap target)).map (fun c =>
    (match link with
     | some (d, n) => s.setG d (s.link n)
     | none => s).setPcc c))

def execJr (a : GIdx) (s : State) : Out := jumpInsn a none s
def execJalr (d a : GIdx) (s : State) : Out := jumpInsn a (some (d, 4)) s
def execRet (s : State) : Out := jumpInsn 1 none s

/-! ## REP (R188, R189) -/

def repiValid (r : Dword) : Bool := r.getLsbD 63
def repiIdx (r : Dword) : Nat := (r.extractLsb' 56 3).toNat
def repiCount (r : Dword) : Nat := (r.extractLsb' 28 28).toNat
def repiIter (r : Dword) : Nat := (r.extractLsb' 0 28).toNat

/-- REP captures its body and starts it; the body's instructions then issue one by one, and the PC stays here. -/
def execRep (a stride : GIdx) (l : BitVec 3) (s : State) : Out :=
  finish s (do
    let len := l.toNat + 1
    let (body, s1) ← s.captureBody s.pc.toNat len
    let repi := s.me.csr.repi
    let resume := s.me.resumed && repiValid repi
    if resume && decide (len ≤ repiIdx repi) then trap 0x01 repi
    else
      let s2 := s1.modCsr (fun c => { c with repi := c.repi &&& ~~~(1#64 <<< 63) })
      let count := if resume then repiCount repi else ((s.x a).extractLsb' 0 28).toNat
      let first := if resume then repiIter repi else 0
      if count ≤ first then return s2.setPc (s.pc + BitVec.ofNat 64 (4 + 4 * len))
      else return s2.modMe (fun m => { m with rep := some ⟨body, stride.toNat, count, first, if resume then repiIdx repi else 0⟩ }))

/-! ## Follow groups (R34 to R38, R190) -/

def State.findChain (s : State) (cluster id : Nat) : Option Chain :=
  (Table.getD s.chains cluster []).find? (fun c => c.id == id)

/-- A stage whose descriptor forbids follow groups (R190, R283). -/
def State.followGuard (s : State) : Res Unit :=
  match s.me.chain with
  | none => .ok ()
  | some r =>
    match s.findChain r.cluster r.id with
    | none => .ok ()
    | some c => guardTrap ((c.stages[r.stage]?).all (·.fg)) 0x0C 7

/-- All slots with a record, the strand at issue included. -/
def State.allStrands (s : State) : List (Nat × Strand) := (s.cur, s.me) :: s.others

/-- The leader of a group of the strand's crew. -/
def State.leaderOf (s : State) (gid : Nat) : Option (Nat × Strand × Follow) :=
  s.allStrands.findSome? (fun e =>
    match e.2.follow with
    | some f =>
      if f.hop = 0 ∧ f.gid = gid ∧ clusterOfSlot e.1 = s.myCluster ∧ e.2.launch = s.me.launch ∧ e.2.status ≠ .free then some (e.1, e.2, f) else none
    | none => none)

def execFollow (a i : GIdx) (s : State) : Out :=
  fallThrough 4 s (do
    s.followGuard
    let n := (s.x a).toNat % 64
    let t := (s.g a).taint
    if s.me.follow.isSome || (s.leaderOf i.toNat).isSome || n == 0 || decide (32 < n) then return s.setP7 true t
    else return (s.modMe (fun m => { m with follow := some ⟨i.toNat, s.cur, 0, n, false, false, [], false⟩ })).setP7 false t)

def execDetach (s : State) : Out := fallThrough 4 s (.ok (s.modMe Strand.detach))

/-- The leader's group ends at an instruction of n bytes: attached followers go on past it, the others are out at once. -/
def State.endGroup (s : State) (n : Nat) : State :=
  match s.me.follow with
  | none => s
  | some f =>
    let s1 := if f.hop = 0 then
        s.mapFollowers (fun m g => { m with follow := if g.attached then some { g with stream := g.stream ++ [.leave n] } else none })
      else s
    s1.modMe (fun m => { m with follow := none })

def execFquit (s : State) : Out := fallThrough 4 s (.ok (s.endGroup 4))

/-- One more missed join (R37, R306). -/
def State.missJoin (s : State) : State :=
  s.modCtr (fun c => { c with mj := min (c.mj + 1) 65535 })

/-- The leader's RJOIN: followers waiting at this address are attached from the next instruction on; the others have missed it. -/
def State.joinFollowers (s : State) : State :=
  (s.mapFollowers (fun m g =>
    match m.status, m.wait with
    | .waiting, some ⟨_, .join _ true, _, false, false⟩ =>
      if m.pcc.addr = s.pc then
        { m.setPc (s.pc + 4) with
          status := .ready
          wait := none
          follow := some { g with attached := true, missed := false, stream := [] } }
      else { m with follow := some { g with missed := true } }
    | _, _ => if g.attached then m else { m with follow := some { g with missed := true } })).modMe (fun m =>
      { m with follow := m.follow.map (fun f => { f with missed := true }) })

/-- A detached follower at RJOIN: waits for its leader, or goes on with a missed join. -/
def State.awaitJoin (s : State) (f : Follow) : Res (State × Option WaitOn) :=
  if f.missed then .ok ((s.modMe (fun m => { m with follow := some { f with missed := false } })).missJoin, none)
  else .ok (s.modMe (fun m => { m with follow := some f }), some (.join f.gid true))

def execRjoin (i : GIdx) (s : State) : Out :=
  fallOrWait 4 s (do
    s.followGuard
    match s.me.follow, s.me.wait with
    | some f, w =>
      if f.hop = 0 then return (if f.gid = i.toNat then s.joinFollowers else s, none)
      else if f.attached || f.gid != i.toNat then return (s, none)
      else
        match w with
        | some ⟨_, _, _, hit, expired⟩ => if hit || expired then return (s.missJoin, none) else return (s, some (.join f.gid true))
        | none => s.awaitJoin f
    | none, some ⟨_, .join _ true, _, _, _⟩ => return (s.missJoin, none)
    | none, w =>
      if w.any (·.expired) then return (s, none)
      else
        match s.leaderOf i.toNat with
        | none => return (s, some (.join i.toNat false))
        | some (slot, _, f) =>
          let hop := (ringOfCore s.myCore + 32 - ringOfCore (coreOfSlot slot)) % 32
          let taken := s.others.any (fun e => coreOfSlot e.1 == s.myCore && e.2.launch == s.me.launch &&
            e.2.follow.any (fun g => g.gid == f.gid && g.leader == slot && !g.gone))
          if hop == 0 || decide (f.span ≤ hop) || taken then return (s, none)
          else s.awaitJoin ⟨f.gid, slot, hop, f.span, false, f.missed, [], false⟩)

/-- RJOIN_TIMEOUT: 1,024 cycles of the follower's core have passed (R37); cycles are not counted (log entry 1). -/
def execRjoinTimeout (slot : Nat) (s : State) : Out :=
  let m := s.strand slot
  event s (match m.status, m.wait with
    | .waiting, some ⟨_, .join _ _, _, false, _⟩ => some (s.setStrand slot (m.wakeUp (fun w => { w with expired := true })))
    | _, _ => none)

/-- FOLLOWER_LAG_DETACH: a follower 16 instructions behind its hop's stream detaches (R36). -/
def execFollowerLagDetach (slot : Nat) (s : State) : Out :=
  event s (if (s.strand slot).follow.any (fun f => f.attached && decide (16 ≤ f.stream.length))
    then some (s.modStrand slot Strand.detach) else none)

/-- FOLLOWER_ISSUE: the follower's turn comes at once; its issue turn takes the head of its stream (R35). -/
def execFollowerIssue (slot : Nat) (s : State) : Out :=
  event s (if (s.strand slot).follow.any (fun f => f.attached && !f.stream.isEmpty)
    then some { s with agenda := ⟨0, .issue slot⟩ :: s.agenda } else none)

/-! ## SPAWN (R191) -/

/-- The cores a SPAWN may use, in ring order from the parent's. -/
def spawnCores (core place rpos : Nat) : List Nat :=
  let cl := core / 32
  let p := core % 32
  match place with
  | 0 => [core]
  | 1 => (List.range 4).map (fun k => core / 4 * 4 + (core % 4 + k) % 4)
  | 2 => (List.range 32).map (fun k => 32 * cl + (p + k) % 32)
  | _ => [32 * cl + rpos]

/-- The first FREE slot of some cores, lowest slot first. -/
def State.freeSlot (s : State) (cores : List Nat) : Option Nat :=
  (cores.flatMap (fun c => [4 * c, 4 * c + 1, 4 * c + 2, 4 * c + 3])).find? (fun k => (s.strand k).status == .free)

/-- The code capability of a child (R191). -/
def childCode (c : Cap) : Res Cap := do
  let u ← jumpTarget c
  if decide (u.addr.toNat < u.base) || decide (u.top ≤ u.addr.toNat) then capTrap c 0x02 c.addr else return u

/-- Copies a range of registers, as far as the file reaches. -/
def copyG (src : Regs) (first count : Nat) (dst : Regs) : Regs :=
  (List.range count).foldl (fun r k => if first + k < 64 then r.wg (BitVec.ofNat 6 (first + k)) (src.rg (BitVec.ofNat 6 (first + k))) else r) dst
def copyV (src : Regs) (first count : Nat) (dst : Regs) : Regs :=
  (List.range count).foldl (fun r k => if first + k < 32 then r.wv (BitVec.ofNat 5 (first + k)) (src.rv (BitVec.ofNat 5 (first + k))) else r) dst

def spawnInsn (vecs : Bool) (a b : GIdx) (s : State) : Out :=
  fallThrough 4 s (do
    let code ← childCode (s.cap a)
    let w := (s.x b).toNat
    let t := s.t2 a b
    let s1 := s.release 2
    match s1.freeSlot (spawnCores s.myCore (natBits w 17 16) (natBits w 28 24)) with
    | none => return s.setP7 true t
    | some slot =>
      let regs := copyG s.me.regs (natBits w 5 0) (natBits w 13 8) Regs.fresh
      let regs := if vecs then copyV s.me.regs (natBits w 36 32) (natBits w 44 40) regs else regs
      let csr := { s.freshCsr s.me.launch with frm := s.me.csr.frm, trapv := s.me.csr.trapv }
      return (s1.createStrand slot { Strand.fresh with regs := regs, pcc := code, csr := csr, launch := s.me.launch }).setP7 false t)

def execSpawn (a b : GIdx) (s : State) : Out := spawnInsn false a b s
def execSpawnc (a b : GIdx) (s : State) : Out := spawnInsn true a b s

/-! ## YIELD, NOP and SLEEP (R194) -/

def execYield (s : State) : Out := fallThrough 4 s (.ok (s.modMe (fun m => { m with yielded := true })))
def execNop (s : State) : Out := fallThrough 4 s (.ok s)

/-- SLEEP #k: waits until 2^k ns of TIME have passed since it first issued. -/
def execSleep (k : GIdx) (s : State) : Out :=
  fallThrough 4 s (
    match s.me.wait with
    | some w => if w.since + 2 ^ k.toNat ≤ s.nowNat then .ok s else waitFor (.sleep (w.since + 2 ^ k.toNat))
    | none => waitFor (.sleep (s.nowNat + 2 ^ k.toNat)))

/-- SLEEP_EXPIRY: the interval has passed. -/
def execSleepExpiry (slot : Nat) (s : State) : Out :=
  let m := s.strand slot
  event s (match m.status, m.wait with
    | .waiting, some ⟨_, .sleep until', _, _, _⟩ =>
      if until' ≤ s.nowNat then some (s.setStrand slot (m.wakeUp (fun w => { w with hit := true }))) else none
    | _, _ => none)

/-! ## Illegal instructions (R162, R163) -/

/-- ILLEGAL_INSTRUCTION: cause 0x01 with the word, or the halfword zero-extended, in TVAL. -/
def execIllegalInstruction (word : Word) (half : Bool) (s : State) : Out :=
  finish s (trap 0x01 (if half then (word.setWidth 16).setWidth 64 else word.setWidth 64))

end Sys2Proof.Machine
end

