-- ==== Sys2Proof/Machine/Engine.lean ====
section
/-!
DEFINITION. What the engines share (R44, R138, R235): reads and writes at home for a command's context, whose commands may go
on, late fault records (R338), and telemetry records (R417, R418).
-/
namespace Sys2Proof.Machine

/-- The command that waits for what a spill ring has caught of an engine. -/
def SpillBody.sender? : SpillBody → Option Sender
  | .handle _ => none
  | .write q .. => some q
  | .credit q .. => some q
  | .red q _ => some q

namespace State

/-- What a unit of the device makes an access under for an address space: with supervisor privilege, for no strand. -/
def unitCtx (part : Nat) (asid : BitVec 16) (root : BitVec 36) : Ctx := ⟨asid, root, true, 0, part, false, 0⟩

/-- Whether an owner's commands may go on: those of a halted strand, and of a PARKED one of a halted crew, wait for the crew's
resumption (R244, R341). -/
def mayRun (s : State) (o : Owner) : Bool :=
  let m := s.strand o.slot
  !(s.alive o && (m.status == .halted || (m.status == .parked && (s.placed? (s.crewOf o.slot)).any (·.halted))))

/-- One taint event of another slot's strand (R150, R306). -/
def taintAt (s : State) (slot : Nat) (b : Bool) : State :=
  if b then
    s.modStrand slot (fun m => { m with csr := { m.csr with
      taintSticky := true
      taintCount := if m.csr.taintCount = BitVec.allOnes 32 then m.csr.taintCount else m.csr.taintCount + 1 } })
  else s

/-- A tainted value that an engine writes to the host is a taint event of its strand (R56). -/
def lostBy (s : State) (o : Owner) (loc : Loc) (taint : Bool) : State :=
  match loc with
  | .host _ => s.taintAt o.slot (taint && s.alive o)
  | _ => s

/-- The spill ring's places: 256 KiB of 64-B records (R342, R411). -/
def spillRoom (l : List Spill) : Bool := decide (l.length < 4096)

/-- The contexts that have been taken out of their slots, of the crews that a test picks (R322, R411). -/
def savedContexts (s : State) (pick : Placed → Bool) : List (Nat × SavedStrand) :=
  s.parts.flatMap (fun p => (p.2.standing ++ p.2.launches.flatMap (·.crews)).flatMap (fun c => if pick c && !c.gone then c.saved else []))

/-- Whether a context is halted, in its slot or out of it. -/
def contextAway (s : State) (o : Owner) : Bool :=
  let m := s.strand o.slot
  (m.status == .halted && m.born == o.born) || (s.savedContexts (fun _ => true)).any (fun x => x.1 == o.slot && x.2.strand.born == o.born)

/-- The context that an engine's write to a window is for, when it is halted or the ring still holds messages for it (R342, R411). -/
def windowHolder (s : State) (c : Ctx) : Loc → Option Owner
  | .scratch core _ _ _ =>
    let here := ([0, 1, 2, 3].map (4 * core + ·)).findSome? (fun q =>
      let m := s.strand q
      let o : Owner := ⟨q, m.born⟩
      if m.csr.asid = c.asid ∧ (m.status = .halted ∨ (Table.getD s.spills (clusterOfSlot q) []).any (fun x => decide (x.owner = o)) = true)
      then some o else none)
    here <|> (s.savedContexts (fun c => !c.out)).findSome? (fun x =>
      if coreOfSlot x.1 = core ∧ x.2.strand.csr.asid = c.asid then some ⟨x.1, x.2.strand.born⟩ else none)
  | _ => none

/-- What an engine does in the window of a halted context goes to the spill ring of the context's cluster. A full ring, and a context whose
caught messages have not all replayed, leave it at its sender (R342). -/
def caught (s : State) (o : Owner) (b : SpillBody) : Res State :=
  let cl := clusterOfSlot o.slot
  if s.contextAway o && State.spillRoom (Table.getD s.spills cl []) then
    .ok { s with spills := Table.modify s.spills cl [] (fun r => r ++ [⟨o, b⟩]) }
  else stall

/-- Whether something caught and not replayed yet, in a spill ring or in a saved context, comes of a sender that a test picks; its command
stays outstanding (R342). -/
def spilledBy (s : State) (f : Sender → Bool) : Bool :=
  (s.spills.flatMap (·.2) ++ (s.savedContexts (fun _ => true)).flatMap (·.2.spills)).any (fun x => x.body.sender?.any f)
def spilled (s : State) (q : Sender) : Bool := s.spilledBy (fun p => decide (p = q))

/-- An engine's write of bytes at their homes, for a command, under the determinism guard (R367). -/
def engineWrite (s : State) (q : Sender) (o : Owner) (c : Ctx) (va : Dword) (bs : List Byte) (taint : Bool) : Res State :=
  (piecesOf va bs.length).foldlM (fun (s : State) p =>
    match s.translate c .engineWrite false p.1 with
    | .error e => .error e
    | .ok (t, s1) =>
      if taint && c.dmode && Pte.dg t.pte then trap 0x0F p.1
      else
        let part := (bs.drop p.2.1).take p.2.2
        match s1.windowHolder c t.loc with
        | some h => s1.caught h (.write q c p.1 part false taint false)
        | none => .ok ((s1.writeHome t.loc part taint).lostBy o t.loc taint)) s

/-- A fault record for work whose strand has exited (R237, R249, R338), under the strand's own number and stage (log entry 119). -/
def lateRecord (s : State) (part : Nat) (c : Ctx) (src : Nat) (cause : BitVec 8) (addr : Dword) (extra : Qword) : State :=
  s.postFault part {
    extra := extra
    tepc := 0
    addr := addr
    time := s.nowNat
    asid := c.asid
    stg := c.stg
    cause := cause
    src := src
    parked := false }

/-- The taint of n bytes of a place as they stand at home. -/
def homeTaint (s : State) : Loc → Nat → Bool
  | .mem pa, n => s.mem.anyTaint pa n
  | .scratch c page frame off, n =>
    match s.findPage c page frame with
    | some p => p.bytes.anyTaint off n
    | none => s.mem.anyTaint (frame + off) n
  | _, _ => false

/-! ## The rotation among a quad's queues (R44) -/

/-- The other cores of a core's quad. -/
def quadMates (core : Nat) : List Nat := ([0, 1, 2, 3].map (4 * (core / 4) + ·)).filter (· != core)

/-- Whether a unit may serve a core: of the cores that were waiting for the unit when it last served this one, none waits still. -/
def mayServe (s : State) (u : QuadUnit) (waits : Nat → Bool) (core : Nat) : Bool :=
  (quadMates core).all (fun y => !((s.core core).passed.contains (u, y) && waits y))

/-- A unit has served a core, which no other core lets go first any more; those that wait come before it. -/
def servedBy (s : State) (u : QuadUnit) (waits : Nat → Bool) (core : Nat) : State :=
  let s1 := (quadMates core).foldl (fun (s : State) y =>
    if (s.core y).passed.contains (u, core) then s.modCore y (fun k => { k with passed := k.passed.filter (· != (u, core)) }) else s) s
  s1.modCore core (fun k => { k with passed := k.passed.filter (fun p => p.1 != u) ++ ((quadMates core).filter waits).map (fun y => (u, y)) })

/-! ## Telemetry (R417, R418) -/

/-- The place of the telemetry slot for a sequence number. -/
def telSlot (s : State) (part seq : Nat) : Nat :=
  let b := (s.part part).reg 0x090
  (b.extractLsb' 12 36).toNat * 4096 + 64 * (seq % 2 ^ ((b.extractLsb' 0 4).toNat + 6))

/-- How many slots the telemetry ring has. -/
def telSlots (s : State) (part : Nat) : Nat := 2 ^ ((((s.part part).reg 0x090).extractLsb' 0 4).toNat + 6)

/-- Whether the ring has no slot for a record made now: the one that would be reserved is occupied, or each is reserved already. -/
def telFull (s : State) (part : Nat) : Bool :=
  let p := s.part part
  decide (s.telSlots part ≤ p.tel.length) || (s.mem.byte (s.telSlot part (p.telSeq.toNat + p.tel.length) + 33)).getLsbD 0

/-- A recheck or thermal record: dropped and counted when the ring is full, or the partition is FREE (R390). -/
def postTel (s : State) (part : Nat) (r : TelRec) : State :=
  if (s.part part).state = 0 || s.telFull part then s.count part 0x350 1
  else s.modPart part (fun p => { p with tel := p.tel ++ [r] })

end State

end Sys2Proof.Machine
end

