-- ==== Sys2Proof/Machine/Move.lean ====
section
/-!
DEFINITION. Major 0x12: moves between register kinds (R180).
-/
namespace Sys2Proof.Machine

def execMov (d a : GIdx) (s : State) : Out := fallThrough 4 s (.ok (s.setG d (s.g a)))
def execMove (d : BitVec 3) (a : GIdx) (s : State) : Out :=
  fallThrough 4 s (.ok (s.setE d ((s.x a).extractLsb' 0 32) (s.g a).taint))
def execMovg (d : GIdx) (a : BitVec 3) (s : State) : Out :=
  fallThrough 4 s (.ok (s.setX d ((s.e a).setWidth 64) (s.eT a)))

/-- The lane that bits 5:0 of a g register name. -/
def laneOf (b : Dword) : Nat := (b.extractLsb' 0 6).toNat

def execVins (d : VIdx) (a b : GIdx) (s : State) : Out :=
  let old := s.oldV d
  let l := (lanes old.bits).set (laneOf (s.x b)) ((s.x a).extractLsb' 0 32)
  fallThrough 4 s (s.writeV d ⟨ofLanes l, old.taint || s.t2 a b⟩)
def execVext (d : GIdx) (a : VIdx) (b : GIdx) (s : State) : Out :=
  fallThrough 4 s ((s.readV a).map (fun r =>
    r.2.setX d ((lane r.1.bits (laneOf (s.x b))).setWidth 64) (r.1.taint || (s.g b).taint)))
def execVbcg (d : VIdx) (a : GIdx) (s : State) : Out :=
  fallThrough 4 s (s.writeV d ⟨ofLanes (List.replicate 64 ((s.x a).extractLsb' 0 32)), (s.g a).taint⟩)

end Sys2Proof.Machine
end

