-- ==== Sys2Proof/Machine/Vector.lean ====
section
/-!
DEFINITION. Majors 0x50 to 0x59: vector arithmetic, comparisons, permutes, reductions and conversions (R207 to R216).
-/
namespace Sys2Proof.Machine

/-! ## The shared forms -/

/-- A lane's result with the flags it raises. -/
abbrev LaneOut := Word × FFlags

/-- The flags of the active lanes, ORed (R207). -/
def flagsOf (mask : Dword) (l : List LaneOut) : FFlags :=
  (l.mapIdx (fun i r => if mask.getLsbD i then r.2 else 0)).foldl (· ||| ·) 0

def words (l : List LaneOut) : List Word := l.map (·.1)

/-- A vector instruction of one source. -/
def vec1 (f : Rm → Word → LaneOut) (d a : VIdx) (m : PIdx) (s : State) : Out :=
  fallThrough 4 s (do
    let (x, s1) ← s.readV a
    let r := (lanes x.bits).map (f s.rm)
    let s2 ← s1.writeLanes d m (words r) (x.taint || (s.p m).taint)
    return s2.raiseFlags (flagsOf (s.p m).bits r))

/-- A vector instruction of two sources. -/
def vec2 (f : Rm → Word → Word → LaneOut) (d a b : VIdx) (m : PIdx) (s : State) : Out :=
  fallThrough 4 s (do
    let (x, s1) ← s.readV a
    let (y, s2) ← s1.readV b
    let r := List.zipWith (f s.rm) (lanes x.bits) (lanes y.bits)
    let s3 ← s2.writeLanes d m (words r) (x.taint || y.taint || (s.p m).taint)
    return s3.raiseFlags (flagsOf (s.p m).bits r))

/-- A vector instruction of two sources and the old destination, read third (R209). -/
def vec3 (f : Rm → Word → Word → Word → LaneOut) (d a b : VIdx) (m : PIdx) (s : State) : Out :=
  fallThrough 4 s (do
    let (x, s1) ← s.readV a
    let (y, s2) ← s1.readV b
    let (z, s3) ← s2.readV d
    let r := List.zipWith (fun p c => f s.rm p.1 p.2 c) (List.zip (lanes x.bits) (lanes y.bits)) (lanes z.bits)
    let s4 ← s3.writeLanes d m (words r) (x.taint || y.taint || z.taint || (s.p m).taint)
    return s4.raiseFlags (flagsOf (s.p m).bits r))

/-- A binary32 lane operation. -/
def fl2 (op : FpOp) (rm : Rm) (a b : Word) : LaneOut := fpOut 32 (fpBin .b32 rm op a.toNat b.toNat)

/-- An integer lane operation, which raises no flag (R58). -/
def iv2 (f : Word → Word → Word) (_ : Rm) (a b : Word) : LaneOut := (f a b, 0)

/-! ## Floating point (R210) -/

def execVfadd (d a b : VIdx) (m : PIdx) (s : State) : Out := vec2 (fl2 .add) d a b m s
def execVfsub (d a b : VIdx) (m : PIdx) (s : State) : Out := vec2 (fl2 .sub) d a b m s
def execVfmul (d a b : VIdx) (m : PIdx) (s : State) : Out := vec2 (fl2 .mul) d a b m s
def execVfdiv (d a b : VIdx) (m : PIdx) (s : State) : Out := vec2 (fl2 .div) d a b m s
def execVfmin (d a b : VIdx) (m : PIdx) (s : State) : Out := vec2 (fl2 .min') d a b m s
def execVfmax (d a b : VIdx) (m : PIdx) (s : State) : Out := vec2 (fl2 .max') d a b m s

/-- VFABS and VFNEG: bit 31 cleared or inverted; a NaN gives the canonical NaN, with no flag. -/
def signLane (f : Word → Word) (_ : Rm) (a : Word) : LaneOut := (if (fl32 a).isNan then nan32 else f a, 0)
def execVfabs (d a : VIdx) (m : PIdx) (s : State) : Out := vec1 (signLane (· &&& 0x7FFFFFFF)) d a m s
def execVfneg (d a : VIdx) (m : PIdx) (s : State) : Out := vec1 (signLane (· ^^^ 0x80000000)) d a m s

/-- A fused lane: the signs of the product and of the addend (R210). -/
def fusedLane (negProd negAdd : Bool) (rm : Rm) (a b d : Word) : LaneOut :=
  fpOut 32 (fpFma .b32 rm negProd negAdd a.toNat b.toNat d.toNat)
def execVfma (d a b : VIdx) (m : PIdx) (s : State) : Out := vec3 (fusedLane false false) d a b m s
def execVfms (d a b : VIdx) (m : PIdx) (s : State) : Out := vec3 (fusedLane false true) d a b m s
def execVfnma (d a b : VIdx) (m : PIdx) (s : State) : Out := vec3 (fusedLane true false) d a b m s

/-- A one-operand binary32 function. -/
def fl1 (f : Fmt → Rm → Fl → Nat × FFlags) (rm : Rm) (a : Word) : LaneOut := fpOut 32 (f .b32 rm (fl32 a))
def execVfsqrt (d a : VIdx) (m : PIdx) (s : State) : Out := vec1 (fl1 sqrtFl) d a m s
def execVfrsq (d a : VIdx) (m : PIdx) (s : State) : Out := vec1 (fl1 rsqrtFl) d a m s
def execVfrcp (d a : VIdx) (m : PIdx) (s : State) : Out := vec1 (fl1 rcpFl) d a m s
def execVfex2 (d a : VIdx) (m : PIdx) (s : State) : Out := vec1 (fl1 exp2Fl) d a m s
def execVflg2 (d a : VIdx) (m : PIdx) (s : State) : Out := vec1 (fl1 log2Fl) d a m s

/-! ## Packed 16-bit lanes (R211) -/

def halves (v : Vword) : List Half := tabulate 128 (lane16 v)

def halfFlags (mask : Dword) (l : List (Half × FFlags)) : FFlags :=
  (l.mapIdx (fun j r => if mask.getLsbD (j / 2) then r.2 else 0)).foldl (· ||| ·) 0

/-- A packed operation of two sources. -/
def packed2 (f : Fmt) (op : FpOp) (d a b : VIdx) (m : PIdx) (s : State) : Out :=
  fallThrough 4 s (do
    let (x, s1) ← s.readV a
    let (y, s2) ← s1.readV b
    let r := List.zipWith (fun p q => fpOut 16 (fpBin f s.rm op p.toNat q.toNat)) (halves x.bits) (halves y.bits)
    let s3 ← s2.writeHalves d m (r.map (·.1)) (x.taint || y.taint || (s.p m).taint)
    return s3.raiseFlags (halfFlags (s.p m).bits r))

/-- A packed fused multiply-add. -/
def packed3 (f : Fmt) (d a b : VIdx) (m : PIdx) (s : State) : Out :=
  fallThrough 4 s (do
    let (x, s1) ← s.readV a
    let (y, s2) ← s1.readV b
    let (z, s3) ← s2.readV d
    let r := List.zipWith (fun p c => fpOut 16 (fpFma f s.rm false false p.1.toNat p.2.toNat c.toNat))
      (List.zip (halves x.bits) (halves y.bits)) (halves z.bits)
    let s4 ← s3.writeHalves d m (r.map (·.1)) (x.taint || y.taint || z.taint || (s.p m).taint)
    return s4.raiseFlags (halfFlags (s.p m).bits r))

def execVbadd (d a b : VIdx) (m : PIdx) (s : State) : Out := packed2 .bf16 .add d a b m s
def execVbmul (d a b : VIdx) (m : PIdx) (s : State) : Out := packed2 .bf16 .mul d a b m s
def execVbfma (d a b : VIdx) (m : PIdx) (s : State) : Out := packed3 .bf16 d a b m s
def execVhadd (d a b : VIdx) (m : PIdx) (s : State) : Out := packed2 .b16 .add d a b m s
def execVhmul (d a b : VIdx) (m : PIdx) (s : State) : Out := packed2 .b16 .mul d a b m s
def execVhfma (d a b : VIdx) (m : PIdx) (s : State) : Out := packed3 .b16 d a b m s

/-! ## Integers and logic (R212) -/

/-- Bits 4:0 of a shift count. -/
def shiftOf (b : Word) : Nat := (b.extractLsb' 0 5).toNat

def execVadd (d a b : VIdx) (m : PIdx) (s : State) : Out := vec2 (iv2 (· + ·)) d a b m s
def execVsub (d a b : VIdx) (m : PIdx) (s : State) : Out := vec2 (iv2 (· - ·)) d a b m s
def execVmul (d a b : VIdx) (m : PIdx) (s : State) : Out := vec2 (iv2 (· * ·)) d a b m s
def execVmin (d a b : VIdx) (m : PIdx) (s : State) : Out := vec2 (iv2 (fun x y => if y.slt x then y else x)) d a b m s
def execVmax (d a b : VIdx) (m : PIdx) (s : State) : Out := vec2 (iv2 (fun x y => if x.slt y then y else x)) d a b m s
def execVminz (d a b : VIdx) (m : PIdx) (s : State) : Out := vec2 (iv2 (fun x y => if y.ult x then y else x)) d a b m s
def execVmaxz (d a b : VIdx) (m : PIdx) (s : State) : Out := vec2 (iv2 (fun x y => if x.ult y then y else x)) d a b m s
def execVabs (d a : VIdx) (m : PIdx) (s : State) : Out := vec1 (fun _ x => (if x.msb then -x else x, 0)) d a m s
def execVand (d a b : VIdx) (m : PIdx) (s : State) : Out := vec2 (iv2 (· &&& ·)) d a b m s
def execVor (d a b : VIdx) (m : PIdx) (s : State) : Out := vec2 (iv2 (· ||| ·)) d a b m s
def execVxor (d a b : VIdx) (m : PIdx) (s : State) : Out := vec2 (iv2 (· ^^^ ·)) d a b m s
def execVandn (d a b : VIdx) (m : PIdx) (s : State) : Out := vec2 (iv2 (fun x y => x &&& ~~~y)) d a b m s
def execVshl (d a b : VIdx) (m : PIdx) (s : State) : Out := vec2 (iv2 (fun x y => x <<< shiftOf y)) d a b m s
def execVshr (d a b : VIdx) (m : PIdx) (s : State) : Out := vec2 (iv2 (fun x y => x >>> shiftOf y)) d a b m s
def execVsar (d a b : VIdx) (m : PIdx) (s : State) : Out := vec2 (iv2 (fun x y => x.sshiftRight (shiftOf y))) d a b m s
def execVnot (d a : VIdx) (m : PIdx) (s : State) : Out := vec1 (fun _ x => (~~~x, 0)) d a m s

/-! ## Comparisons (R213) -/

/-- A number from bits, bit 0 first. -/
def ofBits : List Bool → Nat
  | [] => 0
  | b :: rest => b.toNat + 2 * ofBits rest

/-- A lane comparison: the whole predicate is written. -/
def vcmp (f : Word → Word → Bool × FFlags) (pd : PIdx) (a b : VIdx) (m : PIdx) (s : State) : Out :=
  fallThrough 4 s (do
    let (x, s1) ← s.readV a
    let (y, s2) ← s1.readV b
    let mask := (s.p m).bits
    let r := (List.zipWith f (lanes x.bits) (lanes y.bits)).mapIdx (fun i q => if mask.getLsbD i then q else (false, 0))
    let s3 := s2.setP pd (BitVec.ofNat 64 (ofBits (r.map (·.1)))) (x.taint || y.taint || (s.p m).taint)
    return s3.raiseFlags ((r.map (·.2)).foldl (· ||| ·) 0))

def execVfcmp (p : PIdx) (a b : VIdx) (m c : PIdx) (s : State) : Out :=
  vcmp (fun x y => fcmpCode .b32 c x.toNat y.toNat) p a b m s
def execVicmp (p : PIdx) (a b : VIdx) (m c : PIdx) (s : State) : Out :=
  vcmp (fun x y => (intCond c x y, 0)) p a b m s

/-! ## Permutes (R214) -/

/-- A permute of two sources: the new lanes from the mask, the sources and the old destination, and whether the write is
whole (all lanes, or M = 0). -/
def permute (allLanes : Bool) (f : Dword → List Word → List Word → List Word) (two : Bool) (d a b : VIdx) (m : PIdx)
    (extra : Bool) (s : State) : Out :=
  fallThrough 4 s (do
    let (x, s1) ← s.readV a
    let (y, s2) ← if two then s1.readV b else .ok (⟨0, false⟩, s1)
    let t := x.taint || y.taint || (s.p m).taint || extra
    let r := f (s.p m).bits (lanes x.bits) (lanes y.bits)
    if allLanes then s2.writeV d ⟨ofLanes r, t⟩ else s2.writeLanes d m r t)

def nthLane (l : List Word) (i : Nat) : Word := l.getD i 0
/-- The indices of the active lanes, in order. -/
def activeLanes (mask : Dword) : List Nat := (List.range 64).filter mask.getLsbD

def execVsel (d a b : VIdx) (m : PIdx) (s : State) : Out :=
  permute true (fun k x y => tabulate 64 (fun i => if k.getLsbD i then nthLane x i else nthLane y i)) true d a b m false s
def execVprm (d a b : VIdx) (m : PIdx) (s : State) : Out :=
  permute false (fun _ x y => tabulate 64 (fun i => nthLane x ((nthLane y i).toNat % 64))) true d a b m false s
def execVzip (d a b : VIdx) (m : PIdx) (s : State) : Out :=
  permute false (fun _ x y => tabulate 64 (fun i => if i % 2 = 0 then nthLane x (i / 2) else nthLane y (i / 2))) true d a b m false s
def execVunz (d a b : VIdx) (m : PIdx) (s : State) : Out :=
  permute false (fun _ x y => tabulate 64 (fun i => if i < 32 then nthLane x (2 * i) else nthLane y (2 * i - 64))) true d a b m false s
def execVsld (d a b : VIdx) (m : PIdx) (s : State) : Out :=
  let k := (s.e 0).toNat % 64
  permute false (fun _ x y => tabulate 64 (fun i => if i + k < 64 then nthLane x (i + k) else nthLane y (i + k - 64))) true d a b m (s.eT 0) s
def execVcmpr (d a : VIdx) (m : PIdx) (s : State) : Out :=
  permute true (fun k x _ => let act := activeLanes k; tabulate 64 (fun j => match act[j]? with
    | some i => nthLane x i
    | none => 0)) false d a 0 m false s
def execVexpd (d a : VIdx) (m : PIdx) (s : State) : Out :=
  permute false (fun k x _ => tabulate 64 (fun i => nthLane x ((List.range i).countP k.getLsbD))) false d a 0 m false s
def execVmov (d a : VIdx) (m : PIdx) (s : State) : Out := permute false (fun _ x _ => x) false d a 0 m false s

/-! ## Reductions and scans (R215) -/

/-- One level of the tree: neighbours combined, the lower index on the left. -/
def pairLevel (f : Word → Word → LaneOut) : List Word → List Word × FFlags
  | a :: b :: rest =>
    let r := f a b
    let (l, fl) := pairLevel f rest
    (r.1 :: l, r.2 ||| fl)
  | l => (l, 0)

/-- The tree over 64 lanes: six levels. -/
def treeOf (f : Word → Word → LaneOut) : Nat → List Word → Word × FFlags
  | 0, l => (l.headD 0, 0)
  | n + 1, l =>
    let (l1, fl) := pairLevel f l
    let (w, fl') := treeOf f n l1
    (w, fl ||| fl')

/-- The inclusive scan: distances 1, 2, 4, 8, 16, 32. -/
def scanOf (f : Word → Word → LaneOut) : List Nat → List Word → List Word × FFlags
  | [], l => (l, 0)
  | k :: rest, l =>
    let step := l.mapIdx (fun i w => if k ≤ i then f (nthLane l (i - k)) w else (w, 0))
    let (l1, fl) := scanOf f rest (step.map (·.1))
    (l1, (step.map (·.2)).foldl (· ||| ·) fl)

def onlyLane0 (w : Word) : Vword := w.setWidth 2048

/-- A reduction or scan: leaves from the active lanes, the register written whole. -/
def reduce (leaf : Word) (f : Rm → List Word → Vword × FFlags) (d a : VIdx) (m : PIdx) (s : State) : Out :=
  fallThrough 4 s (do
    let (x, s1) ← s.readV a
    let mask := (s.p m).bits
    let l := (lanes x.bits).mapIdx (fun i w => if mask.getLsbD i then w else leaf)
    let (v, fl) := f s.rm l
    let s2 ← s1.writeV d ⟨v, x.taint || (s.p m).taint⟩
    return s2.raiseFlags fl)

def execVradd (d a : VIdx) (m : PIdx) (s : State) : Out :=
  reduce 0 (fun rm l => let r := treeOf (fl2 .add rm) 6 l; (onlyLane0 r.1, r.2)) d a m s
def execVriadd (d a : VIdx) (m : PIdx) (s : State) : Out :=
  reduce 0 (fun _ l => (onlyLane0 (l.foldl (· + ·) 0), 0)) d a m s
def execVscan (d a : VIdx) (m : PIdx) (s : State) : Out :=
  reduce 0 (fun rm l => let r := scanOf (fl2 .add rm) [1, 2, 4, 8, 16, 32] l; (ofLanes r.1, r.2)) d a m s
def execViscan (d a : VIdx) (m : PIdx) (s : State) : Out :=
  reduce 0 (fun _ l => let r := scanOf (fun x y => (x + y, 0)) [1, 2, 4, 8, 16, 32] l; (ofLanes r.1, r.2)) d a m s

/-- The place of a binary32 pattern in order, +0 above −0. -/
def ordSigned (w : Word) : Int := let mag : Int := (w.toNat % 2 ^ 31 : Nat); if w.msb then -mag - 1 else mag

/-- The greatest or least non-NaN of some lanes, +0 above −0; the canonical NaN if there is none. -/
def extremum (wantMax : Bool) (l : List Word) : Word :=
  match l.filter (fun w => !(fl32 w).isNan) with
  | [] => nan32
  | w :: rest => rest.foldl (fun a b =>
      if wantMax then (if ordSigned a < ordSigned b then b else a) else (if ordSigned b < ordSigned a then b else a)) w

/-- VRMAX and VRMIN: the leaf of an inactive lane is absent. -/
def extreme (wantMax : Bool) (d a : VIdx) (m : PIdx) (s : State) : Out :=
  fallThrough 4 s (do
    let (x, s1) ← s.readV a
    let l := (activeLanes (s.p m).bits).map (nthLane (lanes x.bits))
    let s2 ← s1.writeV d ⟨onlyLane0 (extremum wantMax l), x.taint || (s.p m).taint⟩
    return s2.raiseFlags (l.foldl (fun f w => f ||| (fl32 w).snanFlag) 0))
def execVrmax (d a : VIdx) (m : PIdx) (s : State) : Out := extreme true d a m s
def execVrmin (d a : VIdx) (m : PIdx) (s : State) : Out := extreme false d a m s

def execVdot (d a b : VIdx) (m : PIdx) (s : State) : Out :=
  fallThrough 4 s (do
    let (x, s1) ← s.readV a
    let (y, s2) ← s1.readV b
    let mask := (s.p m).bits
    let prods := (List.zipWith (fl2 .mul s.rm) (lanes x.bits) (lanes y.bits)).mapIdx (fun i q => if mask.getLsbD i then q else (0, 0))
    let r := treeOf (fl2 .add s.rm) 6 (words prods)
    let s3 ← s2.writeV d ⟨onlyLane0 r.1, x.taint || y.taint || (s.p m).taint⟩
    return s3.raiseFlags (r.2 ||| flagsOf mask prods))

/-! ## Conversions (R216) -/

/-- A decode-table slot of the core. -/
def State.slotOf (s : State) (k : Nat) : TableSlot := (s.core s.myCore).tables.toList.getD k TableSlot.fresh

def execVdec (d a : VIdx) (k q : BitVec 2) (m : PIdx) (s : State) : Out :=
  let t := s.slotOf k.toNat
  fallThrough 4 s (do
    guardTrap t.valid 0x0D (k.setWidth 64)
    let (x, s1) ← s.readV a
    let r : List LaneOut := tabulate 64 (fun i =>
      let c := (byteLane x.bits (64 * q.toNat + i)).toNat % 2 ^ t.width
      let (v, bad) := t.decode c
      (fl32Pat v, if bad then FFlags.nv else 0))
    let s2 ← s1.writeLanes d m (words r) (x.taint || (s.p m).taint || t.taint)
    return s2.raiseFlags (flagsOf (s.p m).bits r))

def execVenc (d a : VIdx) (q : BitVec 2) (m : PIdx) (s : State) : Out :=
  let t := s.slotOf 2
  fallThrough 4 s (do
    guardTrap t.valid 0x0D 2
    let (x, s1) ← s.readV a
    let mask := (s.p m).bits
    let r := (lanes x.bits).map t.encode
    let old := s1.oldV d
    let bytes := tabulate 256 (fun j =>
      if j / 64 = q.toNat ∧ mask.getLsbD (j % 64) = true then BitVec.ofNat 8 (r.getD (j % 64) (0, 0)).1 else byteLane old.bits j)
    let s2 ← s1.writeV d ⟨ofByteLanes bytes, old.taint || x.taint || (s.p m).taint || t.taint⟩
    return s2.raiseFlags ((r.mapIdx (fun i e => if mask.getLsbD i then e.2 else 0)).foldl (· ||| ·) 0))

/-- VF2B and VF2H: vA supplies 16-bit lanes 0 to 63 and vB the rest. -/
def narrow (f : Fmt) (d a b : VIdx) (m : PIdx) (s : State) : Out :=
  fallThrough 4 s (do
    let (x, s1) ← s.readV a
    let (y, s2) ← s1.readV b
    let r := (lanes x.bits ++ lanes y.bits).map (fun w => fpOut 16 (convFl .b32 f s.rm w.toNat))
    let s3 ← s2.writeHalves d m (r.map (·.1)) (x.taint || y.taint || (s.p m).taint)
    return s3.raiseFlags (halfFlags (s.p m).bits r))

/-- VB2F and VH2F: half h of the 16-bit lanes, widened. -/
def widen (f : Fmt) (d a : VIdx) (h : Bool) (m : PIdx) (s : State) : Out :=
  fallThrough 4 s (do
    let (x, s1) ← s.readV a
    let r := tabulate 64 (fun i => fpOut 32 (convFl f .b32 s.rm (lane16 x.bits (64 * h.toNat + i)).toNat))
    let s2 ← s1.writeLanes d m (words r) (x.taint || (s.p m).taint)
    return s2.raiseFlags (flagsOf (s.p m).bits r))

def execVf2b (d a b : VIdx) (m : PIdx) (s : State) : Out := narrow .bf16 d a b m s
def execVb2f (d a : VIdx) (h : Bool) (m : PIdx) (s : State) : Out := widen .bf16 d a h m s
def execVf2h (d a b : VIdx) (m : PIdx) (s : State) : Out := narrow .b16 d a b m s
def execVh2f (d a : VIdx) (h : Bool) (m : PIdx) (s : State) : Out := widen .b16 d a h m s
def execVi2f (d a : VIdx) (m : PIdx) (s : State) : Out := vec1 (fun rm w => fpOut 32 (ofIntFl .b32 rm w.toInt)) d a m s
def execVf2i (d a : VIdx) (m : PIdx) (s : State) : Out := vec1 (fun rm w => fpToInt .b32 rm 32 true w.toNat) d a m s

end Sys2Proof.Machine
end

