-- ==== Sys2Proof/Machine/VectorMem.lean ====
section
/-!
DEFINITION. Major 0x5A: vector loads and stores (R217, R218).
-/
namespace Sys2Proof.Machine

/-- The mask of a vector load or store, p[e3[2:0]], with the taint of both registers. -/
def State.memMask (s : State) : PReg :=
  let m := s.p ((s.e 3).extractLsb' 0 3)
  { m with taint := m.taint || s.eT 3 }

/-- Checks and translates the active elements, lowest lane first: every check, a store's determinism guard among them, comes before any
access. Under the one check of VLD and VST the elements are only translated. -/
def placeLanes (acc : Acc) (need : Need) (whole : Bool) (c : Cap) (addr : Nat → Int) (lanes : List Nat) (stored : Bool) (s : State) :
    Res (List (Nat × Dword × Trans) × State) :=
  lanes.foldlM (fun (st : List (Nat × Dword × Trans) × State) i => do
    let a ← if whole then .ok (BitVec.ofInt 64 (addr i)) else capCheckAt c [0] need (addr i) 4 4
    let (t, s1) ← st.2.translate s.ctx acc false a
    s.guardTaint t.pte stored a
    return (st.1 ++ [(i, a, t)], s1)) ([], s)

/-- The one check of VLD and VST over all 256 bytes: the failing address named is that of the lowest active element that
fails on its own, or the base. -/
def wholeCheck (need : Need) (c : Cap) (addr : Nat → Int) (lanes : List Nat) : Res Unit :=
  match capCheckAt c [0] need (addr 0) 256 4 with
  | .ok _ => .ok ()
  | .error (.trap cause v x) =>
    let fails (i : Nat) : Bool := match capCheckAt c [0] need (addr i) 4 4 with
      | .ok _ => false
      | .error _ => true
    match lanes.find? fails with
    | some i => .error (.trap cause (BitVec.ofInt 64 (addr i)) x)
    | none => .error (.trap cause v x)
  | .error e => .error e

/-- Reads the placed elements: 64 lanes, an unplaced one zero, and their taint. -/
def gatherLanes (pl : List (Nat × Dword × Trans)) (s : State) : Res (List (Nat × Word) × Bool × State) :=
  pl.foldlM (fun (st : List (Nat × Word) × Bool × State) p => do
    let (g, s1) ← (st.2.2.settleOver p.2.2.loc 4).readLoc s.ctx p.2.2.loc p.2.1 4
    return (st.1 ++ [(p.1, BitVec.ofNat 32 g.nat)], st.2.1 || g.taint, s1)) ([], false, s)

/-- A partial write of no lane: its taint counts (R208). -/
def State.taintV (s : State) (d : VIdx) (t : Bool) : State :=
  s.modRegs (fun r => r.wv d { r.rv d with taint := (r.rv d).taint || t })

/-- A vector load from its element addresses (R217, R218): L rises, and the lanes are written later, by
VECTOR_LOAD_COMPLETE. A load into a write stream pushes its element at once. -/
def vload (whole : Bool) (d : VIdx) (c : Cap) (addr : Nat → Int) (taint : Bool) (s : State) : Res State := do
  let mask := s.memMask
  let act := activeLanes mask.bits
  if whole then wholeCheck { r := true } c addr act
  let (pl, s1) ← placeLanes .load { r := true } whole c addr act false s
  let (ws, tn, s2) ← gatherLanes pl s1
  let v := ofLanes (tabulate 64 (fun i => match ws.find? (fun p => p.1 == i) with
    | some p => p.2
    | none => 0))
  let t := tn || taint || mask.taint
  let (n, s3) := (← s2.raiseL).nextSerial
  let owe (s : State) (l : VLoad) : State := s.modMe (fun m => { m with vloads := m.vloads ++ [l] })
  if (s3.stream? d).any (·.write) then
    let s4 ← s3.writeLanes d ((s.e 3).extractLsb' 0 3) (lanes v) t
    return owe s4 ⟨d, 0, 0, false, false, n⟩
  else
    return owe (if mask.bits = 0 then s3.taintV d t else s3) ⟨d, mask.bits, v, t, (s.e 3).extractLsb' 0 3 == 0, n⟩

/-- Whether a place follows the n bytes at another within one line. -/
def Loc.follows (a : Loc) (n : Nat) (b : Loc) : Bool :=
  match a, b with
  | .mem x, .mem y => x + n == y && y % 128 != 0
  | .scratch c p f o, .scratch c' p' f' o' => c == c' && p == p' && f == f' && o + n == o' && o' % 128 != 0
  | .host x, .host y => x + n == y
  | _, _ => false

/-- Stores in lane order, neighbours that adjoin within a line as one store: so a whole sector the instruction covers is
covered (log entry 32). -/
def scatterRuns : List (Trans × List Byte) → Option (Trans × List Byte) → List (Trans × List Byte)
  | [], none => []
  | [], some r => [r]
  | x :: rest, none => scatterRuns rest (some x)
  | x :: rest, some r =>
    if r.1.loc.follows r.2.length x.1.loc then scatterRuns rest (some (r.1, r.2 ++ x.2)) else r :: scatterRuns rest (some x)

/-- A vector store to its element addresses (R217, R218). -/
def vstore (whole : Bool) (v : VReg) (c : Cap) (addr : Nat → Int) (s : State) : Res State := do
  let mask := s.memMask
  let act := activeLanes mask.bits
  if whole then wholeCheck { w := true } c addr act
  let t := v.taint
  let (pl, s1) ← placeLanes .store { w := true } whole c addr act t s
  let s2 ← s1.raiseS
  return (scatterRuns (pl.map (fun p => (p.2.2, toBytes 4 (lane v.bits p.1).toNat))) none).foldl (fun s r =>
    ((s.settleOver r.1.loc r.2.length).writeLoc s.ctx r.1.loc r.2 t).noteLost r.1.loc t) s2

def plainElem (c : Cap) (off : Dword) (i : Nat) : Int := c.plus ((off.toNat : Int) + 4 * (i : Int))
def strideElem (c : Cap) (stride : Dword) (i : Nat) : Int := c.plus ((i : Int) * stride.toInt)
def indexElem (c : Cap) (idx : Vword) (i : Nat) : Int := c.plus (4 * ((lane idx i).toNat : Int))

def execVld (d : VIdx) (a b : GIdx) (s : State) : Out :=
  fallThrough 4 s (vload true d (s.cap a) (plainElem (s.cap a) (s.x b)) (s.t2 a b) s)
def execVst (d : VIdx) (a b : GIdx) (s : State) : Out :=
  fallThrough 4 s (do
    let (v, s1) ← s.readV d
    vstore true v (s.cap a) (plainElem (s.cap a) (s.x b)) s1)
def execVlds (d : VIdx) (a b : GIdx) (s : State) : Out :=
  fallThrough 4 s (vload false d (s.cap a) (strideElem (s.cap a) (s.x b)) (s.t2 a b) s)
def execVsts (d : VIdx) (a b : GIdx) (s : State) : Out :=
  fallThrough 4 s (do
    let (v, s1) ← s.readV d
    vstore false v (s.cap a) (strideElem (s.cap a) (s.x b)) s1)
def execVldx (d : VIdx) (a : GIdx) (b : VIdx) (s : State) : Out :=
  fallThrough 4 s (do
    let (ix, s1) ← s.readV b
    vload false d (s.cap a) (indexElem (s.cap a) ix.bits) ((s.g a).taint || ix.taint) s1)
def execVstx (d : VIdx) (a : GIdx) (b : VIdx) (s : State) : Out :=
  fallThrough 4 s (do
    let (ix, s1) ← s.readV b
    let (v, s2) ← s1.readV d
    vstore false v (s.cap a) (indexElem (s.cap a) ix.bits) s2)
def execVldb (d : VIdx) (a b : GIdx) (s : State) : Out :=
  fallThrough 4 s (vload false d (s.cap a) (fun _ => (s.cap a).plus ((s.x b).toNat : Int)) (s.t2 a b) s)

/-- Whether no vector load or vector state instruction of the strand is older than one of that place in its program: L falls in issue
order (R374). -/
def Strand.oldestL (m : Strand) (order : Nat) : Bool :=
  m.vloads.all (fun v => decide (order ≤ v.order)) && m.vstates.all (fun v => decide (order ≤ v.order))

/-- VECTOR_LOAD_COMPLETE (R198, R218): some of the lanes a load still owes are written; when it owes none and is the oldest, L falls. -/
def landLoad (m : Strand) (index : Nat) (now : Dword) : Option Strand :=
  match m.vloads[index]? with
  | none => none
  | some v =>
    let todo := v.lanes &&& now
    let left := v.lanes &&& ~~~now
    let old := m.regs.rv v.vd
    let bits := ofLanes (tabulate 64 (fun i => if todo.getLsbD i then lane v.bits i else lane old.bits i))
    let t := if v.whole && left == 0 then v.taint else old.taint || v.taint
    let m1 := { m with regs := if todo = 0 then m.regs else m.regs.wv v.vd ⟨bits, t⟩ }
    if left = 0 ∧ m.oldestL v.order = true then some { m1 with vloads := listDrop m1.vloads index, ctr := { m1.ctr with l := m1.ctr.l - 1 } }
    else some { m1 with vloads := listSet m1.vloads index { v with lanes := left } }

/-- A vector load lands while its strand occupies its slot: a halt completes it first (R218), so a HALTED strand has none. -/
def execVectorLoadComplete (slot index : Nat) (now : Dword) (s : State) : Out :=
  event s ((landLoad (s.strand slot) index now).map (s.setStrand slot))

end Sys2Proof.Machine
end

