-- ==== Sys2Proof/Machine/Matrix.lean ====
section
/-!
DEFINITION. Majors 0x60 to 0x62: accumulator tiles and the shadow (R41, R219), TMMA with its checks (R220 to R230), the
accumulator operations (R231, R232), decode-table slots (R234), and the background recheck (R81 to R85).
-/
namespace Sys2Proof.Machine

/-! ## Tiles (R219) -/

def tileGet (t : Tile) (m n : Nat) : Word := (t.getD m []).getD n 0

/-- The tile with the elements of rows below M and columns below N given by `f`. -/
def tileRegion (t : Tile) (m n : Nat) (f : Nat → Nat → Word) : Tile :=
  tabulate (max m t.length) (fun i =>
    let row := t.getD i []
    if i < m then tabulate (max n row.length) (fun j => if j < n then f i j else row.getD j 0) else row)

namespace State

def tile (s : State) (core acc : Nat) : TileState := (s.core core).tiles.toList.getD acc TileState.fresh
def modTile (s : State) (core acc : Nat) (f : TileState → TileState) : State :=
  s.modCore core (fun k => { k with tiles := k.tiles.setIfInBounds acc (f (k.tiles.toList.getD acc TileState.fresh)) })
def modShadow (s : State) (core : Nat) (f : Shadow → Shadow) : State :=
  s.modCore core (fun k => { k with shadow := f k.shadow })

/-- Names a tile: one that is free, or that the strand has given up, becomes the strand's, to be zeroed first; another strand's is waited
for. -/
def claimTile (s : State) (acc : Nat) : Res (Bool × State) :=
  let t := s.tile s.myCore acc
  let take : State := s.modTile s.myCore acc (fun t => { t with owner := some s.me?, due := false, leave := false })
  match t.owner with
  | none => .ok (true, take)
  | some o => if o ≠ s.me? then waitFor (.tile acc) else if t.leave then .ok (true, take) else .ok (false, s)

/-- Whether the strand holds the shadow. -/
def holdsAny (s : State) : Bool :=
  let h := (s.core s.myCore).shadow
  decide (h.owner = some s.me?) && !h.leave

/-- Whether the strand holds the shadow, bound to a tile. -/
def holdsShadow (s : State) (acc : Nat) : Bool := s.holdsAny && (s.core s.myCore).shadow.acc == acc

end State

/-- Whose command a queue entry is, and its place in the strand's program where it raised T. -/
def Cmd.owner : Cmd → Owner
  | .tmma t => t.x.owner
  | .acc o => o.owner
  | .copy c => c.owner
  | .gather g => g.owner
  | .spring o _ => o
  | .vector o => o
def Cmd.order : Cmd → Option Nat
  | .tmma t => some t.x.order
  | .acc o => some o.order
  | .copy c => if c.error.isNone then c.tmma.map (·.order) else none
  | _ => none

/-- Whether a command is one of a strand's matrix instructions that came before, or after, a place in its program (R374). -/
def Cmd.before (o : Owner) (n : Nat) (c : Cmd) : Bool := decide (c.owner = o) && c.order.any (fun k => decide (k < n))
def Cmd.after (o : Owner) (n : Nat) (c : Cmd) : Bool := decide (c.owner = o) && c.order.any (fun k => decide (n < k))

/-- Whether a command is a strand's on a tile, and whether it uses the strand's shadow; a copy stands for the TMMA it carries. -/
def Cmd.onTile (o : Owner) (acc : Nat) : Cmd → Bool
  | .tmma t => decide (t.x.owner = o) && t.x.acc == acc
  | .acc a => decide (a.owner = o) && a.acc == acc
  | .copy c => c.error.isNone && c.tmma.any (fun x => decide (x.owner = o) && x.acc == acc)
  | _ => false
def Cmd.onShadow (o : Owner) : Cmd → Bool
  | .tmma t => decide (t.x.owner = o) && t.x.shadow
  | .acc a => decide (a.owner = o) && (a.kind == .commit || a.kind == .discard || a.kind == .release)
  | .copy c => c.error.isNone && c.tmma.any (fun x => decide (x.owner = o) && x.shadow)
  | _ => false

/-- Whether a command clears a strand's tile after a place in the strand's program. -/
def Cmd.clears (o : Owner) (acc order : Nat) : Cmd → Bool
  | .tmma t => decide (t.x.owner = o) && t.x.acc == acc && decide (order < t.x.order) && t.x.fresh
  | .acc a => decide (a.owner = o) && a.acc == acc && decide (order < a.order) && (a.fresh || a.kind == .zero || a.kind == .release)
  | .copy c => c.error.isNone && c.tmma.any (fun x => decide (x.owner = o) && x.acc == acc && decide (order < x.order) && x.fresh)
  | _ => false

namespace State

/-- Whether a core has a command that has not completed and that a test picks. -/
def pending (s : State) (core : Nat) (f : Cmd → Bool) : Bool :=
  let k := s.core core
  k.queue.any f || k.wide.any f || k.copies.any (fun c => f (.copy c))

/-- Frees what its holder has given up, once none of the holder's earlier commands on it is left (R219). -/
def settleTiles (s : State) (core : Nat) : State :=
  let gone (t : TileState) (i : Nat) : Bool := t.leave && t.owner.all (fun o => !s.pending core (Cmd.onTile o i))
  let sh := (s.core core).shadow
  s.modCore core (fun k => { k with
    tiles := k.tiles.mapIdx (fun i t => if gone t i then TileState.fresh else t)
    shadow := if sh.leave && sh.owner.all (fun o => !s.pending core (Cmd.onShadow o)) then Shadow.fresh else k.shadow })

/-- A command's taint reaches its tile: what later guards read takes it too, unless the tile is cleared in between (R367). -/
def bringTaint (s : State) (core : Nat) (o : Owner) (acc order : Nat) (tn : Bool) : State :=
  if tn && !s.pending core (Cmd.clears o acc order) then s.modTile core acc (fun t => { t with due := true }) else s

end State

/-! ## TMMA: what it samples and its first checks (R224, R225) -/

/-- M, N and K (R224). -/
def shapeM (e0 : Word) : Nat := (e0.extractLsb' 0 8).toNat
def shapeN (e0 : Word) : Nat := (e0.extractLsb' 8 8).toNat
def shapeK (e0 : Word) : Nat := (e0.extractLsb' 16 16).toNat
def shapeOk (e0 : Word) : Bool :=
  decide (1 ≤ shapeM e0) && decide (shapeM e0 ≤ 128) && decide (1 ≤ shapeN e0) && decide (shapeN e0 ≤ 128)

/-- The table slot a format register names: slot `own`, or slot 3 (R222). -/
def State.fmtSlot (s : State) (fmt : Dword) (own : Nat) : TableSlot := s.slotOf (if fmt.extractLsb' 0 2 = 3 then 3 else own)

/-- Steps 2 and 3 of R225, and the sample. -/
def State.sampleTmma (s : State) (acc : Nat) (z h c : Bool) (a b : GIdx) (e0 e1 : Word) (taint : Bool) : Res (TmmaSample × State) := do
  let k := s.me.csr
  if !shapeOk e0 || shapeK e0 == 0 || e1.extractLsb' 11 21 != 0 || k.sclm == 3 then s.illegal
  let sh := (s.core s.myCore).shadow
  let holds := s.holdsAny
  if h && holds && sh.acc != acc then s.illegal
  if h && sh.owner.any (fun o => decide (o ≠ s.me?)) then waitFor .shadow
  let (fresh, s1) ← s.claimTile acc
  let bind := h && !holds
  let (n, s2) := s1.nextSerial
  let s3 := if bind then s2.modShadow s.myCore (fun t => { t with
    owner := some s.me?, acc := acc, due := (s2.tile s.myCore acc).due, leave := false }) else s2
  return (⟨s.me?, s.ctx, s.strandSrc s.cur, n, acc, h, z, c, fresh, bind, shapeM e0, shapeN e0, shapeK e0, (e1.extractLsb' 0 11).toNat,
    s.cap a, s.cap b, k.fmta, k.fmtb, s.fmtSlot k.fmta 0, s.fmtSlot k.fmtb 1, k.sclm.toNat, k.scla, k.sclb, taint⟩, s3)

/-! ## TMMA: its buffers (R220, R221, steps 4 to 7 of R225) -/

/-- Whether n bytes lie in the window of one core of the quad (step 4). -/
def quadWindow (slot : Nat) (va : Dword) (n : Nat) : Res Unit :=
  let woff := va.toNat - 0x7F0000000000
  if inScratchRange va.toNat = false then trap 0x07 va
  else if 2048 ≤ woff / 0x100000 ∨ 0x40000 ≤ woff % 0x100000 then trap 0x12 va
  else if woff / 0x100000 / 4 ≠ quadOfSlot slot then trap 0x07 va
  else if 0x40000 < woff % 0x100000 + n then trap 0x12 va
  else .ok ()

/-- The size of a buffer from its header (R221). -/
def bufferSize (kext cw rows : Nat) : Nat := 64 + ceilDiv kext 32 * cw * rows * 4

/-- Pages of a core's window, each made resident, with its frame (R121). -/
def State.framesOf (s : State) (c : Ctx) (core : Nat) (pages : List Nat) : Res (List (Nat × Nat) × State) :=
  pages.foldlM (fun (acc : List (Nat × Nat) × State) page =>
    let a : Dword := BitVec.ofNat 64 (0x7F0000000000 + core * 0x100000 + page * 4096)
    match acc.2.translate c .engineRead false a with
    | .error e => .error e
    | .ok (⟨.scratch _ page frame _, _, _⟩, s1) => .ok (acc.1 ++ [(page, frame)], s1)
    | .ok (t, _) => trapX 0x07 a (t.pte.setWidth 128)) ([], s)

/-- Step 4 for one buffer: its address, and its header's 512 bits with their taint. -/
def State.bufferAt (s : State) (c : Ctx) (buf : Cap) : Res (Dword × Nat × Bool × State) := do
  let need : Need := { r := true, scr := true }
  let va ← capCheckAt buf [0] need buf.addr.toNat 64 64
  quadWindow c.slot va 64
  let (bs, tn, s1) ← s.readVirt c va 64
  let h := ofBytes bs
  let size := bufferSize (natBits h 47 32) (natBits h 79 72) (natBits h 71 64)
  let _ ← capCheckAt buf [0] need buf.addr.toNat size 64
  quadWindow c.slot va size
  return (va, h, tn, s1)

/-- The signature and code width of a source (R220, R222). -/
def sourceSig (fmt : Dword) (t : TableSlot) : Word × Nat :=
  match (fmt.extractLsb' 0 2).toNat with
  | 1 => (0xFFFF0001, 16)
  | 2 => (0xFFFF0002, 16)
  | _ => (t.sig, t.width)

/-- Step 5 for one header. -/
def headerFits (h layout rowsMin kMin : Nat) (fmt : Dword) (t : TableSlot) : Bool :=
  let (sig, cw) := sourceSig fmt t
  natBits h 511 104 == 0 && natBits h 63 48 == 0 && natBits h 87 80 == layout && natBits h 79 72 == cw &&
  natBits h 31 0 == sig.toNat && natBits h 95 88 == (fmt.extractLsb' 40 8).toNat && natBits h 103 96 == (fmt.extractLsb' 48 8).toNat &&
  decide (rowsMin ≤ natBits h 71 64) && decide (natBits h 71 64 ≤ 128) && decide (kMin ≤ natBits h 47 32) &&
  decide (natBits h 95 88 ≤ 1) && (natBits h 95 88 == 0 || natBits h 71 64 % 32 == 0)

/-- The buffer as the array reads it, its frames still to be found. -/
def operandOf (va : Dword) (h : Nat) (fmt : Dword) (t : TableSlot) : Operand :=
  let woff := va.toNat - 0x7F0000000000
  let src := (fmt.extractLsb' 0 2).toNat
  ⟨woff / 0x100000, woff % 0x100000, [], natBits h 71 64, natBits h 79 72, natBits h 95 88 == 1,
    if src = 0 ∨ src = 3 then some t else none, src == 1⟩

/-- The addresses of one side's scales, in the order they are kept (R223). -/
def scaleAddrs (mode : Nat) (base : Dword) (count blocks j0 rows : Nat) : List Int :=
  match mode with
  | 1 => tabulate count (fun i => (base.toNat : Int) + 4 * i)
  | 2 => (tabulate blocks (fun j => tabulate count (fun i => (base.toNat : Int) + 4 * ((j0 + j) * rows + i)))).flatten
  | _ => []

/-- Step 7 for one side, under R53. A poisoned scale is consumed, and trapped, here. -/
def State.scalesAt (s : State) (c : Ctx) (buf : Cap) (addrs : List Int) : Res (List Loc × State) :=
  addrs.foldlM (fun (acc : List Loc × State) a => do
    let va ← capCheckAt buf [0] { r := true, scr := true } a 4 4
    let (t, s1) ← acc.2.translate c .engineRead false va
    guardTrap (s1.readHome t.loc 4).isSome 0x13 va
    return (acc.1 ++ [t.loc], s1)) ([], s)

/-! ## The array's reads -/

/-- The place of a byte offset in a buffer. -/
def Operand.at' (o : Operand) (off : Nat) : Loc :=
  let w := o.off + off
  let frame := match o.frames.find? (fun p => p.1 == w / 4096) with
    | some p => p.2
    | none => 0
  .scratch o.core (w / 4096) frame (w % 4096)

/-- Where in a buffer the word of row r, plane p and block j lies (R221). -/
def wordOffset (swz : Bool) (cw rows r p j : Nat) : Nat :=
  64 + ((j * cw + p) * rows + (if swz then r ^^^ (4 * ((p + j) % 8)) else r)) * 4

/-- The window pages that hold the words a TMMA reads of a buffer: its first `count` rows in `blocks` blocks from j0 on (R225). -/
def Operand.pages (o : Operand) (j0 blocks count : Nat) : List Nat :=
  ((List.range blocks).flatMap (fun j => (List.range o.cw).flatMap (fun p =>
    ((List.range count).map (fun r => (o.off + wordOffset o.swz o.cw o.rows r p (j0 + j)) / 4096)).eraseDups))).eraseDups

/-- The code of a column of a block from its plane words (R221). -/
def codeOf (planes : List Nat) (k : Nat) : Nat := planes.foldr (fun w c => (natBit w k).toNat + 2 * c) 0

/-- The value of a code (R71, R68). -/
def Operand.value (o : Operand) (code : Nat) : Fl :=
  match o.table with
  | some t => (t.decode code).1
  | none => Fl.ofPat (if o.bf16 then .bf16 else .b16) code

/-- The rows of one block as values, 32 columns, those at or beyond `lim` absent. -/
def State.blockRows (s : State) (o : Operand) (j count lim : Nat) : List (List Fl) :=
  tabulate count (fun r =>
    let planes := tabulate o.cw (fun p => s.homeNat (o.at' (wordOffset o.swz o.cw o.rows r p j)) 4)
    tabulate lim (fun k => o.value (codeOf planes k)))

/-- The taint of the sectors one block's rows lie in. -/
def State.blockTaint (s : State) (o : Operand) (j count : Nat) : Bool :=
  (List.range count).any (fun r => (List.range o.cw).any (fun p => s.homeTaint (o.at' (wordOffset o.swz o.cw o.rows r p j)) 4))

/-- A scale of the element's row or column in block j (R78, R223). -/
def State.scale (s : State) (mode : Nat) (locs : List Loc) (count j i : Nat) : Fl :=
  match locs[if mode = 2 then j * count + i else i]? with
  | some l => Fl.ofPat .b32 (s.homeNat l 4)
  | none => posZero

def Tmma.blocks (t : Tmma) : Nat := ceilDiv t.x.k 32

/-- The taint of the buffers, scales and slots, over some blocks (R226, R234). -/
def State.tmmaTaint (s : State) (t : Tmma) (js : List Nat) : Bool :=
  js.any (fun j => s.blockTaint t.a (t.x.j0 + j) t.x.m || s.blockTaint t.b (t.x.j0 + j) t.x.n) ||
  (t.scalesA ++ t.scalesB).any (fun l => s.homeTaint l 4) || t.x.taint ||
  t.a.table.any (·.taint) || t.b.table.any (·.taint)

/-- Whether any plane word a TMMA reads, of its first `count` rows, lies in a poisoned unit. -/
def State.tmmaPoison (s : State) (o : Operand) (j0 blocks count : Nat) : Bool :=
  (List.range blocks).any (fun j => (List.range o.cw).any (fun p => (List.range count).any (fun r =>
    (s.readHome (o.at' (wordOffset o.swz o.cw o.rows r p (j0 + j))) 4).isNone)))

/-! ## Issue (R225, R228) -/

/-- Steps 4 to 7 of R225, and then the pages TMMA reads, made resident (log entry 38): the TMMA ready for the array. Poison in its buffers
is consumed, and trapped, here. -/
def State.buildTmma (s : State) (x : TmmaSample) : Res (Tmma × State) := do
  let (va, ha, ta, s1) ← s.bufferAt x.ctx x.capA
  let (vb, hb, tb, s2) ← s1.bufferAt x.ctx x.capB
  if !headerFits ha 1 x.m (32 * x.j0 + x.k) x.fmta x.slotA then trapX 0x0A va (BitVec.ofNat 128 ha)
  if !headerFits hb 2 x.n (32 * x.j0 + x.k) x.fmtb x.slotB then trapX 0x0A vb (BitVec.ofNat 128 hb)
  let a := operandOf va ha x.fmta x.slotA
  let b := operandOf vb hb x.fmtb x.slotB
  if a.table.any (fun t => !t.valid) then trap 0x0D (if x.fmta.extractLsb' 0 2 = 3 then 3 else 0)
  if b.table.any (fun t => !t.valid) then trap 0x0D (if x.fmtb.extractLsb' 0 2 = 3 then 3 else 1)
  let blocks := ceilDiv x.k 32
  let (la, s3) ← s2.scalesAt x.ctx x.capA (scaleAddrs x.sclm x.scla x.m blocks x.j0 a.rows)
  let (lb, s4) ← s3.scalesAt x.ctx x.capB (scaleAddrs x.sclm x.sclb x.n blocks x.j0 b.rows)
  let (fa, s5) ← s4.framesOf x.ctx a.core (a.pages x.j0 blocks x.m)
  let (fb, s6) ← s5.framesOf x.ctx b.core (b.pages x.j0 blocks x.n)
  let a := { a with frames := fa }
  let b := { b with frames := fb }
  if s6.tmmaPoison a x.j0 blocks x.m then trap 0x13 va
  if s6.tmmaPoison b x.j0 blocks x.n then trap 0x13 vb
  return (⟨{ x with taint := x.taint || ta || tb }, a, b, la, lb, 0, 0, false, none⟩, s6)

/-- The core counts a TMMA it issues, and decides whether it is checked (R82). -/
def State.countTmma (s : State) (t : Tmma) : Tmma × State :=
  let core := coreOfSlot t.x.owner.slot
  let n := (s.core core).tmmaCount + 1
  let every := (s.core core).chkn.toNat
  ({ t with opid := n.toNat, checked := t.x.force || (every != 0 && n.toNat % every == 0) }, s.modCore core (fun k => { k with tmmaCount := n }))

/-- What a TMMA folds into the shadow reaches the shadow while it is held; a TCMT that has been issued since takes it on to the tile
(R41, R367). -/
def State.shadowTaint (s : State) (core : Nat) (o : Owner) (acc order : Nat) (tn : Bool) : State :=
  let k := s.core core
  let commits : List Nat := (k.queue ++ k.wide).filterMap (fun c => match c with
    | .acc a => if a.owner = o ∧ a.acc = acc ∧ a.kind = .commit ∧ order < a.order then some a.order else none
    | _ => none)
  match commits.head? with
  | some n => s.bringTaint core o acc n tn
  | none => s.modShadow core (fun h => { h with due := h.due || (tn && !h.leave) })

/-- A TMMA's taint, for the guard of later stores (R367). -/
def State.dueTaint (s : State) (t : Tmma) (tn : Bool) : State :=
  let core := coreOfSlot t.x.owner.slot
  if t.x.shadow then s.shadowTaint core t.x.owner t.x.acc t.x.order tn else s.bringTaint core t.x.owner t.x.acc t.x.order tn

/-- The taint a TMMA will have brought. -/
def State.tmmaDue (s : State) (t : Tmma) : State := s.dueTaint t (s.tmmaTaint t (List.range t.blocks))

def execTmma (n : BitVec 2) (z h c : Bool) (a b : GIdx) (s : State) : Out :=
  fallThrough 4 s (do
    let (x, s1) ← s.sampleTmma n.toNat z h c a b (s.e 0) (s.e 1) (s.t2 a b || s.eT 0 || s.eT 1)
    let (t, s2) ← (s1.settleReds (fun _ => true)).buildTmma x
    let s3 ← (s2.release 1).raiseT
    let (t, s4) := s3.countTmma t
    (s4.tmmaDue t).pushCmd (.tmma t))

/-! ## The array (R226, R44) -/

/-- A copy still carries an earlier TMMA of the strand: since T falls in the issue order of its matrix instructions, this one waits (R228,
R374). -/
def State.carriedFirst (s : State) (o : Owner) (order : Nat) : Bool :=
  let k := s.core (coreOfSlot o.slot)
  k.copies.any (fun c => (Cmd.copy c).before o order) || k.queue.any (fun q => match q with
    | .copy c => (Cmd.copy c).before o order
    | _ => false)

/-- Whether a command of the wide engine can go on now. -/
def State.wideReady (s : State) (c : Cmd) : Bool := s.mayRun c.owner && !c.order.any (s.carriedFirst c.owner)

/-- Whether the wide engine works on a command. -/
def Cmd.isWide : Cmd → Bool
  | .tmma _ | .acc _ | .vector _ => true
  | _ => false

/-- Whether a core waits for the wide engine: with the command in hand, or with the head of its queue (R44). -/
def State.wideWaits (s : State) (core : Nat) : Bool :=
  let k := s.core core
  match k.wide, k.queue with
  | c :: _, _ => s.wideReady c
  | [], c :: _ => c.isWide && s.wideReady c
  | [], [] => false

/-- The tile or shadow a TMMA folds into, as data. -/
def State.target (s : State) (x : TmmaSample) : Tile × Bool :=
  let core := coreOfSlot x.owner.slot
  if x.shadow then ((s.core core).shadow.data, (s.core core).shadow.taint) else ((s.tile core x.acc).data, (s.tile core x.acc).taint)
def State.setTarget (s : State) (x : TmmaSample) (d : Tile) (tn : Bool) : State :=
  let core := coreOfSlot x.owner.slot
  if x.shadow then s.modShadow core (fun h => { h with data := d, taint := tn }) else s.modTile core x.acc (fun h => { h with data := d, taint := tn })

/-- A tile allocated by this command is zeroed first (R219). -/
def State.freshTile (s : State) (core acc : Nat) (fresh : Bool) : State :=
  if fresh then s.modTile core acc (fun t => { t with data := [], taint := false }) else s

/-- What comes before the first block: the tile zeroed, the shadow copied, Z applied, and the check's capture (R82). -/
def State.openTmma (s : State) (t : Tmma) : Tmma × State :=
  let core := coreOfSlot t.x.owner.slot
  let s1 := s.freshTile core t.x.acc t.x.fresh
  let s2 := if t.x.bind then s1.modShadow core (fun h => { h with data := (s1.tile core t.x.acc).data, taint := (s1.tile core t.x.acc).taint }) else s1
  let (d, tn) := s2.target t.x
  let s3 := if t.x.zero then s2.setTarget t.x (tileRegion d t.x.m t.x.n (fun _ _ => 0)) tn else s2
  if !t.checked then (t, s3)
  else if (Table.find? s3.checks (core / 4)).isSome then ({ t with checked := false }, s3.count t.x.ctx.part 0x320 1)
  else
    let d := (s3.target t.x).1
    let ref := tabulate t.x.m (fun i => tabulate t.x.n (fun j => BitVec.ofNat 64 (convFl .b32 .b64 .rne (tileGet d i j).toNat).1))
    ({ t with ref := some ref },
     { s3 with checks := Table.set s3.checks (core / 4) ⟨core, t.x.ctx.part, t.opid, t.x.force, t.x.src, none⟩ })

/-- One K-block folded into the target (R77, R78), and into the recheck's reference (R83). -/
def State.foldTmma (s : State) (t : Tmma) : Tmma × State :=
  let j := t.next
  let lim := min 32 (t.x.k - 32 * j)
  let ra := s.blockRows t.a (t.x.j0 + j) t.x.m lim
  let rb := s.blockRows t.b (t.x.j0 + j) t.x.n lim
  let scales (m n : Nat) : Option (Fl × Fl) :=
    if t.x.sclm = 0 then none
    else some (s.scale t.x.sclm t.scalesA t.x.m j m, s.scale t.x.sclm t.scalesB t.x.n j n)
  let (d, tn) := s.target t.x
  let d' := tileRegion d t.x.m t.x.n (fun m n =>
    let leaves := List.zipWith leaf32 (ra.getD m []) (rb.getD n [])
    foldBlock (tileGet d m n) (leaves ++ List.replicate (32 - lim) posZero) (scales m n))
  let ref' := t.ref.map (fun r => tabulate t.x.m (fun m => tabulate t.x.n (fun n =>
    let old := Fl.ofPat .b64 ((r.getD m []).getD n 0).toNat
    BitVec.ofNat 64 (match refFold old (List.zip (ra.getD m []) (rb.getD n [])) (scales m n) with
      | .nan _ => 0x7FF8000000000000
      | .inf neg => if neg then 0xFFF0000000000000 else 0x7FF0000000000000
      | .fin x => (roundDy .b64 .rne x).1))))
  let brought := s.tmmaTaint t [j]
  ({ t with next := j + 1, ref := ref' }, (s.setTarget t.x d' (tn || brought)).dueTaint t brought)

/-- The greatest deviation over the tile and its first position (R83). -/
def worstOf (d : Tile) (ref : List (List Dword)) (m n : Nat) : Nat × Nat × Nat :=
  (List.range (m * n)).foldl (fun best i =>
    let dev := deviation (tileGet d (i / n) (i % n)) (BitVec.ofNat 32 (convFl .b64 .b32 .rne ((ref.getD (i / n) []).getD (i % n) 0).toNat).1)
    if best.1 < dev then (dev, i / n, i % n) else best) (0, 0, 0)

/-- TMMA_KBLOCK: the TMMA at the head of the wide engine's line for a core folds its next block, one turn of the rotation; after the last
one T falls. -/
def execTmmaKblock (core : Nat) (s : State) : Out :=
  event s (match (s.core core).wide with
    | .tmma t :: rest =>
      if s.wideReady (.tmma t) && s.mayServe .wide s.wideWaits core then
        let s0 := s.servedBy .wide s.wideWaits core
        let (t1, s1) := if t.next = 0 then s0.openTmma t else (t, s0)
        let (t2, s2) := s1.foldTmma t1
        if t2.next < t2.blocks then some (s2.modCore core (fun k => { k with wide := .tmma t2 :: rest }))
        else
          let s3 := ((s2.modCore core (fun k => { k with wide := rest })).settleTiles core).lower t2.x.owner (fun c => { c with t := c.t - 1 })
          match t2.ref, Table.find? s3.checks (core / 4) with
          | some r, some c =>
            some { s3 with checks := Table.set s3.checks (core / 4) { c with result := some (worstOf (s2.target t2.x).1 r t2.x.m t2.x.n) } }
          | _, _ => some s3
      else none
    | _ => none)

/-- RECHECK_COMPLETE (R84, R85): the quad's record goes to telemetry, a suspect is counted, and the buffer is free. -/
def execRecheckComplete (quad : Nat) (s : State) : Out :=
  event s (match Table.find? s.checks quad with
    | some ⟨core, part, opid, forced, src, some (dev, m, n)⟩ =>
      let susp := decide ((s.core core).chkt.toNat < dev)
      let bits := s.nowNat + 2 ^ 64 * src + 2 ^ 88 * susp.toNat + 2 ^ 89 * forced.toNat + 2 ^ 96 * (opid % 2 ^ 32) + 2 ^ 128 * dev +
        2 ^ 160 * m + 2 ^ 168 * n
      let s1 : State := { s with checks := Table.erase s.checks quad }
      let s2 := s1.postTel part ⟨BitVec.ofNat 256 bits, false, 1, s.nowNat, src⟩
      some (if susp then s2.count part 0x328 1 else s2)
    | _ => none)

/-- N of CHKN after a write of `v` (R81). -/
def chknOf (v : Nat) : Nat := if v = 0 then 0 else if 65536 < v then 65536 else 2 ^ Nat.log2 v

/-- A write to CHKN: the rounded value, and the core's TMMA count at 0. -/
def State.writeChkn (s : State) (core : Nat) (v : Dword) : State :=
  s.modCore core (fun k => { k with chkn := BitVec.ofNat 17 (chknOf (v.toNat % 2 ^ 17)), tmmaCount := 0 })

/-- CHKN_WRITE: what a CSRW of CHKN by a strand of the core does. -/
def execChknWrite (core : Nat) (v : Dword) (s : State) : Out := event s (some (s.writeChkn core v))

/-! ## Accumulator operations (R231, R232) -/

/-- Checks and translates every element, with the taint it is read with; a failure traps at the lowest failing address. -/
def placeElems (acc : Acc) (need : Need) (c : Cap) (size : Nat) (taint : Bool) (addrs : List Int) (s : State) : Res (List (Loc × Bool) × State) :=
  let one (s : State) (a : Int) : Res ((Loc × Bool) × State) := do
    let va ← capCheckAt c [0] need a size size
    let (t, s1) ← s.translate s.ctx acc false va
    s1.guardTaint t.pte taint va
    if need.r then
      let (v, s2) ← s1.readLoc s.ctx t.loc va size
      return ((t.loc, v.taint), s2)
    return ((t.loc, false), s1)
  let r := addrs.foldl (fun (st : List (Loc × Bool) × Option (Int × Stop) × Bool × State) a =>
    match one st.2.2.2 a with
    | .ok (l, s1) => (l :: st.1, st.2.1, st.2.2.1, s1)
    | .error .stall => (st.1, st.2.1, true, st.2.2.2)
    | .error e =>
      match st.2.1 with
      | some (b, _) => if a < b then (st.1, some (a, e), st.2.2.1, st.2.2.2) else st
      | none => (st.1, some (a, e), st.2.2.1, st.2.2.2)) ([], none, false, s)
  match r.2.1 with
  | some (_, e) => .error e
  | none => if r.2.2.1 then stall else .ok (r.1.reverse, r.2.2.2)

/-- The element addresses of a region, row by row (R231). -/
def regionAddrs (c : Cap) (stride : Int) (m n size : Nat) : List Int :=
  (tabulate m (fun i => tabulate n (fun j => c.plus ((i : Int) * stride + ((j * size : Nat) : Int))))).flatten

/-- An accumulator operation pushed: T rises. -/
def State.pushAcc (s : State) (o : AccOp) : Res State := do
  let s1 ← s.raiseT
  s1.pushCmd (.acc o)

/-- The record of an operation without memory. -/
def State.plainAcc (s : State) (acc : Nat) (kind : AccKind) (fresh : Bool) : AccOp × State :=
  let (n, s1) := s.nextSerial
  (⟨s.me?, s.ctx, n, acc, kind, fresh, 0, 0, [], none, 0, false⟩, s1)

def execTzero (n : BitVec 2) (s : State) : Out :=
  fallThrough 4 s (do
    let (fresh, s1) ← s.claimTile n.toNat
    let (o, s2) := s1.plainAcc n.toNat .zero fresh
    (s2.modTile s.myCore n.toNat (fun t => { t with due := false })).pushAcc o)

/-- TZERO.R (R219): the strand gives up the tile and a shadow bound to it. -/
def execTzeroR (n : BitVec 2) (s : State) : Out :=
  fallThrough 4 s (do
    let (fresh, s1) ← s.claimTile n.toNat
    let (o, s2) := s1.plainAcc n.toNat .release fresh
    let s3 := if s.holdsShadow n.toNat then s2.modShadow s.myCore (fun h => { h with leave := true, due := false }) else s2
    (s3.modTile s.myCore n.toNat (fun t => { t with leave := true, due := false })).pushAcc o)

/-- The taint of what describes a region: its registers. -/
def State.regionTaint (s : State) (a b : GIdx) : Bool := s.t2 a b || s.eT 0

/-- Under DMODE a store of a tile knows the tile's taint: it stalls while a copy still carries a TMMA of the strand on the tile (R367, log
entry 117). -/
def State.carriedStall (s : State) (acc : Nat) : Bool :=
  let carries (c : Copy) : Bool := (Cmd.copy c).onTile s.me? acc
  s.ctx.dmode && ((s.core s.myCore).copies.any carries || (s.core s.myCore).queue.any (fun q => match q with
    | .copy c => carries c
    | _ => false))

/-- The taint that a tile will have for a command issued now: what the guard of R367 reads. -/
def State.tileTaint (s : State) (acc : Nat) : Bool :=
  let t := s.tile s.myCore acc
  t.due || (t.taint && !s.pending s.myCore (Cmd.clears s.me? acc 0))

/-- An operation that stores the region's elements. -/
def State.tileStore (s : State) (kind : AccKind) (size : Nat) (n : BitVec 2) (a b : GIdx) : Res State := do
  if !shapeOk (s.e 0) then s.illegal
  let slot := s.slotOf 2
  let coded := kind == .storeCode
  guardTrap (!coded || slot.valid) 0x0D 2
  let (fresh, s1) ← s.claimTile n.toNat
  if s.carriedStall n.toNat then stall
  let tn := s1.tileTaint n.toNat || (coded && slot.taint)
  let m := shapeM (s.e 0)
  let k := shapeN (s.e 0)
  let stride := ((s.x b).extractLsb' 0 32).toInt
  let (locs, s2) ← placeElems .store { w := true } (s.cap a) size tn (regionAddrs (s.cap a) stride m k size) s1
  let (ord, s3) := s2.nextSerial
  (s3.settleReds (fun _ => true)).pushAcc ⟨s.me?, s.ctx, ord, n.toNat, kind, fresh, m, k, locs.map (·.1), if coded then some slot else none, 0, false⟩

/-- An operation that reads the region's elements. -/
def State.tileLoad (s : State) (kind : AccKind) (size : Nat) (n : BitVec 2) (a b : GIdx) : Res State := do
  if !shapeOk (s.e 0) then s.illegal
  let (fresh, s1) ← s.claimTile n.toNat
  let m := shapeM (s.e 0)
  let k := shapeN (s.e 0)
  let stride := ((s.x b).extractLsb' 0 32).toInt
  let (locs, s2) ← placeElems .load { r := true } (s.cap a) size false (regionAddrs (s.cap a) stride m k size) (s1.settleReds (fun _ => true))
  let (ord, s3) := s2.nextSerial
  let tn := s.regionTaint a b || locs.any (·.2)
  let s4 := s3.modTile s.myCore n.toNat (fun t => { t with due := t.due || tn })
  s4.pushAcc ⟨s.me?, s.ctx, ord, n.toNat, kind, fresh, m, k, locs.map (·.1), none, 0, s.regionTaint a b⟩

def execTst (n : BitVec 2) (a b : GIdx) (s : State) : Out := fallThrough 4 s (s.tileStore .store32 4 n a b)
def execTstBf (n : BitVec 2) (a b : GIdx) (s : State) : Out := fallThrough 4 s (s.tileStore .storeBf 2 n a b)
def execTstCd (n : BitVec 2) (a b : GIdx) (s : State) : Out := fallThrough 4 s (s.tileStore .storeCode 1 n a b)
def execTld (n : BitVec 2) (a b : GIdx) (s : State) : Out := fallThrough 4 s (s.tileLoad .load32 4 n a b)
def execTldBf (n : BitVec 2) (a b : GIdx) (s : State) : Out := fallThrough 4 s (s.tileLoad .loadBf 2 n a b)
def execTadd (n : BitVec 2) (a b : GIdx) (s : State) : Out := fallThrough 4 s (s.tileLoad .add 4 n a b)

/-- The rows, K extent and code columns of TCVT's buffer under FMTE's layout (R232). -/
def fmteLayout (f : Dword) : Nat := (f.extractLsb' 0 2).toNat
def fmteSwz (f : Dword) : Nat := (f.extractLsb' 40 8).toNat
def cvtRows (f : Dword) (m n : Nat) : Nat := if fmteLayout f = 2 then n else m
def cvtKext (f : Dword) (m n : Nat) : Nat := if fmteLayout f = 2 then m else n

def execTcvt (n : BitVec 2) (a : GIdx) (s : State) : Out :=
  fallThrough 4 s (do
    if !shapeOk (s.e 0) then s.illegal
    let f := s.me.csr.fmte
    let m := shapeM (s.e 0)
    let k := shapeN (s.e 0)
    let rows := cvtRows f m k
    if fmteLayout f == 0 || fmteLayout f == 3 || decide (1 < fmteSwz f) || (fmteSwz f == 1 && rows % 32 != 0) then s.illegal
    let slot := s.slotOf 2
    guardTrap slot.valid 0x0D 2
    let (fresh, s1) ← s.claimTile n.toNat
    if s.carriedStall n.toNat then stall
    let tn := s1.tileTaint n.toNat || slot.taint
    let c := s.cap a
    let size := bufferSize (cvtKext f m k) slot.width rows
    let _ ← capCheckAt c [0] { w := true } c.addr.toNat 64 64
    let (locs, s2) ← placeElems .store { w := true } c 4 tn (tabulate (size / 4) (fun i => c.plus ((4 * i : Nat) : Int))) s1
    let (ord, s3) := s2.nextSerial
    (s3.settleReds (fun _ => true)).pushAcc ⟨s.me?, s.ctx, ord, n.toNat, .convert, fresh, m, k, locs.map (·.1), some slot, f, false⟩)

/-- TCMT and TDSC: without a shadow for this tile p7 says so and nothing else happens. -/
def State.endShadow (s : State) (kind : AccKind) (n : BitVec 2) : Res State := do
  if !s.holdsShadow n.toNat then return s.setP7 true false
  let h := (s.core s.myCore).shadow
  let (o, s1) := s.plainAcc n.toNat kind false
  let s2 := s1.modShadow s.myCore (fun h => { h with leave := true, due := false })
  let s3 := if kind == .commit then s2.modTile s.myCore n.toNat (fun t => { t with due := t.due || h.due }) else s2
  let s4 ← s3.pushAcc o
  return s4.setP7 false false

def execTcmt (n : BitVec 2) (s : State) : Out := fallThrough 4 s (s.endShadow .commit n)
def execTdsc (n : BitVec 2) (s : State) : Out := fallThrough 4 s (s.endShadow .discard n)

/-! ### Their effects -/

/-- The bytes of TCVT's buffer by word: the header, then the planes (R220, R221, R232). -/
def cvtWords (o : AccOp) (t : TableSlot) (d : Tile) : List Nat × FFlags :=
  let rows := cvtRows o.fmte o.m o.n
  let kext := cvtKext o.fmte o.m o.n
  let cw := t.width
  let swz := fmteSwz o.fmte == 1
  let elem (r c : Nat) : Word := if fmteLayout o.fmte = 2 then tileGet d c r else tileGet d r c
  let codes : List (List (Nat × FFlags)) := tabulate rows (fun r => tabulate kext (fun c => t.encode (elem r c)))
  let header := t.sig.toNat + 2 ^ 32 * kext + 2 ^ 64 * rows + 2 ^ 72 * cw + 2 ^ 80 * fmteLayout o.fmte + 2 ^ 88 * fmteSwz o.fmte +
    2 ^ 96 * (o.fmte.extractLsb' 48 8).toNat
  let plane (i : Nat) : Nat :=
    let j := i / (cw * rows)
    let p := i / rows % cw
    let slot := i % rows
    let r := if swz then slot ^^^ (4 * ((p + j) % 8)) else slot
    (List.range 32).foldl (fun w k => w + 2 ^ k * (natBit ((codes.getD r []).getD (32 * j + k) (0, 0)).1 p).toNat) 0
  (tabulate 16 (fun i => header / 2 ^ (32 * i) % 2 ^ 32) ++ tabulate (ceilDiv kext 32 * cw * rows) plane,
   codes.flatten.foldl (fun f c => f ||| c.2) 0)

/-- A store operation's bytes, element by element, with the flags it raises. -/
def storedElems (o : AccOp) (d : Tile) : List (List Byte) × FFlags :=
  let elems : List Word := (tabulate o.m (fun i => tabulate o.n (tileGet d i))).flatten
  match o.kind, o.slot with
  | .storeBf, _ => (elems.map (fun w => toBytes 2 (convFl .b32 .bf16 .rne w.toNat).1), 0)
  | .storeCode, some t => let r := elems.map t.encode; (r.map (fun c => toBytes 1 c.1), r.foldl (fun f c => f ||| c.2) 0)
  | .convert, some t => let r := cvtWords o t d; (r.1.map (toBytes 4), r.2)
  | _, _ => (elems.map (fun w => toBytes 4 w.toNat), 0)

/-- The region as a load operation reads it, with its taint. -/
def State.loadElems (s : State) (o : AccOp) (size : Nat) : List Word × Bool × State :=
  o.places.foldl (fun (st : List Word × Bool × State) l =>
    match st.2.2.readLoc o.ctx l 0 size with
    | .ok (g, s1) => (st.1 ++ [BitVec.ofNat 32 g.nat], st.2.1 || g.taint, s1)
    | .error _ => (st.1 ++ [BitVec.ofNat 32 (st.2.2.homeNat l size)], st.2.1 || st.2.2.homeTaint l size, st.2.2)) ([], false, s)

/-- A store of the engine through a translation made at issue (R232): through L1, or in the scratchpad SRAM, or in the frame of a page
that has left its slot since. -/
def State.writeIssued (s : State) (c : Ctx) (loc : Loc) (bs : List Byte) (taint : Bool) : State := match loc with
  | .scratch _ _ _ _ => s.writeHome loc bs taint
  | _ => s.writeLoc c loc bs taint

/-- What an accumulator operation does when the engine runs it. -/
def State.runAcc (s : State) (core : Nat) (o : AccOp) : State :=
  let s := s.freshTile core o.acc o.fresh
  let t := s.tile core o.acc
  let set (s : State) (ws : List Word) (tn : Bool) (f : Word → Word → Word) : State :=
    (s.modTile core o.acc (fun t => { t with
      data := tileRegion t.data o.m o.n (fun i j => f (tileGet t.data i j) (ws.getD (i * o.n + j) 0))
      taint := t.taint || tn || o.taint })).bringTaint core o.owner o.acc o.order tn
  match o.kind with
  | .zero => s.modTile core o.acc (fun t => { t with data := [], taint := false })
  | .release => s.modTile core o.acc (fun t => { t with data := [], taint := false })
  | .discard => s.modShadow core (fun h => { h with data := [], taint := false })
  | .commit =>
    let h := (s.core core).shadow
    ((s.modTile core o.acc (fun t => { t with data := h.data, taint := t.taint || h.taint })).bringTaint core o.owner o.acc o.order
      h.taint).modShadow core (fun h => { h with data := [], taint := false })
  | .load32 => let (ws, tn, s1) := s.loadElems o 4; set s1 ws tn (fun _ w => w)
  | .loadBf => let (ws, tn, s1) := s.loadElems o 2; set s1 ws tn (fun _ w => w <<< 16)
  | .add =>
    let (ws, tn, s1) := s.loadElems o 4
    set s1 ws tn (fun e w => BitVec.ofNat 32 (addFl .b32 .rne (fl32 e) (fl32 w)).1)
  | _ =>
    let (bs, fl) := storedElems o t.data
    let tn := t.taint || o.slot.any (·.taint)
    let s1 := (scatterRuns (List.zip (o.places.map (fun l => ⟨l, 0, 0⟩)) bs) none).foldl (fun (s : State) r =>
      (s.writeIssued o.ctx r.1.loc r.2 tn).lostBy o.owner r.1.loc tn) s
    if s1.alive o.owner then s1.modStrand o.owner.slot (fun m => { m with csr := { m.csr with fflg := m.csr.fflg ||| fl } }) else s1

/-- ACCUM_OP_COMPLETE: the operation at the head of the wide engine's line for a core takes effect and T falls. -/
def execAccumOpComplete (core : Nat) (s : State) : Out :=
  event s (match (s.core core).wide with
    | .acc o :: rest =>
      if s.wideReady (.acc o) && s.mayServe .wide s.wideWaits core then
        some (((((s.servedBy .wide s.wideWaits core).runAcc core o).modCore core (fun k => { k with wide := rest })).settleTiles core).lower o.owner (fun c => { c with t := c.t - 1 }))
      else none
    | _ => none)

/-! ## Decode tables (R234) -/

def State.setSlot (s : State) (k : Nat) (t : TableSlot) : State :=
  s.modCore s.myCore (fun c => { c with tables := c.tables.setIfInBounds k t })

def execTbld (k : BitVec 2) (a : GIdx) (s : State) : Out :=
  fallThrough 4 s (do
    let c := s.cap a
    let va ← capCheckAt c [0] { r := true } c.addr.toNat 1088 64
    let (bs, tn, s1) ← s.readThrough va 1088
    let t := TableSlot.load (BitVec.ofNat 512 (ofBytes (bs.take 64))) (tabulate 256 (fun i => BitVec.ofNat 32 (ofBytes ((bs.drop (64 + 4 * i)).take 4)))) tn
    return (s1.setSlot k.toNat t).setP7 (!t.valid) ((s.g a).taint || tn))

/-- The image TBST writes: the WMAX field of an invalid slot is 0. -/
def TableSlot.image (t : TableSlot) : List Byte :=
  let h : BitVec 512 := if t.valid then t.header else t.header.extractLsb' 44 468 ++ (0#4) ++ t.header.extractLsb' 0 40
  toBytes 64 h.toNat ++ (t.entries.map (fun e => toBytes 4 e.toNat)).flatten

def execTbst (k : BitVec 2) (a : GIdx) (s : State) : Out :=
  fallThrough 4 s (do
    let c := s.cap a
    let t := s.slotOf k.toNat
    let va ← capCheckAt c [0] { w := true } c.addr.toNat 1088 64
    let img := t.image
    let (pl, s1) ← (piecesOf va 1088).foldlM (fun (acc : List (Trans × Dword × List Byte) × State) p => do
      let (tr, s1) ← acc.2.translate s.ctx .store false p.1
      s1.guardTaint tr.pte t.taint p.1
      return (acc.1 ++ [(tr, p.1, (img.drop p.2.1).take p.2.2)], s1)) ([], s)
    let s2 := pl.foldl (fun (s : State) p =>
      ((s.settleOver p.1.loc p.2.2.length).writeLoc s.ctx p.1.loc p.2.2 t.taint).noteLost p.1.loc t.taint) s1
    return s2.setP7 (!t.valid) ((s.g a).taint || t.taint))

def execTbinf (d : GIdx) (k : BitVec 2) (s : State) : Out :=
  let t := s.slotOf k.toNat
  let v : Dword := (0#8) ++ t.header.extractLsb' 16 8 ++ (0#7) ++ BitVec.ofBool t.valid ++ t.header.extractLsb' 40 4 ++ t.header.extractLsb' 0 4 ++ t.sig
  fallThrough 4 s (.ok (s.setX d v t.taint))

end Sys2Proof.Machine
end

