-- ==== Sys2Proof/Machine/Chain.lean ====
section
/-!
DEFINITION. Majors 0x66 and 0x67: stage chains (R267 to R286, R413, R414, R441). January keeps a chain's descriptor, stages
and pipes. A pipe's items stand in its queue region or in the save area (R273, R274), and the chain's record keeps them as they were
put there.
-/
namespace Sys2Proof.Machine

/-! ## Descriptors (R267 to R269) -/

/-- A parsed descriptor, with whether it is valid. -/
structure ChainDesc where
  stages : List StageDesc
  pipes : List Pipe
  flo : Nat
  pol : Nat
  valid : Bool
deriving DecidableEq, Repr

def stageOfWord (w : Nat) : StageDesc :=
  ⟨natBits w 63 32, natBit w 31, BitVec.ofNat 4 (natBits w 30 27), natBits w 25 20, natBits w 19 15, natBits w 12 6, natBits w 5 0⟩
def stageWordOk (w : Nat) : Bool :=
  !natBit w 26 && natBits w 14 13 == 0 && !natBit w 32 && decide (natBits w 5 0 + natBits w 12 6 ≤ 64) &&
  decide (natBits w 19 15 + natBits w 25 20 ≤ 32)

def pipeOfWord (w : Nat) : Pipe :=
  ⟨natBits w 3 0, natBits w 7 4, natBits w 14 8, natBit w 16, natBits w 49 32, [], 0, false, false, false, 0⟩
/-- The bytes of an item (R269). -/
def Pipe.size (p : Pipe) : Nat := if p.wide then 256 else 16
/-- The bytes of the queue region. -/
def Pipe.region (p : Pipe) : Nat := 64 + p.cap * p.size
def pipeWordOk (stages w : Nat) : Bool :=
  let p := pipeOfWord w
  natBits w 63 50 == 0 && natBits w 31 17 == 0 && !natBit w 15 && decide (2 ≤ p.cap) && decide (p.cap ≤ 64) &&
  decide (p.prod < p.cons) && decide (p.cons < stages) && p.qoff % 64 == 0 && decide (p.qoff + p.region ≤ 262144)

/-- Whether a test holds of every two different members of a list. -/
def pairwise {α : Type} (f : α → α → Bool) : List α → Bool
  | [] => true
  | x :: xs => xs.all (f x) && pairwise f xs

/-- Whether two ranges of first and count share no number. -/
def apart (a n b m : Nat) : Bool := n == 0 || m == 0 || decide (a + n ≤ b) || decide (b + m ≤ a)

/-- A descriptor from its 256 bytes. -/
def ChainDesc.ofNat (v : Nat) : ChainDesc :=
  let s := natBits v 3 0 + 1
  let np := natBits v 7 4
  let stageW (k : Nat) : Nat := v / 2 ^ (512 + 64 * k) % 2 ^ 64
  let pipeW (k : Nat) : Nat := v / 2 ^ (1536 + 64 * k) % 2 ^ 64
  let pipes := tabulate (min np 8) (fun k => pipeOfWord (pipeW k))
  let n := min np 8
  { stages := tabulate s (fun k => stageOfWord (stageW k))
    pipes := pipes
    flo := natBits v 23 16
    pol := natBits v 9 8
    valid := v / 2 ^ 24 % 2 ^ 488 == 0 && natBits v 15 10 == 0 && decide (natBits v 9 8 ≤ 1) && decide (np ≤ 8) &&
      (List.range 16).all (fun k => if k < s then stageWordOk (stageW k) else stageW k == 0) &&
      (List.range 8).all (fun k => if k < n then pipeWordOk s (pipeW k) else pipeW k == 0) &&
      pairwise (fun p q => p.cons != q.cons || apart p.qoff p.region q.qoff q.region) pipes }

/-- A valid descriptor that can be folded (R269). -/
def ChainDesc.foldable (d : ChainDesc) : Bool :=
  pairwise (fun a b => apart a.gfst a.gcnt b.gfst b.gcnt && apart a.vfst a.vcnt b.vfst b.vcnt && a.amask &&& b.amask == 0) d.stages &&
  d.stages.all (fun a => apart a.gfst a.gcnt 3 1)

/-- The size of the save area (R270). -/
def ChainDesc.saveSize (d : ChainDesc) : Nat :=
  ceilDiv (4096 + (d.pipes.map (fun p => (p.cap + 1) * p.size)).sum) 4096 * 4096

/-! ## Finding and changing a chain -/

namespace State

def modChain (s : State) (cluster id : Nat) (f : Chain → Chain) : State :=
  { s with chains := Table.modify s.chains cluster [] (fun l => l.map (fun c => if c.id = id then f c else c)) }
def dropChain (s : State) (cluster id : Nat) : State :=
  { s with chains := Table.modify s.chains cluster [] (fun l => l.filter (fun c => c.id != id)) }

end State

namespace Chain

def stage (c : Chain) (j : Nat) : StageState := c.states.getD j ⟨0, 0, true, true, false, .clear, 0, false⟩
def desc' (c : Chain) (j : Nat) : StageDesc := c.stages.getD j ⟨0, false, 0, 0, 0, 0, 0⟩
def setStage (c : Chain) (j : Nat) (f : StageState → StageState) : Chain := { c with states := listSet c.states j (f (c.stage j)) }
def pipe? (c : Chain) (p : Nat) : Option Pipe := c.pipes[p]?
def setPipe (c : Chain) (p : Nat) (q : Pipe) : Chain := { c with pipes := listSet c.pipes p q }
def live (c : Chain) : List Nat := (List.range c.states.length).filter (fun j => !(c.stage j).ended)
def ended (c : Chain) : Bool := c.live.isEmpty
/-- The slot a stage runs on. -/
def slotOf (c : Chain) (j : Nat) : Nat := if c.folded then c.slot else (c.stage j).slot

/-- Whether a GET or GETE of the pipe has something to take or to report, or a PUT has room or a closed pipe to report
(R274, R277, R281). -/
def ready (c : Chain) (p : Nat) (get : Bool) : Bool := match c.pipe? p with
  | none => true
  | some q => q.closed || (if get then !q.items.isEmpty else decide (q.items.length < (if c.folded then q.cap + 1 else q.cap)))

/-- Whether a stage of a folded chain can proceed (R274). -/
def canProceed (c : Chain) (j : Nat) : Bool :=
  !(c.stage j).ended && (match (c.stage j).stand with
    | .clear => true
    | .pipe p get => c.ready p get)

/-- An item joins a pipe: in the folded form it takes the latch, whose item moves to the residual FIFO's tail (R274). -/
def push (c : Chain) (p : Nat) (x : Item) : Chain := match c.pipe? p with
  | none => c
  | some q => c.setPipe p { q with items := q.items ++ [x], latch := c.folded }

/-- The oldest item leaves a pipe. -/
def pop (c : Chain) (p : Nat) : Chain := match c.pipe? p with
  | none => c
  | some q =>
    let residual := q.items.length - (if q.latch then 1 else 0)
    c.setPipe p { q with items := q.items.drop 1, head := if residual = 0 then q.head else (q.head + 1) % q.cap, latch := q.latch && decide (residual ≠ 0) }

/-- An item of a pipe as its place was found to hold it. -/
def setItem (c : Chain) (p k : Nat) (x : Item) : Chain := match c.pipe? p with
  | none => c
  | some q => c.setPipe p { q with items := listSet q.items k x }

/-- A pipe closes once (R280, R284). -/
def close (c : Chain) (p : Nat) (broken : Bool) (cause : BitVec 8) : Chain := match c.pipe? p with
  | none => c
  | some q => if q.closed then c else c.setPipe p { q with closed := true, broken := broken, cause := cause }

/-- A stage ends, and its outgoing pipes close (R280). -/
def endStage (c : Chain) (j : Nat) (killed : Bool) (cause : BitVec 8) : Chain :=
  (List.range c.pipes.length).foldl (fun c p =>
    if (c.pipe? p).any (fun q => q.prod == j) then c.close p killed cause else c)
    (c.setStage j (fun t => { t with ended := true, killed := killed, stand := .clear }))

/-- The stages' bits, as CHST and CHWT report them. -/
def stageBits (c : Chain) (f : StageState → Bool) : Nat := ((List.range c.states.length).filter (fun j => f (c.stage j))).foldl (fun n j => n + 2 ^ j) 0
def pipeBits (c : Chain) (f : Pipe → Bool) : Nat :=
  ((List.range c.pipes.length).filter (fun p => (c.pipe? p).any f)).foldl (fun n p => n + 2 ^ p) 0

end Chain

/-- The end word of GETE (R282). -/
def Pipe.endWord (q : Pipe) : Nat := 1 + 2 * q.broken.toNat + 2 ^ 8 * q.prod + 2 ^ 16 * q.cause.toNat

/-- The pipe as a switch leaves it: its items in one run, the latch empty (R277). -/
def Pipe.restart (q : Pipe) : Pipe := { q with head := 0, latch := false }

/-- Whether a trigger asks for the folded form. -/
def Trigger.fold : Trigger → Bool
  | .request _ f => f
  | .policy f => f
  | .preempt => true
  | .back => false

/-! ## The save area (R413, R414) -/

/-- A pipe state record. -/
def Pipe.record (q : Pipe) : Nat :=
  let over' := !q.latch && decide (q.cap < q.items.length)
  let count := q.items.length - (if q.latch || over' then 1 else 0)
  (if q.closed then q.endWord else 0) + 2 ^ 64 * q.head + 2 ^ 72 * count + 2 ^ 79 * q.latch.toNat +
    2 ^ 80 * over'.toNat + 2 ^ 81 * q.closed.toNat + 2 ^ 82 * q.broken.toNat

namespace State

/-- Writes bytes of a save area at their homes; what cannot be written is left out. -/
def saveBytes (s : State) (c : Chain) (off n v : Nat) (taint : Bool) : State :=
  match s.writeVirt c.ctx (c.save + BitVec.ofNat 64 off) (toBytes n v) taint with
  | .ok s1 => s1
  | .error _ => s

/-- The save area as R413 lays it out, but for its items. -/
def writeSave (s : State) (c : Chain) : State :=
  let head := c.folded.toNat + 2 * c.pinned.toNat + 4 * c.ended.toNat + 16 * c.stageBits (·.ended) + 2 ^ 32 * (if c.folded then c.slot else 0)
  let s1 := s.saveBytes c 0 64 head false
  let s2 := (List.range c.states.length).foldl (fun (s : State) j =>
    let t := c.stage j
    s.saveBytes c (0x40 + 64 * j) 64 (t.pc.toNat + 2 ^ 64 * t.fflg.toNat + 2 ^ 128 * t.started.toNat) false) s1
  (List.range c.pipes.length).foldl (fun (s : State) p =>
    match c.pipe? p with
    | none => s
    | some q => s.saveBytes c (0x440 + 64 * p) 64 q.record false) s2

/-- Where an item of a pipe stands, counted from the oldest (R273, R274, R277, R413): in the consumer's window, in the residual ring, or in
the save area's last slot, for the latch or the item beyond the C-th. -/
def itemPlace (c : Chain) (p : Nat) (q : Pipe) (k : Nat) : Dword :=
  let ring := (q.head + k) % q.cap
  let area := 0x1000 + ((c.pipes.take p).map (fun x => (x.cap + 1) * x.size)).sum
  let saved (n : Nat) : Dword := c.save + BitVec.ofNat 64 (area + n * q.size)
  if c.folded then saved (if (q.latch && k + 1 == q.items.length) || decide (q.cap ≤ k) then q.cap else ring)
  else if k < q.cap then
    BitVec.ofNat 64 (0x7F0000000000 + 0x100000 * coreOfSlot (c.stage q.cons).slot + q.qoff + 64 + ring * q.size)
  else saved q.cap

/-- Writes an item of a pipe where it stands: a g item keeps its tag. What cannot be written is left out (log entry 72). -/
def putItem (s : State) (c : Chain) (p k : Nat) : State := match c.pipe? p with
  | none => s
  | some q => match q.items[k]? with
    | none => s
    | some x =>
      let va := itemPlace c p q k
      if q.wide then (match s.writeVirt c.ctx va (toBytes 256 x.bits.toNat) x.taint with
        | .ok s1 => s1
        | .error _ => s)
      else match s.translate c.ctx .engineWrite x.tag va with
        | .ok (t, s1) => s1.writeCapHome t.loc (x.bits.extractLsb' 0 128) x.tag x.taint
        | .error _ => s

/-- Writes every item of a chain, as a switch leaves them (R277). -/
def putItems (s : State) (c : Chain) : State :=
  (List.range c.pipes.length).foldl (fun (s : State) p =>
    (List.range (((c.pipe? p).map (·.items.length)).getD 0)).foldl (fun (s : State) k => s.putItem c p k) s) s

/-- An item of a pipe, counted from the oldest: what its place then holds (R273). An item in the latch is January's own, and so is one whose
place cannot be read (log entry 72). -/
def itemAt (s : State) (c : Chain) (p : Nat) (q : Pipe) (k : Nat) (x : Item) : Item × State :=
  let va := itemPlace c p q k
  if c.folded && q.latch && q.items.length == k + 1 then (x, s)
  else if q.wide then (match s.readVirt c.ctx va 256 with
    | .ok (bs, tn, s1) => (if ofBytes bs = x.bits.toNat then x else ⟨BitVec.ofNat 2048 (ofBytes bs), false, tn⟩, s1)
    | .error _ => (x, s))
  else match s.translate c.ctx .engineRead false va with
    | .error _ => (x, s)
    | .ok (t, s1) => match s1.readHome t.loc 16 with
      | none => (x, s1)
      | some g =>
        let b : Qword := BitVec.ofNat 128 g.nat
        (if b.toNat = x.bits.toNat ∧ g.tag = x.tag then x else ⟨b.setWidth 2048, g.tag && !(Cap.malformed ⟨b, true⟩), g.taint⟩, s1)

/-- Puts a changed chain back; the save area of a folded one follows. -/
def setChain (s : State) (cluster : Nat) (c : Chain) : State :=
  let s1 := s.modChain cluster c.id (fun _ => c)
  if c.folded then s1.writeSave c else s1

/-! ## Equivalence points (R275) -/

/-- What R275 asks besides where the strand stands. -/
def pointClear (s : State) (slot : Nat) : Bool :=
  let m := s.strand slot
  m.ctr.l == 0 && m.ctr.s == 0 && m.ctr.c == 0 && m.ctr.t == 0 && m.streams.toList.all (·.isNone) && m.follow.isNone &&
  !decide ((s.core (coreOfSlot slot)).shadow.owner = some ⟨slot, m.born⟩)

/-- Whether a slot's strand runs a stage of a chain. -/
def runs (s : State) (slot cluster id : Nat) : Bool :=
  let m := s.strand slot
  m.status != .free && m.chain.any (fun r => r.cluster == cluster && r.id == id)

/-- Where a slot's strand stands, if it stands at an equivalence point: held, or waiting in a pipe instruction. -/
def pointOf (s : State) (slot cluster id : Nat) : Option Stand :=
  let m := s.strand slot
  if s.runs slot cluster id && s.pointClear slot && !m.exiting then
    match m.status, m.held, m.wait with
    | .ready, some st, _ => some st
    | .waiting, _, some ⟨_, .pipe _ _ p get, _, _, _⟩ => some (.pipe p get)
    | _, _, _ => none
  else none

/-! ## Triggers (R276, R286) -/

/-- Ends a requester's wait: with the switch done, or abandoned. -/
def answerRequest (s : State) (cluster id slot : Nat) (fold done : Bool) : State :=
  let m := s.strand slot
  match m.wait with
  | some w =>
    if w.on = .chainForm cluster id fold then
      let w' := if done then { w with hit := true } else { w with expired := true }
      s.setStrand slot { m with wait := some w', status := if m.status = .waiting then .ready else m.status }
    else s
  | none => s

def answerTrigger (s : State) (cluster id : Nat) (done : Bool) : Trigger → State
  | .request slot fold => s.answerRequest cluster id slot fold done
  | _ => s

/-- The slots whose strands run stages of a chain. -/
def stageSlots (s : State) (cluster id : Nat) : List Nat := (s.allStrands.map (·.1)).filter (fun k => s.runs k cluster id)

/-- Held stages continue once January seeks no cut. -/
def releaseHolds (s : State) (cluster id : Nat) : State :=
  if (s.findChain cluster id).any (fun c => !c.triggers.isEmpty) then s
  else (s.stageSlots cluster id).foldl (fun (s : State) k => s.modStrand k (fun m => { m with held := none })) s

/-- Ends the head triggers that ask for the form the chain has. -/
def settleTriggers (s : State) (cluster id : Nat) : State := match s.findChain cluster id with
  | none => s
  | some c =>
    let met (t : Trigger × Nat) : Bool := t.1.fold == c.folded
    let s1 := s.modChain cluster id (fun c => { c with triggers := c.triggers.dropWhile met })
    ((c.triggers.takeWhile met).foldl (fun s t => s.answerTrigger cluster id true t.1) s1).releaseHolds cluster id

/-- A trigger arrives: one of the scheduler's abandons the pending requests. -/
def addTrigger (s : State) (cluster id : Nat) (t : Trigger) : State := match s.findChain cluster id with
  | none => s
  | some c =>
    let isRequest (x : Trigger × Nat) : Bool := match x.1 with
      | .request _ _ => true
      | _ => false
    let scheduler : Bool := match t with
      | .preempt | .back => true
      | _ => false
    let gone := if scheduler then c.triggers.filter isRequest else []
    let kept := if scheduler then c.triggers.filter (fun x => !isRequest x) else c.triggers
    let s1 := s.modChain cluster id (fun c => { c with triggers := kept ++ [(t, s.nowNat)] })
    (gone.foldl (fun s x => s.answerTrigger cluster id false x.1) s1).settleTriggers cluster id

/-- January seeks the cut of a cores-return trigger from when the folded strand is READY for the first time since its crew resumed
(R349). -/
def settleBacks (s : State) : State :=
  if s.chains.all (fun e => e.2.all (fun c => !c.backDue)) then s
  else { s with chains := s.chains.map (fun e => (e.1, e.2.map (fun c =>
    if c.backDue && (s.strand c.slot).status == .ready then
      { c with backDue := false, triggers := c.triggers.map (fun t => if t.1 = .back then (.back, s.nowNat) else t) }
    else c))) }

/-- The chain window of a crew's pre-emption is over once no cut of it is sought for the pre-emption any more (R339). -/
def windowShut (s : State) (k : CrewId) : State :=
  if (Table.getD s.chains k.cluster []).any (fun c => decide (c.launch = k.launch) && c.triggers.any (fun t => t.1 == .preempt)) then s
  else s.modPlaced k (fun c => { c with halting := c.halting.map (fun h =>
    if h.reached.isSome && h.shut.isNone then { h with shut := some s.nowNat } else h) })

/-- The trigger January seeks a cut for, while its 2 µs last. -/
def sought (s : State) (c : Chain) : Option Trigger := match c.triggers with
  | (t, at') :: _ => if s.nowNat ≤ at' + 2000 ∧ ¬ (t = .back ∧ c.backDue = true) then some t else none
  | [] => none

/-! ## Coroutine switches (R274) -/

/-- A stage's entry address in the strand's PCC. -/
def entryOf (s : State) (c : Chain) (j : Nat) : Dword := BitVec.ofNat 64 (s.me.pcc.base + (c.desc' j).entry)

/-- Gives the folded strand to another stage; a stage that has not run starts at its entry with clear e and p registers. -/
def resumeStage (s : State) (r : ChainRef) (c : Chain) (j : Nat) : State :=
  let t := c.stage j
  let pc := if t.started then t.pc else s.entryOf c j
  let s1 := if t.started then s else s.modRegs (fun g => { g with p := Vector.replicate 8 PReg.zero, e := Vector.replicate 8 EReg.zero })
  let c1 := { c.setStage j (fun t => { t with started := true, stand := .clear }) with running := j }
  ((s1.modMe (fun m => { m with chain := some { r with stage := j }, wait := none, csr := { m.csr with fflg := t.fflg } })).setPc pc).setChain r.cluster c1

/-- Saves the running stage where it stands. -/
def leaveStage (s : State) (c : Chain) (st : Stand) : Chain :=
  c.setStage c.running (fun t => { t with pc := s.pc, fflg := s.me.csr.fflg, stand := st })

/-- A folded stage that cannot go on: to the pipe's other party, else to the lowest stage that can proceed, else it waits. While January
seeks a cut, a stage that has run stands at an equivalence point and holds there, so only one that has not run goes on (R276). -/
def blockFolded (s : State) (r : ChainRef) (c : Chain) (p : Nat) (get : Bool) : Out :=
  let c1 := s.leaveStage c (.pipe p get)
  let other := match c.pipe? p with
    | some q => if get then q.prod else q.cons
    | none => c.running
  let eligible (j : Nat) : Bool := j != c.running && c1.canProceed j && (c.triggers.isEmpty || !(c.stage j).started)
  match (other :: c.live).find? eligible with
  | some j => .next (s.resumeStage r c1 j)
  | none => finish s (waitFor (.pipe r.cluster r.id p get))

/-- A stage holds at an equivalence point; a folded strand goes to the lowest stage that has not run yet, if there is one. -/
def holdAt (s : State) (r : ChainRef) (c : Chain) (st : Stand) : Out :=
  let fresh := if c.folded then c.live.find? (fun j => !(c.stage j).started) else none
  match fresh with
  | some j => .next (s.resumeStage r (s.leaveStage c st) j)
  | none => .next (s.modMe (fun m => { m with held := some st }))

/-! ## Pipe instructions (R281 to R283) -/

/-- A chain fault: the pipe index and the reason. -/
def pipeFault (p reason : Nat) : Dword := BitVec.ofNat 64 (256 * p + reason)

/-- The chain the strand at issue runs a stage of. -/
def myChain (s : State) : Option (ChainRef × Chain) := match s.me.chain with
  | none => none
  | some r => (s.findChain r.cluster r.id).map (fun c => (r, c))

/-- The checks of a pipe instruction: a stage, its end of the pipe, the item kind. -/
def pipeCheck (s : State) (p : Nat) (get : Bool) (kind : Option Bool) : Res (ChainRef × Chain × Pipe) := match s.myChain with
  | none => trap 0x0C (pipeFault p 1)
  | some (r, c) =>
    match c.pipe? p with
    | none => trap 0x0C (pipeFault p 1)
    | some q =>
      if (if get then q.cons else q.prod) ≠ r.stage then trap 0x0C (pipeFault p 2)
      else if kind.any (· != q.wide) then trap 0x0C (pipeFault p 3)
      else .ok (r, c, q)

/-- What every pipe instruction and CHEQ of a stage leaves: e0 to e7 and p1 to p7 zero (R272), and a later CHEQ sees no switch
before it. -/
def stageDone (s : State) (r : ChainRef) (c : Chain) : State :=
  (s.modRegs (fun g => { g with p := Vector.replicate 8 PReg.zero, e := Vector.replicate 8 EReg.zero })).setChain r.cluster
    (c.setStage r.stage (fun t => { t with switched := false }))

/-- A pipe instruction of n bytes: its checks, the hold while January seeks a cut, its effect when the pipe is ready, else the
wait or the switch, or for the forms without waiting their miss. -/
def pipeInsn (n : Nat) (p : PIdx) (get : Bool) (kind : Option Bool) (waits : Bool)
    (act : State → ChainRef → Chain → Pipe → Res State) (s : State) : Out :=
  match s.pipeCheck p.toNat get kind with
  | .error e => finish s (.error e)
  | .ok (r, c, q) =>
    let ready := c.ready p.toNat get
    if !c.triggers.isEmpty && s.pointClear s.cur then
      s.holdAt r c (if waits then .pipe p.toNat get else .clear)
    else if waits && !ready then
      (if c.folded then s.blockFolded r c p.toNat get else finish s (waitFor (.pipe r.cluster r.id p.toNat get)))
    else
      let s1 := if get && q.closed && q.items.isEmpty then s.acquire 2 else s
      fallThrough n s1 (act s1 r c q)

/-- Takes the oldest item, an acquire at CLUSTER scope (R271): the item as its place holds it. The item beyond the C-th enters the ring behind
it, as its place holds it (R277). -/
def takeItem (s : State) (r : ChainRef) (c : Chain) (p : PIdx) (q : Pipe) (x : Item) : Item × State :=
  let (x', s1) := (s.acquire 2).itemAt c p.toNat q 0 x
  let c1 := c.pop p.toNat
  match q.items[q.cap]?, q.latch with
  | some y, false =>
    let (y', s2) := s1.itemAt c p.toNat q q.cap y
    let c2 := c1.setItem p.toNat (q.cap - 1) y'
    (x', (s2.putItem c2 p.toNat (q.cap - 1)).stageDone r c2)
  | _, _ => (x', s1.stageDone r c1)

/-- Sends an item, a release at CLUSTER scope. In the folded form the item that the latch held joins the residual FIFO (R274). -/
def sendItem (s : State) (r : ChainRef) (c : Chain) (p : PIdx) (x : Item) : State :=
  let c1 := c.push p.toNat x
  let n := ((c.pipe? p.toNat).map (·.items.length)).getD 0
  let s1 := (s.release 2).putItem c1 p.toNat n
  let s2 := if (c.pipe? p.toNat).any (·.latch) then s1.putItem c1 p.toNat (n - 1) else s1
  s2.stageDone r c1

end State

/-- A g register as an item, and back. -/
def Item.ofG (g : GReg) : Item := ⟨g.bits.setWidth 2048, g.tag, g.taint⟩
def Item.toG (x : Item) : GReg := ⟨x.bits.extractLsb' 0 128, x.tag, x.taint⟩

def chainFault {α : Type} (p : PIdx) (reason : Nat) : Res α := trap 0x0C (State.pipeFault p.toNat reason)

/-- GET of n bytes. -/
def getInsn (n : Nat) (d : GIdx) (p : PIdx) (s : State) : Out :=
  State.pipeInsn n p true (some false) true (fun s r c q => match q.items with
    | [] => chainFault p 4
    | x :: _ => let (x', s1) := s.takeItem r c p q x; .ok (s1.setG d x'.toG)) s

/-- PUT of n bytes. -/
def putInsn (n : Nat) (d : GIdx) (p : PIdx) (s : State) : Out :=
  State.pipeInsn n p false (some false) true (fun s r c q =>
    if q.closed then chainFault p 4 else .ok (s.sendItem r c p (Item.ofG (s.g d)))) s

def execGet (d : GIdx) (p : PIdx) (s : State) : Out := getInsn 4 d p s
def execPut (d : GIdx) (p : PIdx) (s : State) : Out := putInsn 4 d p s

/-- GETT and PUTT: p7 and a value taken are tainted (R150). -/
def execGett (d : GIdx) (p : PIdx) (s : State) : Out :=
  State.pipeInsn 4 p true (some false) false (fun s r c q => match q.items with
    | x :: _ => let (x', s1) := s.takeItem r c p q x; .ok (((s1.setG d { x'.toG with taint := true }).setP7 false true).taintEvent)
    | [] => if q.closed then chainFault p 4 else .ok (((s.stageDone r c).setP7 true true).taintEvent)) s
def execPutt (d : GIdx) (p : PIdx) (s : State) : Out :=
  State.pipeInsn 4 p false (some false) false (fun s r c q =>
    if q.closed then chainFault p 4
    else if c.ready p.toNat false then .ok (((s.sendItem r c p (Item.ofG (s.g d))).setP7 false true).taintEvent)
    else .ok (((s.stageDone r c).setP7 true true).taintEvent)) s

def execVget (d : VIdx) (p : PIdx) (s : State) : Out :=
  State.pipeInsn 4 p true (some true) true (fun s r c q => match q.items with
    | [] => chainFault p 4
    | x :: _ => let (x', s1) := s.takeItem r c p q x; s1.writeV d ⟨x'.bits, x'.taint⟩) s
def execVput (d : VIdx) (p : PIdx) (s : State) : Out :=
  State.pipeInsn 4 p false (some true) true (fun s r c q =>
    if q.closed then chainFault p 4
    else (s.readV d).map (fun (v, s1) => s1.sendItem r c p ⟨v.bits, false, v.taint⟩)) s

/-- GETE (R282): an item, or the end report, which may be read again. -/
def execGete (d : GIdx) (p : PIdx) (s : State) : Out :=
  State.pipeInsn 4 p true none true (fun s r c q => match q.items with
    | x :: _ =>
      if q.wide then .ok (((s.stageDone r c).setX d 0 false).setP7 false false)
      else let (x', s1) := s.takeItem r c p q x; .ok ((s1.setG d x'.toG).setP7 false false)
    | [] => .ok ((((s.acquire 2).stageDone r c).setX d (BitVec.ofNat 64 q.endWord) false).setP7 true false)) s

/-! ## Chain and pipe-end capabilities (R284, R285) -/

namespace State

/-- The chains a capability may name: this cluster's, bound in this address space, not by the launch unit (R441). -/
def nameable (s : State) : List Chain :=
  (Table.getD s.chains s.myCluster []).filter (fun c => !c.byLaunch && c.launch.part == s.myPart && c.ctx.asid == s.me.csr.asid)

/-- What gA names: a chain, or a pipe of one. -/
def chainOperand (s : State) (a : GIdx) (kinds : List Nat) : Res (Chain × Option Nat) :=
  let c := s.cap a
  if !c.tag then capTrap c 0x04 c.addr
  else if !kinds.contains c.kind.toNat then capTrap c 0x03 c.addr
  else
    let ad := c.addr.toNat
    if c.kind = 3 then
      match s.nameable.find? (fun x => x.desc == ad) with
      | some x => .ok (x, none)
      | none => trap 0x0C 6
    else
      match s.nameable.find? (fun x => decide (x.desc + 192 ≤ ad) && decide (ad < x.desc + 192 + 8 * x.pipes.length) && (ad - x.desc) % 8 == 0) with
      | some x => .ok (x, some ((ad - x.desc - 192) / 8))
      | none => trap 0x0C 6

/-- A pipe closes, by CHEND: a release at CLUSTER scope. Closing a closed pipe does nothing. -/
def chend (s : State) (c : Chain) (p : Nat) (k : Bool) : State :=
  if (c.pipe? p).all (·.closed) then s else (s.release 2).setChain s.myCluster (c.close p k 0)

/-- CHFLD and CHSPR (R284): done at once, or asked of January and waited for. -/
def askForm (s : State) (a : GIdx) (fold : Bool) : Out :=
  let out (s : State) (ones : Bool) : State := (s.setP7 ones true).taintEvent
  fallOrWait 4 s (
    match s.me.wait with
    | some ⟨_, .chainForm cl id f, _, hit, expired⟩ =>
      if hit || expired then .ok (out s expired, none) else waitFor (.chainForm cl id f)
    | _ => do
      let (c, _) ← s.chainOperand a [3]
      if c.ended then trap 0x0C 6
      else if c.folded = fold then return (out s false, none)
      else if fold && c.pinned then return (out s true, none)
      else
        let w : WaitOn := .chainForm s.myCluster c.id fold
        return (s.addTrigger s.myCluster c.id (.request s.cur fold), some w))

end State

def execChfld (a : GIdx) (s : State) : Out := s.askForm a true
def execChspr (a : GIdx) (s : State) : Out := s.askForm a false

/-- CHEQ of n bytes. -/
def cheqInsn (n : Nat) (d a : GIdx) (s : State) : Out :=
  match s.myChain with
  | none => fallThrough n s (.ok (s.setX d 0 false))
  | some (r, c) =>
    let named : Res Unit := if a = 0 then .ok () else (s.chainOperand a [3]).bind (fun (x, _) =>
      if x.ended then trap 0x0C 6 else if x.id ≠ c.id then trap 0x0C 2 else .ok ())
    match named with
    | .error e => finish s (.error e)
    | .ok _ =>
      if !c.triggers.isEmpty && s.pointClear s.cur then s.holdAt r c .clear
      else
        let b := (c.stage r.stage).switched
        fallThrough n s (.ok (((s.stageDone r c).setX d (BitVec.ofNat 64 b.toNat) true).taintEvent))

def execCheq (d a : GIdx) (s : State) : Out := cheqInsn 4 d a s

/-- The pipe end of a pipe (R285). -/
def pipeEnd (c : Chain) (p : Nat) : Cap := ⟨Cap.make 0 0 8 0 6 0x002 (BitVec.ofNat 64 (c.desc + 192 + 8 * p)), true⟩

def execChst (d a b : GIdx) (s : State) : Out :=
  let sel := b.toNat
  fallThrough 4 s (do
    if sel ≠ 0 ∧ ¬ (8 ≤ sel ∧ sel < 24) then s.illegal
    let (c, pend) ← s.chainOperand a [3, 6]
    let out (v : Nat) : State := (s.setX d (BitVec.ofNat 64 v) true).taintEvent
    match pend with
    | some p =>
      if sel ≠ 0 then s.illegal
      match c.pipe? p with
      | some q => return out (q.items.length + 256 * q.closed.toNat + 512 * q.broken.toNat)
      | none => trap 0x0C 6
    | none =>
      if sel = 0 then
        return out (c.folded.toNat + 2 * c.pinned.toNat + 4 * c.foldable.toNat + 8 * c.ended.toNat + 2 ^ 4 * c.stageBits (·.ended) +
          2 ^ 20 * c.pipeBits (·.closed) + 2 ^ 28 * c.pipeBits (·.broken))
      else
        let p := sel % 8
        match c.pipe? p with
        | none => trap 0x0C (State.pipeFault p 1)
        | some q =>
          if sel < 16 then return out q.items.length
          else return s.setCap d (pipeEnd c p) (s.g a).taint)

def execChend (a : GIdx) (p : PIdx) (k : Bool) (s : State) : Out :=
  fallThrough 4 s (do
    if a = 0 then
      match s.myChain with
      | none => chainFault p 1
      | some (r, c) =>
        match c.pipe? p.toNat with
        | none => chainFault p 1
        | some q => if q.prod ≠ r.stage then chainFault p 2 else return s.chend c p.toNat k
    else
      if p ≠ 0 then s.illegal
      let (c, pend) ← s.chainOperand a [6]
      return s.chend c (pend.getD 0) k)

/-- CHWT: waits until the chain has ended, then frees its state. -/
def execChwt (d a : GIdx) (s : State) : Out :=
  fallThrough 4 s (do
    let (c, _) ← s.chainOperand a [3]
    if !c.ended then waitFor (.chainEnd s.myCluster c.id)
    let v := c.stageBits (·.killed) + 2 ^ 16 * c.pipeBits (·.broken)
    return (((s.acquire 2).dropChain s.myCluster c.id).windowShut s.myCrew).setX d (BitVec.ofNat 64 v) (s.g a).taint)

/-! ## Binding (R270, R273, R274) -/

namespace State

/-- The slots of a spread placement: the first run of consecutive ring positions, in ring order from `start`, whose cores each
have a FREE slot (or `own`, which counts as one) and suit their stage. -/
def spreadSlots (s : State) (cluster n start : Nat) (own : Option Nat) (suits : Nat → Nat → Bool) : Option (List Nat) :=
  let slotAt (b j : Nat) : Option Nat :=
    let core := 32 * cluster + (start + b + j) % 32
    if suits j core then
      [4 * core, 4 * core + 1, 4 * core + 2, 4 * core + 3].find? (fun k => (s.strand k).status == .free || own == some k)
    else none
  (List.range 32).findSome? (fun b => (List.range n).mapM (slotAt b))

/-- Binds a descriptor and starts its stages, or answers the reason it fails. `mk` makes stage j's strand. -/
def bindChain (s : State) (cluster : Nat) (d : ChainDesc) (form start desc : Nat) (save : Dword) (ctx : Ctx) (launch : LaunchId)
    (byLaunch : Bool) (mk : Nat → Strand) : Except Nat State :=
  let n := d.stages.length
  let spread := if form = 1 then none else s.spreadSlots cluster n start none (fun _ _ => true)
  let folded := if form = 0 ∨ d.foldable = false ∨ spread.isSome then none
    else s.freeSlot ((List.range 32).map (fun k => 32 * cluster + (start + k) % 32))
  if !d.valid then .error 1
  else if form = 1 ∧ d.foldable = false then .error 2
  else if spread.isNone && folded.isNone then .error 3
  else if 16 ≤ (Table.getD s.chains cluster []).length then .error 4
  else
    let (id, s1) := s.nextSerial
    let isFolded := spread.isNone
    let slot := folded.getD 0
    let states := tabulate n (fun j => ⟨0, 0, !isFolded || j == 0, false, false, .clear, (spread.getD []).getD j slot, false⟩)
    let c : Chain := ⟨id, desc, launch, byLaunch, save, ctx, d.flo, d.pol, d.stages, states, d.pipes, isFolded, !d.foldable, d.foldable,
      slot, 0, [], 0, 0, none, start, false⟩
    let s2 : State := { s1 with chains := Table.modify s1.chains cluster [] (fun l => l ++ [c]) }
    let place (s : State) (j slot : Nat) : State := s.createStrand slot { mk j with chain := some ⟨cluster, id, j⟩ }
    let s3 := match spread with
      | some l => (List.range n).foldl (fun (s : State) j => place s j (l.getD j 0)) s2
      | none => place s2 0 slot
    .ok (s3.writeSave c)

end State

/-- The chain capability CHBND returns (R270). -/
def chainCapability (desc : Dword) : Cap := ⟨Cap.make 0 0 256 0 3 0x001 desc, true⟩

def execChbnd (d a b : GIdx) (s : State) : Out :=
  fallThrough 4 s (do
    let e0 := s.e 0
    if e0.extractLsb' 2 30 ≠ 0 ∨ e0.extractLsb' 0 2 = 3 then trap 0x01 (e0.setWidth 64)
    let va ← capCheckAt (s.cap a) [0] { r := true } (s.cap a).addr.toNat 256 64
    let (bs, tn, s1) ← (s.release 2).readVirt s.ctx va 256
    let desc := ChainDesc.ofNat (ofBytes bs)
    let save ← capCheckAt (s.cap b) [0] { r := true, w := true } (s.cap b).addr.toNat desc.saveSize 4096
    let t := s.t2 a b || s.eT 0 || tn
    let base := s.me.pcc.base
    let mk (j : Nat) : Strand :=
      { ({ Strand.fresh with pcc := s.me.pcc, pccFar := s.me.pccFar }).setPc
          (BitVec.ofNat 64 (base + (desc.stages.getD j ⟨0, false, 0, 0, 0, 0, 0⟩).entry)) with
        regs := Regs.fresh.wg 3 (s.g 3)
        csr := { s.freshCsr s.me.launch with frm := s.me.csr.frm, trapv := s.me.csr.trapv }
        launch := s.me.launch }
    match s1.bindChain s.myCluster desc (e0.extractLsb' 0 2).toNat (ringOfCore s.myCore) va.toNat save s.ctx s.me.launch false mk with
    | .error reason => return (s1.setX d (BitVec.ofNat 64 reason) t).setP7 true t
    | .ok s2 => return (s2.setCap d (chainCapability va) t).setP7 false t)

/-! ## The switches (R277) -/

namespace State

/-- The handles that a stage's strand is responsible for pass to the strand the stage moves to (R298). -/
def moveHandles (s : State) (from' : Owner) (stage : Nat) (to' : Owner) : State :=
  { s with parts := s.parts.map (fun (pi, p) => (pi, { p with entries := p.entries.map (fun (k, h) =>
      (k, if h.resp = some (from', stage) then { h with resp := some (to', stage) } else h)) })) }

/-- The accumulators of a mask that a strand holds. -/
def heldTiles (s : State) (o : Owner) (mask : BitVec 4) : List Nat :=
  (List.range 4).filter (fun i => mask.getLsbD i && decide ((s.tile (coreOfSlot o.slot) i).owner = some o))

/-- Takes tiles off a core, which frees them there. -/
def liftTiles (s : State) (core : Nat) (l : List Nat) : List (Nat × TileState) × State :=
  (l.map (fun i => (i, s.tile core i)), l.foldl (fun (s : State) i => s.modTile core i (fun _ => TileState.fresh)) s)

def dropTiles (s : State) (core : Nat) (o : Owner) (l : List (Nat × TileState)) : State :=
  l.foldl (fun (s : State) e => s.modTile core e.1 (fun _ => { e.2 with owner := some o })) s

/-- Whether every stage of a spread chain stands at an equivalence point, and its tiles fit the fold's target core. -/
def foldCut (s : State) (cluster : Nat) (c : Chain) (target : Nat) : Bool :=
  c.live.all (fun j =>
    let slot := c.slotOf j
    (s.pointOf slot cluster c.id).isSome && ((s.strand slot).chain.any (·.stage == j)) &&
    (slot == target || (s.heldTiles ⟨slot, (s.strand slot).born⟩ (c.desc' j).amask).all (fun i =>
      match (s.tile (coreOfSlot target) i).owner with
      | none => true
      | some o => decide (o = ⟨target, (s.strand target).born⟩))))

/-- One stage's registers, tiles and reports join the target strand; its slot becomes FREE. -/
def gather1 (s : State) (c : Chain) (target j : Nat) : State :=
  let slot := c.slotOf j
  let m := s.strand slot
  let to' : Owner := ⟨target, (s.strand target).born⟩
  if slot = target then s.moveHandles to' j to'
  else
    let d := c.desc' j
    let (tiles, s1) := s.liftTiles (coreOfSlot slot) (s.heldTiles ⟨slot, m.born⟩ d.amask)
    let s2 := ((s1.asSlot slot (fun t => t.release 2)).dropTiles (coreOfSlot target) to' tiles).moveHandles ⟨slot, m.born⟩ j to'
    let s3 := s2.modStrand target (fun t => { t with
      regs := copyV m.regs d.vfst d.vcnt (copyG m.regs d.gfst d.gcnt t.regs)
      lates := t.lates ++ m.lates })
    s3.setStrand slot Strand.fresh

end State

/-- CHAIN_FOLD: at a cut, the chain takes the slot of its lowest live stage (R277), and the strand continues with the lowest
stage that can proceed (R348). -/
def execChainFold (cluster chain : Nat) (s : State) : Out :=
  event s (match s.findChain cluster chain with
    | none => none
    | some c =>
      match s.sought c, c.live with
      | some t, low :: _ =>
        let target := c.slotOf low
        if t.fold && !c.folded && !c.pinned && s.foldCut cluster c target then
          let c1 : Chain := c.live.foldl (fun (k : Chain) j =>
            let m := s.strand (c.slotOf j)
            k.setStage j (fun x => { x with pc := m.pcc.addr, fflg := m.csr.fflg, started := true, switched := true,
                                            stand := (s.pointOf (c.slotOf j) cluster c.id).getD .clear })) c
          let c2 := { c1 with
            folded := true
            slot := target
            lowSamples := 0
            readySamples := 0
            pipes := c1.pipes.map Pipe.restart
            sched := if t = Trigger.preempt then some false else c.sched }
          let run := (c2.live.find? c2.canProceed).getD low
          let c3 := { c2.setStage run (fun x => { x with stand := .clear }) with running := run }
          let s1 := c.live.foldl (fun (s : State) j => s.gather1 c target j) s
          let s2 := s1.modStrand target (fun m => { m.setPc (c3.stage run).pc with
            status := .ready
            wait := none
            held := none
            chain := some ⟨cluster, c.id, run⟩
            csr := { m.csr with fflg := (c3.stage run).fflg } })
          some (((((s2.putItems c3).setChain cluster c3).dropClean (coreOfSlot target)).settleTriggers cluster c.id).windowShut ⟨c.launch, cluster⟩)
        else none
      | _, _ => none)

namespace State

/-- The placement of a folded chain's stages (R273, R277): its own slot counts as FREE, and so do the tiles it holds. -/
def unfoldSlots (s : State) (cluster : Nat) (c : Chain) : Option (List Nat) :=
  let o : Owner := ⟨c.slot, (s.strand c.slot).born⟩
  s.spreadSlots cluster c.stages.length c.homeRing (some c.slot) (fun j core =>
    let mask := (c.desc' j).amask
    (s.heldTiles o mask).isEmpty || (List.range 4).all (fun i => !mask.getLsbD i ||
      (match (s.tile core i).owner with
       | none => true
       | some o' => decide (o' = o))))

/-- Whether every stage of a folded chain stands at an equivalence point. -/
def spreadCut (s : State) (cluster : Nat) (c : Chain) : Bool :=
  (s.pointOf c.slot cluster c.id).isSome && c.live.all (fun j => (c.stage j).started)

end State

/-- CHAIN_SPREAD: at a cut, each live stage goes to its placed slot with its registers and tiles; the residual FIFOs and
latches head the queues (R277). -/
def execChainSpread (cluster chain : Nat) (s : State) : Out :=
  event s (match s.findChain cluster chain with
    | none => none
    | some c =>
      match s.sought c, s.unfoldSlots cluster c with
      | some t, some slots =>
        if !t.fold && c.folded && s.spreadCut cluster c then
          let m := s.strand c.slot
          let o : Owner := ⟨c.slot, m.born⟩
          let c0 := c.setStage c.running (fun x => { x with pc := m.pcc.addr, fflg := m.csr.fflg })
          let (lifted, s1) := c.live.foldl (fun (acc : List (Nat × List (Nat × TileState)) × State) j =>
            let (l, s') := acc.2.liftTiles (coreOfSlot c.slot) (acc.2.heldTiles o (c.desc' j).amask)
            (acc.1 ++ [(j, l)], s')) ([], s.asSlot c.slot (fun t => t.release 2))
          let s2 := s1.setStrand c.slot Strand.fresh
          let s3 := c.live.foldl (fun (s : State) j =>
            let d := c.desc' j
            let slot := slots.getD j 0
            let regs := copyV m.regs d.vfst d.vcnt (copyG m.regs d.gfst d.gcnt (Regs.fresh.wg 3 (m.regs.rg 3)))
            let mine := j == c.running
            let s' := s.createStrand slot { ({ Strand.fresh with pcc := m.pcc, pccFar := m.pccFar }).setPc (c0.stage j).pc with
              regs := regs
              csr := { m.csr with fflg := (c0.stage j).fflg }
              ctr := if mine then m.ctr else Counters.fresh
              launch := m.launch
              resumed := mine && m.resumed
              chain := some ⟨cluster, c.id, j⟩
              lates := if mine then m.lates else []
              scato := m.scato }
            let o' : Owner := ⟨slot, (s'.strand slot).born⟩
            (s'.dropTiles (coreOfSlot slot) o' (Table.getD lifted j [])).moveHandles o j o') s2
          let c1 : Chain := c.live.foldl (fun (k : Chain) j => k.setStage j (fun x => { x with slot := slots.getD j 0, stand := .clear, switched := true })) c0
          let c2 := { c1 with
            folded := false
            lowSamples := 0
            readySamples := 0
            sched := none
            backDue := false
            pipes := c1.pipes.map Pipe.restart }
          some ((((s3.putItems c2).modChain cluster c.id (fun _ => c2)).writeSave c2).settleTriggers cluster c.id)
        else none
      | _, _ => none)

/-- CHAIN_TRIGGER_TIMEOUT: no cut came within 2 µs, and the trigger ends (R276). -/
def execChainTriggerTimeout (cluster chain : Nat) (s : State) : Out :=
  event s (match s.findChain cluster chain with
    | none => none
    | some c =>
      match c.triggers with
      | (t, at') :: rest =>
        if at' + 2000 ≤ s.nowNat ∧ ¬ (t = .back ∧ c.backDue = true) then
          let s1 := (s.modChain cluster chain (fun c => { c with triggers := rest })).answerTrigger cluster chain false t
          let s2 := (s1.stageSlots cluster chain).foldl (fun (s : State) k => s.modStrand k (fun m => { m with held := none })) s1
          some ((s2.settleTriggers cluster chain).windowShut ⟨c.launch, cluster⟩)
        else none
      | [] => none)

/-- CHAIN_POLICY_SAMPLE: every 65,536 cycles (R276); cycles are not counted (log entry 1). -/
def execChainPolicySample (cluster chain : Nat) (s : State) : Out :=
  event s (match s.findChain cluster chain with
    | none => none
    | some c =>
      let low := c.pipes.all (fun q => decide (q.items.length ≤ c.flo))
      let lowN := if c.pol = 1 ∧ c.folded = false ∧ low = true then min (c.lowSamples + 1) 4 else 0
      let readyN := if c.pol = 1 ∧ c.folded = true ∧ s.runs c.slot cluster chain = true ∧ (s.strand c.slot).status = .ready
        then min (c.readySamples + 1) 4 else 0
      let s1 := s.modChain cluster chain (fun c => { c with lowSamples := lowN, readySamples := readyN })
      if c.ended || !c.triggers.isEmpty then some s1
      else if c.sched = some true ∧ c.folded = true ∧ c.backDue = false then some (s1.addTrigger cluster chain .back)
      else if lowN = 4 ∧ c.pinned = false then some (s1.addTrigger cluster chain (.policy true))
      else if readyN = 4 ∧ (s.unfoldSlots cluster c).isSome = true then some (s1.addTrigger cluster chain (.policy false))
      else some s1)

/-- CHAIN_STATE_FREE: the state of a chain that the launch unit bound goes once the chain has ended (R441). -/
def execChainStateFree (cluster chain : Nat) (s : State) : Out :=
  event s (match s.findChain cluster chain with
    | none => none
    | some c => if c.byLaunch && c.ended then some ((s.dropChain cluster chain).windowShut ⟨c.launch, cluster⟩) else none)

/-! ## Ending a stage (R280) -/

namespace State

/-- Frees the accumulators a strand holds in a mask, and its shadow when it is bound to one of them, after the strand's earlier commands
on them (R31, R219). -/
def freeTiles (s : State) (o : Owner) (mask : BitVec 4) : State :=
  let core := coreOfSlot o.slot
  let s1 := (s.heldTiles o mask).foldl (fun (s : State) i => s.modTile core i (fun t => { t with leave := true, due := false })) s
  let sh := (s1.core core).shadow
  (if sh.owner = some o ∧ mask.getLsbD sh.acc = true then s1.modShadow core (fun h => { h with leave := true, due := false }) else s1).settleTiles core

/-- The stage that the strand at a slot runs ends: its outgoing pipes close, normally for an exit, as broken with a cause for a
kill. A folded strand goes on with the lowest stage that can proceed, or waits on the lowest left; while January seeks a cut it goes on
only with a stage that has not run, and else holds (R276). True when no stage is left, or when the strand is the stage's own. -/
def endStageAt (s : State) (slot : Nat) (killed : Bool) (cause : BitVec 8) : State × Bool :=
  match (s.strand slot).chain with
  | none => (s, true)
  | some r =>
    match s.findChain r.cluster r.id with
    | none => (s, true)
    | some c =>
      let c1 := c.endStage r.stage killed cause
      if !c.folded then (s.setChain r.cluster c1, true)
      else
        match c1.live with
        | [] => (s.setChain r.cluster c1, true)
        | low :: _ =>
          let o : Owner := ⟨slot, (s.strand slot).born⟩
          let seeks := !c1.triggers.isEmpty
          let next := c1.live.find? (fun j => c1.canProceed j && (!seeks || !(c1.stage j).started))
          let j := next.getD low
          let t := c1.stage j
          let holds := seeks && next.isNone
          let s1 := (s.freeTiles o (c.desc' r.stage).amask).breakHandles (fun _ _ h => h.resp = some (o, r.stage)) (if killed then 2 else 3) 0
          let c2 := { c1.setStage j (fun t => { t with started := true, stand := if holds then t.stand else .clear }) with running := j }
          let s2 := s1.modStrand slot (fun m =>
            let pc := if t.started then t.pc else BitVec.ofNat 64 (m.pcc.base + (c.desc' j).entry)
            let regs := if t.started then m.regs else { m.regs with p := Vector.replicate 8 PReg.zero, e := Vector.replicate 8 EReg.zero }
            { m.setPc pc with
              status := .ready
              chain := some { r with stage := j }
              wait := none
              held := if holds then some t.stand else none
              regs := regs
              csr := { m.csr with fflg := t.fflg } })
          (s2.setChain r.cluster c2, false)

/-- The cause that parked a stage: 0 when none did. In the folded form one strand runs the stages, and it parks for the one it runs. -/
def stageCause (s : State) (r : ChainRef) (c : Chain) (j : Nat) : BitVec 8 :=
  let m := s.strand (c.slotOf j)
  if m.status = .parked ∧ m.chain = some { r with stage := j } then m.parkCause else 0

/-- Every stage of the chain at a slot is killed: the pipes of a stage that a fault parked carry its cause (R280). -/
def killChainAt (s : State) (slot : Nat) : State :=
  match (s.strand slot).chain with
  | none => s
  | some r =>
    match s.findChain r.cluster r.id with
    | none => s
    | some c => s.setChain r.cluster (c.live.foldl (fun (k : Chain) j => k.endStage j true (s.stageCause r c j)) c)

end State

end Sys2Proof.Machine
end

