-- ==== Sys2Proof/Machine/Handle.lean ====
section
/-!
DEFINITION. Majors 0x68 and 0x69: services, invocations and handles (R287 to R302). Messages travel in `hmsgs`; the messages of
one source to one handle are served in the order sent (R299).
-/
namespace Sys2Proof.Machine

/-! ## Handle ids (R289, R290) -/

/-- The entries of a partition's table (R290). -/
def Part.handleCap (p : Part) : Nat := 2 ^ ((p.reg 0x050).extractLsb' 0 5).toNat

/-- What an id names: nothing, or a use that is over (BROKEN, STALE); an entry of another device; or an entry here. -/
inductive HView where
  | stale
  | remote
  | here (part serial : Nat) (h : HEntry)
deriving DecidableEq, Repr

namespace State

/-- What an id names for a partition: entries of its own table alone, so that an id of another partition's, or one that a resize has
left behind, names nothing (R289, R392). -/
def handleIn (s : State) (pi : Nat) (id : Dword) : HView :=
  let dev := (id.extractLsb' 56 8).toNat
  let sl := (id.extractLsb' 48 6).toNat
  let slice := 32 * (id.extractLsb' 54 2).toNat + sl
  let serial := (id.extractLsb' 0 40).toNat
  if 32 ≤ sl then .stale
  else if dev ≠ s.devId then
    let dset := ((s.part pi).reg 0x030).extractLsb' 8 8
    if dset ≠ 0 && Config.peerHolds dev dset.toNat then .remote else .stale
  else match Table.find? (s.part pi).entries serial with
    | none => .stale
    | some h =>
      if serial < (s.part pi).handleCap && h.slice == slice && h.gen == id.extractLsb' 40 8 && h.state != .free then .here pi serial h
      else .stale

/-- What an id names for the strand at issue. -/
def handleView (s : State) (id : Dword) : HView := s.handleIn s.myPart id

/-- An instruction that changes an entry takes effect there after the strand's earlier messages to it, which may be on their way: it
stalls meanwhile (R299). -/
def inSequence (s : State) (id : Dword) : Res Unit :=
  if s.hmsgs.any (fun m => m.src == s.strandSrc s.cur && m.id == id) then stall else .ok ()

/-- The checks of a handle operand (R289): tag, seal, kind, then the permission its row names. -/
def handleCheck (s : State) (a : GIdx) (perm : Cap → Bool) : Res Dword :=
  let c := s.cap a
  if !c.tag then capTrap c 0x04 c.addr
  else if c.otype ≠ 0 then capTrap c 0x05 c.addr
  else if c.kind ≠ 1 then capTrap c 0x03 c.addr
  else if !perm c then capTrap c 0x03 c.addr
  else .ok c.addr

/-- Sends a message of the strand to a handle, with its sequence number (R299). -/
def sendMsg (s : State) (id : Dword) (body : HBody) : State :=
  let src := s.strandSrc s.cur
  let n := Table.getD s.hseq (src, id) 0
  { s with
    hseq := Table.set s.hseq (src, id) (n + 1)
    hmsgs := s.hmsgs ++ [⟨id, s.myPart, src, n, s.myCluster, body, 0⟩] }

end State

/-- The two copies of a handle capability (R289). -/
def handleCap (id : Dword) (perms : BitVec 12) : Cap := ⟨Cap.make 0 0 0 0 1 perms id, true⟩
def invokerCap (id : Dword) : Cap := handleCap id 0x481
def calleeCap (id : Dword) : Cap := handleCap id 0x082

/-- A reason word (R291). -/
def reasonWord (reason : Nat) (cause : BitVec 8) (user : Word) (origin : Dword) : Qword :=
  BitVec.ofNat 128 (origin.toNat + 2 ^ 64 * reason + 2 ^ 72 * cause.toNat + 2 ^ 80 * user.toNat)
def HEntry.reasonWord (h : HEntry) : Qword := Machine.reasonWord h.reason h.cause h.user h.origin
def staleWord (id : Dword) : Qword := reasonWord 6 0 0 id

/-! ## Allocation and resolution (R291 to R294) -/

namespace State

/-- Allocates an entry at a slice, from the oldest free serial; `none` when all are in use (R292). -/
def allocate (s : State) (slice : Nat) (xdev drop : Bool) : Option (Nat × Dword × State) :=
  let pi := s.myPart
  let p := s.part pi
  let fresh := p.nextSerial < p.handleCap
  let pick := if fresh then some p.nextSerial else p.freed.head?
  match pick with
  | none => none
  | some serial =>
    let gen := match Table.find? p.entries serial with
      | some h => h.gen
      | none => 0
    let h : HEntry := ⟨.unbound, gen, slice, GReg.zero, none, 0, none, s.strandSrc s.cur, s.me.launch, 0, 0, 0, 0, drop, xdev, []⟩
    let s1 := s.modPart pi (fun p => { p with
      nextSerial := if fresh then p.nextSerial + 1 else p.nextSerial
      freed := if fresh then p.freed else p.freed.drop 1 })
    some (serial, h.id s.devId serial, s1.setEntry pi serial h)

/-- An unresolved entry is FULFILLED: its INVONs are released to the core where the value lives, its SENDHs are dropped and
counted, and a pending DROP frees it (R291, R295). -/
def fulfil (s : State) (pi serial : Nat) (h : HEntry) (v : GReg) (core : Nat) : State :=
  let home := if h.state = .bound then h.home else core
  let sends := (h.msgs.filter (fun m => match m.body with | .send _ => true | _ => false)).length
  let out := h.msgs.filterMap (fun m => match m.body with
    | .invon code args k => some ({ m with src := s.srcNum 4 h.slice, body := .start home v code args k, place := 0 } : HMsg)
    | _ => none)
  let h' := { h with state := .fulfilled, value := v, home := home, msgs := [] }
  let s1 := if sends = 0 then s else s.count pi 0x358 sends
  let s2 : State := { s1 with hmsgs := s1.hmsgs ++ out }
  if h.drop then s2.freeEntry pi serial h' else s2.setEntry pi serial h'

/-- How many unresolved handles the strand at issue is responsible for (R298). How many of those it has bound on other devices are still
unresolved is free (log entry 51). -/
def burden (s : State) : Nat × State :=
  let here := (s.parts.map (fun e => (e.2.entries.filter (fun x => x.2.unresolved && x.2.resp.any (fun r => decide (r.1 = s.me?)))).length)).sum
  if s.me.farBound = 0 then (here, s)
  else
    let (n, s1) := s.draw
    (here + n % (s.me.farBound + 1), s1)

end State

/-! ## Invoking (R287, R288, R293, R294) -/

/-- A flaw of a placement word (R287, R288). -/
def placeFlaw (w : Dword) : Bool :=
  w.extractLsb' 27 5 != 0 || w.extractLsb' 3 5 != 0 || decide (4 < (w.extractLsb' 0 3).toNat) ||
  (w.extractLsb' 0 3 == 4 && decide (192 ≤ (w.extractLsb' 8 8).toNat))

namespace State

/-- The arguments that e0 names (R293). -/
def invokeArgs (s : State) : Res (List GReg) :=
  let e := s.e 0
  let first := (e.extractLsb' 0 6).toNat
  let n := (e.extractLsb' 8 5).toNat
  if e &&& 0xFFFFE0C0#32 ≠ 0 ∨ 16 < n ∨ 64 < first + n then trap 0x01 (e.setWidth 64)
  else .ok (tabulate n (fun k => s.g (BitVec.ofNat 6 (first + k))))

/-- Allocates the handle and returns it, then sends what the form sends (R294). -/
def invokeWith (s : State) (d : GIdx) (t xdev : Bool) (scope : Nat) (send : Nat → Dword → State → State) : State :=
  match s.allocate (2 * s.myCluster + s.myCore % 2) xdev (d == 0) with
  | none => (s.setG d ⟨0, false, t⟩).setP7 true t
  | some (serial, id, s1) => send serial id (((s1.release scope).setCap d (invokerCap id) false).setP7 false t)

/-- A new handle breaks at once. -/
def breakNew (s : State) (serial : Nat) (id : Dword) (reason : Nat) : State := match Table.find? (s.part s.myPart).entries serial with
  | some h => s.breakEntry s.myPart serial h reason 0 0 id
  | none => s

/-- Whether an id is of another device that may stand in the domain, where the partition set has no member (R394). -/
def noMember (s : State) (id : Dword) : Bool :=
  let dev := (id.extractLsb' 56 8).toNat
  decide ((id.extractLsb' 48 6).toNat < 32) && dev != s.devId && decide (dev < 192) && decide (s.handleView id ≠ .remote)

/-- INVOKE and INVAT: the record through the service capability, its placement word replaced by gB's for INVAT. -/
def invokeService (s : State) (d a : GIdx) (b : Option GIdx) : Res State := do
  let c := s.cap a
  let va ← capCheckAt c [2] { r := true, ldc := true, invoke := true } c.addr.toNat 48 16
  let granule (s : State) (k : Nat) : Res (GReg × State) := do
    let (g, s1) ← s.loadAt (if k < 2 then .capLoad else .load) (va + BitVec.ofNat 64 (16 * k)) 16
    let b : Qword := BitVec.ofNat 128 g.nat
    return (⟨b, g.tag && !(Cap.malformed ⟨b, true⟩), g.taint⟩, s1)
  let (code, s1) ← granule s 0
  let (frame, s2) ← granule s1 1
  let (g2, s3) ← granule s2 2
  let rec0 := TaskRec.ofGranules code frame ⟨0, false, g2.taint⟩ ⟨0, false, false⟩ none
  match rec0.check with
  | .error cause => capTrap ⟨code.bits, code.tag⟩ cause rec0.code.addr
  | .ok _ =>
    let own : Dword := g2.bits.extractLsb' 0 64
    guardTrap (g2.bits.extractLsb' 64 64 == 0) 0x01 va
    let place := match b with
      | some b => s.x b
      | none => own
    guardTrap (!placeFlaw place) 0x01 (if b.isSome then place else va)
    let args ← s3.invokeArgs
    let mode := (place.extractLsb' 0 3).toNat
    let core := (place.extractLsb' 16 11).toNat
    guardTrap (!(mode == 0 && !(s.part s.myPart).hasCluster (clusterOfCore core))) 0x07 va
    let dev := (place.extractLsb' 8 8).toNat
    let away := mode == 4 && dev != s.devId
    let dset := ((s.part s.myPart).reg 0x030).extractLsb' 8 8
    let present := dset ≠ 0 && Config.peerHolds dev dset.toNat
    let t := (s.g a).taint || (match b with | some b => (s.g b).taint | none => g2.taint) || s.eT 0
    return s3.invokeWith d t away (if away then 5 else 4) (fun serial id s =>
      if away && !present then s.breakNew serial id 4
      else if away then s
      else s.sendMsg id (.record place s.myCore { rec0 with
        key := place.extractLsb' 32 32
        callee := some ⟨id, args, s.myCluster⟩ }))

end State

def execInvoke (d a : GIdx) (s : State) : Out := fallThrough 4 s (s.invokeService d a none)
def execInvat (d a b : GIdx) (s : State) : Out := fallThrough 4 s (s.invokeService d a (some b))

/-- INVON: the code runs where the upstream handle's value lives (R295). -/
def execInvon (d a b : GIdx) (s : State) : Out :=
  fallThrough 4 s (do
    let up ← s.handleCheck a (·.permInvoke)
    let code := s.cap b
    match (TaskRec.ofGranules (s.g b) GReg.zero GReg.zero GReg.zero none).check with
    | .error cause => capTrap code cause code.addr
    | .ok c =>
      let args ← s.invokeArgs
      let remote := s.handleView up = .remote
      let shut := s.noMember up
      return s.invokeWith d (s.t2 a b || s.eT 0) (remote || shut) (if remote || shut then 5 else 4) (fun serial id s =>
        if shut then s.breakNew serial id 4
        else if remote then s else s.sendMsg up (.invon c args id)))

/-- SENDH. -/
def execSendh (a b : GIdx) (s : State) : Out :=
  fallThrough 4 s (do
    let id ← s.handleCheck a (·.permInvoke)
    let remote := s.handleView id = .remote
    let s1 := s.release (if remote then 5 else 4)
    return if remote then s1 else s1.sendMsg id (.send (s.g b)))

/-! ## Waiting and resolving (R297) -/

/-- A handle as a waiter sees it: not resolved, or resolved with gD's new contents and whether it broke; and the broken
handle's reason. -/
inductive HSeen where
  | pending
  | value (v : GReg)
  | broken (w : Qword)
deriving DecidableEq, Repr

namespace State

/-- What a look at a handle finds. A handle of another device answers what that device holds: free here (log entry 51). -/
def look (s : State) (id : Dword) : HSeen × State := match s.handleView id with
  | .stale => (.broken (staleWord id), s)
  | .here _ _ h =>
    (match h.state with
     | .fulfilled => .value h.value
     | .broken => .broken h.reasonWord
     | _ => .pending, s)
  | .remote =>
    let (n, s1) := s.draw
    let (v, s2) := s1.draw
    (match n % 3 with
     | 0 => .pending
     | 1 =>
       let b : Qword := BitVec.ofNat 128 v
       .value ⟨b, natBit n 4 && !(Cap.malformed ⟨b, true⟩), natBit n 5⟩
     | _ => .broken (BitVec.ofNat 128 (v % 2 ^ 112)), s2)

/-- AWAIT's answer: the value with p7 zero, or the reason word with p7 ones. -/
def awaitOut (s : State) (d : GIdx) (src : Bool) (own : Bool) : HSeen → State
  | .pending => ((s.setX d 0 (src || own)).setP7 true (src || own)).taintEventIf own
  | .value v => ((s.setG d { v with taint := v.taint || src || own }).setP7 false (src || own)).taintEventIf own
  | .broken w => ((s.setG d ⟨w, false, src || own⟩).setP7 true (src || own)).taintEventIf own

end State

def execAwait (d a : GIdx) (s : State) : Out :=
  fallThrough 4 s (do
    let id ← s.handleCheck a (·.permR)
    match s.look id with
    | (.pending, _) => waitFor (.handle id)
    | (v, s1) => return (s1.acquire 4).awaitOut d (s.g a).taint false v)

/-- AWAITT: as AWAIT, but a broken handle is a trap, which has acquired its breakage (R301) and reports its reason word (R334). -/
def execAwaitt (d a : GIdx) (s : State) : Out :=
  match s.handleCheck a (·.permR) with
  | .error e => finish s (.error e)
  | .ok id =>
    match s.look id with
    | (.pending, _) => finish s (waitFor (.handle id))
    | (.broken w, s1) => finish (s1.acquire 4) (trapX 0x0B id w)
    | (v, s1) => fallThrough 4 s (.ok ((s1.acquire 4).awaitOut d (s.g a).taint false v))

def execPollh (d a : GIdx) (s : State) : Out :=
  fallThrough 4 s (do
    let id ← s.handleCheck a (·.permR)
    let (v, s1) := s.look id
    let s2 := if v = .pending then s1 else s1.acquire 4
    return s2.awaitOut d (s.g a).taint true v)

def execHstat (d a : GIdx) (s : State) : Out :=
  fallThrough 4 s (do
    let id ← s.handleCheck a (·.permR)
    let out (s : State) (st reason : Nat) : State :=
      (((if 3 ≤ st then s.acquire 4 else s).setX d (BitVec.ofNat 64 (st + 16 * reason)) true)).taintEvent
    match s.handleView id with
    | .stale => return out s 4 6
    | .here _ _ h => return out s h.state.code (if h.state = .broken then h.reason else 0)
    | .remote =>
      let (n, s1) := s.draw
      let st := 1 + n % 4
      return out s1 st (if st = 4 then 1 + n / 4 % 9 else 0))

namespace State

/-- A remote home's answer to a change: whether it was made is free here (log entry 51). -/
def remoteAnswer (s : State) (t : Bool) : State :=
  let (n, s1) := s.draw
  s1.setP7 (n % 2 = 1) t

/-- HFUL and HBRK: a release, then the change at the entry if it is unresolved. -/
def resolveInsn (s : State) (a b : GIdx) (f : State → Nat → Nat → HEntry → State) : Out :=
  fallThrough 4 s (do
    let id ← s.handleCheck a (·.permW)
    s.inSequence id
    let t := s.t2 a b
    match s.handleView id with
    | .stale => return (s.release 4).setP7 true t
    | .remote => return (s.release 5).remoteAnswer t
    | .here pi serial h =>
      let s1 := s.release (if h.xdev then 5 else 4)
      if h.unresolved then return (f s1 pi serial h).setP7 false t else return s1.setP7 true t)

end State

def execHful (a b : GIdx) (s : State) : Out :=
  s.resolveInsn a b (fun s pi serial h => s.fulfil pi serial h (s.g b) s.myCore)
def execHbrk (a b : GIdx) (s : State) : Out :=
  s.resolveInsn a b (fun s pi serial h => s.breakEntry pi serial h 7 0 ((s.x b).extractLsb' 0 32) (h.id s.devId serial))

/-- HDROP at the entry: a resolved one becomes FREE, another does when it resolves. -/
def State.dropAt (s : State) (pi serial : Nat) (h : HEntry) : State :=
  if h.unresolved then s.setEntry pi serial { h with drop := true } else s.freeEntry pi serial h

/-- HDROP. -/
def execHdrop (a : GIdx) (s : State) : Out :=
  fallThrough 4 s (do
    let id ← s.handleCheck a (·.permR)
    s.inSequence id
    let t := (s.g a).taint
    match s.handleView id with
    | .stale => return s.setP7 true t
    | .remote => return s.remoteAnswer t
    | .here pi serial h => return (s.dropAt pi serial h).setP7 false t)

/-- HBIND: the mailbox's capability is checked for its slots, and the strand becomes responsible (R296, R298). -/
def execHbind (a b : GIdx) (s : State) : Out :=
  fallThrough 4 s (do
    let id ← s.handleCheck a (·.permW)
    let c := s.cap b
    let va ← capCheckAt c [0] { r := true, w := true } c.addr.toNat 64 64
    let (g, s1) ← s.loadAt .load va 4
    let t := s.t2 a b || g.taint
    if g.nat = 0 then s.illegal
    let _ ← capCheckAt c [0] { r := true, w := true } c.addr.toNat (64 + 32 * g.nat) 64
    s.inSequence id
    match s1.handleView id with
    | .stale => return s1.setP7 true t
    | .remote =>
      let (n, s2) := s1.burden
      if 16 ≤ n then return s2.setP7 true t
      else
        let (ok, s3) := s2.draw
        return ((if ok % 2 = 1 then s3 else s3.modMe (fun m => { m with farBound := m.farBound + 1 })).setP7 (ok % 2 = 1) t)
    | .here pi serial h =>
      let mine := h.resp.any (fun r => decide (r.1 = s.me?))
      let (n, s2) := s1.burden
      if h.state ≠ .unbound ∨ (mine = false ∧ 16 ≤ n) then return s2.setP7 true t
      else
        let box : Mailbox := ⟨va, g.nat, s.ctx, c.permStc, s.me?⟩
        return (s2.setEntry pi serial { h with state := .bound, box := some box, home := s.myCore, resp := some (s.me?, s.me.stage) }).setP7 false t)

/-! ## Messages on their way (R295, R299, R300) -/

/-- An argument as it arrives: outside the invoking cluster a capability without GLOBAL loses its tag (R293). -/
def GReg.arrive (g : GReg) (from' core : Nat) : GReg :=
  if clusterOfCore core ≠ from' && g.tag && !(Cap.permGlobal ⟨g.bits, true⟩) then { g with tag := false } else g

namespace State

/-- A record for a ready ring; a full ring passes it on to the device-wide queue (R288). -/
def ringOrQueue (s : State) (part core : Nat) (r : TaskRec) : State := match s.pushRing core r with
  | some s1 => s1
  | none => s.pushOrHold part r

/-- The emptiest ready ring of some cores, the lowest ring position on a tie. -/
def emptiest (s : State) (cores : List Nat) : Nat :=
  cores.foldl (fun best c => if (s.core c).ring.length < (s.core best).ring.length then c else best) (cores.headD 0)

/-- An invocation's record is pushed where its placement word says. -/
def placeRecord (s : State) (part core : Nat) (w : Dword) (r : TaskRec) : State :=
  match (w.extractLsb' 0 3).toNat with
  | 0 => s.ringOrQueue part (w.extractLsb' 16 11).toNat r
  | 1 => s.ringOrQueue part (s.emptiest (tabulate 4 (fun k => core / 4 * 4 + k))) r
  | 2 => s.ringOrQueue part (s.emptiest (tabulate 32 (fun k => core / 32 * 32 + k))) r
  | _ => s.pushOrHold part r

/-- Whether the context that a mailbox belongs to is halted (R342). -/
def boxHalted (s : State) (b : Mailbox) : Bool := s.contextAway b.owner

/-- Whether a message came over a link: its source number is another device's. -/
def fromAway (s : State) (m : HMsg) : Bool := decide (m.src / 65536 ≠ s.devId)

/-- Whether a message must not be served yet: an earlier one of its source to its handle is on its way, or, over a link, is still to come
(R299). Nothing earlier comes any more for a handle that the link has broken. -/
def msgBlocked (s : State) (i : Nat) (m : HMsg) : Bool :=
  if s.fromAway m then
    decide (m.seq ≠ Table.getD s.hseq (m.src, m.id) 0) && (match s.handleIn m.part m.id with
      | .here _ _ h => !(h.state == .broken && h.reason == 8)
      | _ => true)
  else (s.hmsgs.take i).any (fun q => q.src == m.src && q.id == m.id)

/-- A message of another device that is served moves on what is expected next of its source. -/
def expectNext (s : State) (m : HMsg) : State :=
  if s.fromAway m then { s with hseq := Table.set s.hseq (m.src, m.id) (m.seq + 1) } else s

/-- A message is buffered at its entry, as a record of 64 bytes, free since the manual lays none out, at a free place of the backing area
(R290, log entry 76). -/
def bufferMsg (s : State) (pi serial : Nat) (h : HEntry) (m : HMsg) : State :=
  let p := s.part pi
  let base := ((p.reg 0x050).extractLsb' 12 36).toNat * 4096
  let used (k : Nat) : Bool :=
    (Table.find? p.entries k).any (fun e => e.state != .free && !p.keepsEntry k e) ||
    p.entries.any (fun e => e.2.msgs.any (fun q => decide (q.place.toNat = base + 64 * k)))
  let (n, s1) := s.draw
  let (v, s2) := s1.draw
  let k := (((List.range p.handleCap).map (fun i => (n + i) % p.handleCap)).find? (fun k => !used k)).getD (n % p.handleCap)
  let taint := match m.body with
    | .send v => v.taint
    | .invon _ args _ => args.any (·.taint)
    | _ => false
  let s3 : State := { s2 with mem := s2.mem.store (base + 64 * k) (toBytes 64 v) taint }
  s3.setEntry pi serial { h with msgs := h.msgs ++ [{ m with place := BitVec.ofNat 64 (base + 64 * k) }] }

/-- Whether an entry is bound to a mailbox of another device: its SENDHs leave over the link. -/
def HEntry.boundAway (h : HEntry) : Bool := h.state == .bound && h.box.isNone

/-- The cluster a message is bound for: its core's, or that of its handle's home; `none` for another device, a queue segment, or an id whose
slice no device has (R289). -/
def msgCluster (s : State) (m : HMsg) : Option Nat :=
  let home := if (m.id.extractLsb' 56 8).toNat = s.devId ∧ (m.id.extractLsb' 48 6).toNat < 32 then
    some (16 * (m.id.extractLsb' 54 2).toNat + (m.id.extractLsb' 48 6).toNat / 2) else none
  match m.body with
  | .start core .. => if core < 2048 then some (clusterOfCore core) else home
  | .record w core _ => match (w.extractLsb' 0 3).toNat with
    | 0 => some (clusterOfCore (w.extractLsb' 16 11).toNat)
    | 1 | 2 => some (clusterOfCore core)
    | _ => none
  | _ => home

/-- Whether the routers of a message's partition forward it: to a cluster of the current bitmap or of a pending one (R391, R392), and
for no partition that is not ACTIVE (log entry 127). -/
def routed (s : State) (m : HMsg) : Bool :=
  let p := s.part m.part
  decide (p.state ≠ 0) && (s.msgCluster m).all (fun cl => p.hasCluster cl || p.pendingMap.any (·.getLsbD (meshOf cl)))

/-- The handle of an invocation breaks, as the March that its message was for sends word. -/
def tellBroken (s : State) (m : HMsg) (k : Dword) (reason : Nat) (origin : Dword) : State :=
  let slice := 32 * (m.id.extractLsb' 54 2).toNat + (m.id.extractLsb' 48 6).toNat
  { s with hmsgs := s.hmsgs ++ [⟨k, m.part, s.srcNum 4 slice, 0, m.cluster, .broke reason 0 0 origin, 0⟩] }

/-- The home, or the core, takes a message that has reached it. -/
def takeMsg (s : State) (m : HMsg) : State := match m.body with
  | .send _ =>
    (match s.handleIn m.part m.id with
     | .here pi serial h =>
       if HEntry.boundAway h then s
       else if h.unresolved && decide (h.msgs.length < 65535) then s.bufferMsg pi serial h m
       else s.count pi 0x358 1
     | _ => s.count m.part 0x358 1)
  | .bind =>
    (match s.handleIn m.part m.id with
     | .here pi serial h =>
       if h.state = .unbound then
         s.setEntry pi serial { h with state := .bound, home := 2048, resp := none, msgs := h.msgs.filter (fun q => match q.body with | .send _ => false | _ => true) }
       else s
     | _ => s)
  | .fulfil v =>
    (match s.handleIn m.part m.id with
     | .here pi serial h => if h.unresolved then s.fulfil pi serial h v 2048 else s
     | _ => s)
  | .drop =>
    (match s.handleIn m.part m.id with
     | .here pi serial h => s.dropAt pi serial h
     | _ => s)
  | .invon code args k =>
    let tell (reason : Nat) (origin : Dword) : State := s.tellBroken m k reason origin
    (match s.handleIn m.part m.id with
     | .here pi serial h =>
       (match h.state with
        | .fulfilled => { s with hmsgs := s.hmsgs ++ [{ m with src := s.srcNum 4 h.slice, body := .start h.home h.value code args k }] }
        | .broken => tell 5 h.origin
        | _ => if h.msgs.length < 65535 then s.bufferMsg pi serial h m else tell 9 k)
     | _ => tell 5 m.id)
  | .broke reason cause user origin =>
    (match s.handleIn m.part m.id with
     | .here pi serial h => if h.unresolved then s.breakEntry pi serial h reason cause user origin else s
     | _ => s)
  | .start core v code args k =>
    if 2048 ≤ core then
      (match s.handleIn m.part k with
       | .here pi serial h => s.setEntry pi serial { h with xdev := true }
       | _ => s)
    else
    let all := v :: args
    let r : TaskRec := ⟨code, Cap.null, false, false, false, 0, 0, 0, 0, 0, false, none, some ⟨k, all, m.cluster⟩⟩
    s.ringOrQueue m.part core r
  | .record w core r => s.placeRecord m.part core w r

/-- A message arrives, or is dropped on its way and counted as a route drop (R391). An upstream id homed at a slice that has left names no
entry, so the new handle of its INVON breaks (R289, R291); and so does the handle of an invocation whose core's cluster has left. -/
def landMsg (s : State) (m : HMsg) : State :=
  if s.routed m then s.takeMsg m
  else
    let s1 := s.count m.part 0x340 1
    match m.body with
    | .invon _ _ k => s1.tellBroken m k 5 m.id
    | .start _ _ _ _ k => s1.tellBroken m k 4 k
    | .record _ _ r => (match r.callee with
      | some c => s1.tellBroken m c.handle 4 c.handle
      | none => s1)
    | _ => s1

/-- A message that may be served now arrives. -/
def serveMsg (s : State) (m : HMsg) : State := (s.expectNext m).landMsg m

/-- Whether a SENDH is for the mailbox of a halted context, or of one whose caught messages have not all replayed (R342). -/
def msgForHalted (s : State) (m : HMsg) : Bool := match m.body, s.handleIn m.part m.id with
  | .send _, .here _ _ h => h.state == .bound && h.box.any (fun b => s.boxHalted b ||
      s.spills.any (fun e => e.2.any (fun x => decide (x.owner = b.owner))))
  | _, _ => false

end State

/-- HANDLE_MESSAGE: a message reaches its home, or its core. -/
def execHandleMessage (index : Nat) (s : State) : Out :=
  event s (match s.hmsgs[index]? with
    | none => none
    | some m =>
      if s.msgBlocked index m || s.msgForHalted m then none
      else some ({ s with hmsgs := listDrop s.hmsgs index }.serveMsg m))

/-- MAILBOX_DELIVER: the oldest SENDH of a bound handle goes to its slot, then WR moves on, a release at the handle's scope by its slice's
March (R302, R427), unless the mailbox is full (R296).
A mailbox that cannot be read or written keeps its message (log entry 52). -/
def execMailboxDeliver (part serial : Nat) (s : State) : Out :=
  event s (match Table.find? (s.part part).entries serial with
    | none => none
    | some h =>
      match h.box, h.msgs.findIdx? (fun m => match m.body with | .send _ => true | _ => false) with
      | some b, some i =>
        (match h.msgs[i]? with
         | some ⟨_, _, src, seq, _, .send v, _⟩ =>
           if h.state ≠ .bound ∨ s.boxHalted b = true then none
           else
             match s.readVirt b.ctx (b.addr + 8) 16 with
             | .error _ => none
             | .ok (bs, _, s1) =>
               let n := ofBytes bs
               let wr := n % 2 ^ 64
               let rd := n / 2 ^ 64
               if b.cap ≤ (BitVec.ofNat 64 (wr + 2 ^ 64 - rd)).toNat then none
               else
                 let slot := b.addr + BitVec.ofNat 64 (64 + 32 * (wr % b.cap))
                 let written : Res State := do
                   let tag := v.tag && b.stc
                   let (t, s2) ← s1.translate b.ctx (if tag then .capStore else .engineWrite) tag slot
                   let s3 := s2.writeCapHome t.loc v.bits tag v.taint
                   let s4 ← s3.writeVirt b.ctx (slot + 16) (toBytes 16 (src + 2 ^ 32 * (seq % 2 ^ 32))) v.taint
                   let s5 ← s4.writeVirt b.ctx (b.addr + 8) (toBytes 8 (wr + 1)) false
                   let (t', s6) ← s5.translate b.ctx .engineWrite false (b.addr + 8)
                   return s6.unitSync (if h.xdev then 5 else 4) (.slice h.slice) t'.loc
                 match written with
                 | .error _ => none
                 | .ok s5 => some (s5.setEntry part serial { Table.getD (s5.part part).entries serial h with msgs := listDrop h.msgs i })
         | _ => none)
      | _, _ => none)

/-- HANDLE_LINK_TIMEOUT: a message of a handle that spans devices was not delivered within 1 ms of its link's failed retry. -/
def execHandleLinkTimeout (part serial : Nat) (s : State) : Out :=
  event s (match Table.find? (s.part part).entries serial with
    | some h => if h.xdev && h.unresolved then some (s.breakEntry part serial h 8 0 0 (h.id s.devId serial)) else none
    | none => none)

end Sys2Proof.Machine
end

