-- ==== Sys2Proof/Machine/Copy.lean ====
section
/-!
DEFINITION. Majors 0x43 to 0x45: copy commands, channels and transfer ids (R235 to R244), and streams (R245).
-/
namespace Sys2Proof.Machine

/-! ## Channels (R236, R243) -/

def State.channel (s : State) (core ch : Nat) : Channel := (s.core core).channels.toList.getD ch Channel.fresh
def State.modChannel (s : State) (core ch : Nat) (f : Channel → Channel) : State :=
  s.modCore core (fun k => { k with channels := k.channels.setIfInBounds ch (f (k.channels.toList.getD ch Channel.fresh)) })

/-- Done(x) (R236). -/
def Channel.isDone (c : Channel) (x : Word) : Bool :=
  let d := (c.done - x).toNat
  decide (1 ≤ d) && decide (d ≤ 2 ^ 31)

/-- CPDONE (R236). -/
def Channel.cpdone (c : Channel) : Dword := c.next ++ c.done

/-- The error record as CPERR returns it (R243). -/
def Channel.errBits (c : Channel) : Qword :=
  match c.err with
  | some (id, cause, n, addr) => id ++ cause ++ n ++ (0#15) ++ (1#1) ++ addr
  | none => 0

/-- The record of a command that ends in error: the first is kept, later ones are counted (R237). -/
def Channel.record (c : Channel) (id : Word) (cause : BitVec 8) (addr : Dword) : Channel :=
  match c.err with
  | some (i, cs, n, a) => { c with err := some (i, cs, if n = 255 then n else n + 1, a) }
  | none => { c with err := some (id, cause, 0, addr) }

def execCpdn (d a : GIdx) (c : PIdx) (s : State) : Out :=
  let ch := s.channel s.myCore c.toNat
  let ok := ch.isDone ((s.x a).extractLsb' 0 32)
  let s1 := if ok then s.acquire 2 else s
  fallThrough 4 s (.ok ((s1.setX d ch.cpdone (s.g a).taint).setP7 (!ok) (s.g a).taint))

def execWaitid (a : GIdx) (c : PIdx) (s : State) : Out :=
  let id := (s.x a).extractLsb' 0 32
  fallThrough 4 s (if (s.channel s.myCore c.toNat).isDone id then .ok (s.acquire 2) else waitFor (.transfer c.toNat id))

def execCperr (d : GIdx) (c : PIdx) (s : State) : Out :=
  let b := (s.channel s.myCore c.toNat).errBits
  fallThrough 4 s (.ok ((s.setG d ⟨b, false, false⟩).modChannel s.myCore c.toNat (fun k => { k with err := none })))

/-! ## Issue (R235, R238 to R242) -/

/-- Scope and channel from e6. -/
def State.copyE6 (s : State) : Res (BitVec 3 × Nat) :=
  let v := s.e 6
  if v.extractLsb' 6 26 ≠ 0 ∨ v.extractLsb' 3 3 = 7 then trap 0x01 (v.setWidth 64)
  else .ok (v.extractLsb' 3 3, (v.extractLsb' 0 3).toNat)

/-- Whether an address translates to the MMIO map. -/
def State.isMmio (s : State) (c : Ctx) (va : Dword) : Option Dword :=
  if inScratchRange va.toNat then none
  else
    match s.leaf c (va.toNat % 2 ^ 48) with
    | .ok (n, pte, _) =>
      let pa := leafAddr n pte (va.toNat % 2 ^ 48)
      if natBits pa 47 40 = s.devId ∧ 0xF0 ≤ natBits pa 39 32 then some pte else none
    | .error _ => none

/-- The byte extent of a strided shape: its lowest byte and its length. -/
def extent (base : Int) (stride : Int) (rows len : Nat) : Int × Nat :=
  if rows = 0 ∨ len = 0 then (base, 0)
  else
    let last := base + ((rows : Int) - 1) * stride
    (min base last, (max base last - min base last).toNat + len)

/-- The capability check of one side at issue; an extent that begins or ends in MMIO is refused there. -/
def State.copySide (s : State) (c : Cap) (need : Need) (x : Int × Nat) : Res Unit := do
  let lo ← capCheckAt c [0] need x.1 x.2 1
  if x.2 != 0 then
    match s.isMmio s.ctx lo with
    | some pte => trapX 0x07 lo (pte.setWidth 128)
    | none =>
      let hi := lo + BitVec.ofNat 64 (x.2 - 1)
      match s.isMmio s.ctx hi with
      | some pte => trapX 0x07 hi (pte.setWidth 128)
      | none => return ()

/-- Whether an address lies in a scratchpad window (R120). -/
def inWindowOf (a : Nat) : Bool :=
  inScratchRange a && decide ((a - 0x7F0000000000) / 0x100000 < 2048) && decide ((a - 0x7F0000000000) % 0x100000 < 0x40000)

/-- The address a window offset names: in the destination's window, or in the issuing core's (R239). -/
def State.windowAddr (s : State) (dst : Cap) (off : Word) : Dword :=
  let a := dst.addr.toNat
  let core := if inWindowOf a then (a - 0x7F0000000000) / 0x100000 else s.myCore
  BitVec.ofNat 64 (0x7F0000000000 + core * 0x100000 + off.toNat)

/-- The flag's or barrier word's address, checked (R239). -/
def State.markAt (s : State) (dst : Cap) : Res Dword := do
  let v := s.e 4
  guardTrap (v.extractLsb' 18 14 == 0) 0x01 (v.setWidth 64)
  return s.windowAddr dst v

/-- A copy command with its operands as they stand (R238). -/
def State.copyBase (s : State) (kind : CopyKind) (scope : BitVec 3) (ch : Nat) (a b : GIdx) (total : Nat) : Copy where
  owner := s.me?
  ctx := s.ctx
  src := s.strandSrc s.cur
  kind := kind
  chan := ch
  id := 0
  scope := scope
  dst := s.cap a
  source := s.cap b
  e0 := s.e 0
  e1 := s.e 1
  e2 := s.e 2
  e3 := s.e 3
  e5 := s.e 5
  mark := 0
  cw := 0
  sig := 0
  tmma := none
  taint := false
  pos := 0
  total := total
  held := []
  heldTaint := false
  leaves := []
  carry := false
  broken := none
  error := none
  acted := false

/-- The push: an id, C, the release of the strand's earlier stores, and the dispatch queue. At CORE scope too the stores
leave L1, since the command's accesses come after them (R138). -/
def State.pushCopy (s : State) (d : GIdx) (c : Copy) (taint : Bool) : Res State := do
  let s1 ← s.raiseC
  let id := (s.channel s.myCore c.chan).next
  let s2 := (s1.release (max c.scope.toNat 1)).modChannel s.myCore c.chan (fun k => { k with next := k.next + 1 })
  let s3 ← s2.pushCmd (.copy { c with id := id })
  return s3.setX d (id.setWidth 64) taint

/-- The taint of gD: its registers, e6 and those of `es`. -/
def State.copyTaint (s : State) (a b : GIdx) (es : List (BitVec 3)) : Bool := s.t2 a b || s.eT 6 || es.any s.eT

/-- COPY and the forms that copy as it does: the checks, and the record. -/
def State.linear (s : State) (kind : CopyKind) (a b : GIdx) : Res Copy := do
  let (scope, ch) ← s.copyE6
  let n := (s.e 0).toNat
  s.copySide (s.cap a) { w := true } ((s.cap a).addr.toNat, n)
  s.copySide (s.cap b) { r := true } ((s.cap b).addr.toNat, n)
  return s.copyBase kind scope ch a b n

def execCopy (d a b : GIdx) (s : State) : Out :=
  fallThrough 4 s (do
    let c ← s.linear .copy a b
    s.pushCopy d c (s.copyTaint a b [0]))

def execCopy2 (d a b : GIdx) (s : State) : Out :=
  fallThrough 4 s (do
    let (scope, ch) ← s.copyE6
    let len := (s.e 0).toNat
    let rows := (s.e 1).toNat
    s.copySide (s.cap a) { w := true } (extent (s.cap a).addr.toNat (s.e 2).toInt rows len)
    s.copySide (s.cap b) { r := true } (extent (s.cap b).addr.toNat (s.e 3).toInt rows len)
    s.pushCopy d (s.copyBase .copy2 scope ch a b (len * rows)) (s.copyTaint a b [0, 1, 2, 3]))

def execCopyf (d a b : GIdx) (s : State) : Out :=
  fallThrough 4 s (do
    let _ ← s.copyE6
    let mark ← s.markAt (s.cap a)
    let c ← s.linear .copyf a b
    guardTrap (mark.toNat % 8 == 0) 0x08 mark
    s.pushCopy d { c with mark := mark, taint := s.eT 5 } (s.copyTaint a b [0, 4, 5]))

def execCopyb (d a b : GIdx) (s : State) : Out :=
  fallThrough 4 s (do
    let _ ← s.copyE6
    let mark ← s.markAt (s.cap a)
    let c ← s.linear .copyb a b
    guardTrap (mark.toNat % 16 == 0) 0x08 mark
    s.pushCopy d { c with mark := mark, taint := s.eT 0 } (s.copyTaint a b [0, 4]))

/-- A TMMA word that passes step 1 of R225; VER and SCH are ignored (R242). -/
def isTmmaWord (w : Word) : Bool := w &&& 0xE00107F1#32 == 0x00000601#32

def execCopyt (d a b : GIdx) (s : State) : Out :=
  fallThrough 4 s (do
    let c ← s.linear .copyt a b
    let w := s.e 4
    guardTrap (isTmmaWord w) 0x01 (w.setWidth 64)
    let ta := w.extractLsb' 17 6
    let tb := w.extractLsb' 23 6
    let (x, s1) ← s.sampleTmma (w.extractLsb' 11 2).toNat (w.getLsbD 13) (w.getLsbD 14) (w.getLsbD 15) ta tb (s.e 5) (s.e 1)
      (s.t2 ta tb || s.eT 1 || s.eT 5)
    let s2 ← s1.raiseT
    s2.pushCopy d { c with tmma := some x } (s.copyTaint a b [0, 1, 4, 5]))

/-- The shape and header of COPYP and COPYZ (R240): ROWS, KEXT, code width and signature. -/
def State.packShape (s : State) : Res (Nat × Nat × Nat × Word) := do
  let rows := ((s.e 0).extractLsb' 16 8).toNat
  let kext := ((s.e 0).extractLsb' 0 16).toNat
  let h := s.e 5
  let src := (h.extractLsb' 18 2).toNat
  let layout := (h.extractLsb' 16 2).toNat
  let swz := (h.extractLsb' 8 8).toNat
  if (s.e 0).extractLsb' 24 8 != 0 || rows == 0 || decide (128 < rows) || kext == 0 || h.extractLsb' 22 10 != 0 || src == 3 ||
      layout == 0 || layout == 3 || decide (1 < swz) || (swz == 1 && rows % 32 != 0) then s.illegal
  let slot := s.slotOf (h.extractLsb' 20 2).toNat
  match src with
  | 0 =>
    guardTrap slot.valid 0x0D ((h.extractLsb' 20 2).setWidth 64)
    return (rows, kext, slot.width, slot.sig)
  | 1 => return (rows, kext, 16, 0xFFFF0001)
  | _ => return (rows, kext, 16, 0xFFFF0002)

def codeBytes (cw : Nat) : Nat := if cw = 16 then 2 else 1

def execCopyp (d a b : GIdx) (s : State) : Out :=
  fallThrough 4 s (do
    let (scope, ch) ← s.copyE6
    let (rows, kext, cw, sig) ← s.packShape
    let size := bufferSize kext cw rows
    s.copySide (s.cap a) { w := true } ((s.cap a).addr.toNat, size)
    s.copySide (s.cap b) { r := true } (extent (s.cap b).addr.toNat ((s.e 1).toNat : Int) rows (kext * codeBytes cw))
    s.pushCopy d { s.copyBase .copyp scope ch a b size with cw := cw, sig := sig, taint := s.eT 0 || s.eT 5 } (s.copyTaint a b [0, 1, 5]))

def execCopyz (d a b : GIdx) (s : State) : Out :=
  fallThrough 4 s (do
    let (scope, ch) ← s.copyE6
    let (rows, kext, cw, sig) ← s.packShape
    let size := bufferSize kext cw rows
    s.copySide (s.cap a) { w := true } ((s.cap a).addr.toNat, size)
    s.pushCopy d { s.copyBase .copyz scope ch a b size with cw := cw, sig := sig, taint := s.eT 0 || s.eT 5 } (s.copyTaint a b [0, 1, 5]))

/-! ## Landing (R235, R237, R416) -/

/-- Clears the taint of the sector whose last n bytes begin at a place. -/
def State.clearSector (s : State) (loc : Loc) (n : Nat) : State :=
  match loc with
  | .mem pa => { s with mem := s.mem.putTaint ((pa + n - 1) / 32) false }
  | .scratch core page frame off =>
    match s.findPage core page frame with
    | some _ => s.modPage core page frame (fun p => p.clearSector ((off + n - 1) / 32))
    | none => { s with mem := s.mem.putTaint ((frame + off + n - 1) / 32) false }
  | _ => s

/-- Bytes land at their home, clearing the taint of their sector where they end one that is untainted whole; a granule may carry its tag. -/
def State.landAt (s : State) (loc : Loc) (bs : List Byte) (tag taint clear : Bool) : State :=
  let s1 := s.writeHome loc bs taint
  let s2 := if clear then s1.clearSector loc bs.length else s1
  if !tag then s2
  else match loc with
    | .mem pa => { s2 with mem := s2.mem.putTag (pa / 16) true }
    | .scratch core page frame off => s2.modPage core page frame (fun p => { p with bytes := p.bytes.putTag (off / 16) true })
    | _ => s2

/-- A copy command as the sender of what a spill ring catches. -/
def Copy.sender (c : Copy) : Sender := .copy (coreOfSlot c.owner.slot) c.chan c.id

/-- A copy writes bytes whose sources' taint is `taint`, within `run` bytes of its destination that begin at `first`: a sector
that the run covers whole takes the taint of its sources together, when its last byte lands; any other is as R56 gives. A whole granule
may carry its tag (R55). Where the leaf it has gone through no longer translates, the error is at the unit's address `unit` (R416;
log entry 36). -/
def State.landBytes (s : State) (c : Copy) (first run : Nat) (va unit : Dword) (bs : List Byte) (tag taint : Bool) : Res (State × Copy) :=
  match s.translate c.ctx .engineWrite false va with
  | .error (.trap cause v x) => trapX cause (if c.leaves.any (fun l => va.toNat / 2 ^ l.2 == l.1) then unit else v) x
  | .error e => .error e
  | .ok (t, s1) =>
    let a := va.toNat
    let n := bs.length
    let sector := a / 32 * 32
    let whole := decide (first ≤ sector) && decide (sector + 32 ≤ first + run)
    let all := (if a = sector then false else c.carry) || taint
    let clear := whole && a + n == sector + 32 && !all
    let leaf := (a / 2 ^ t.size, t.size)
    let c1 := { c with carry := all, leaves := if c.leaves.contains leaf then c.leaves else leaf :: c.leaves }
    if taint && c.ctx.dmode && Pte.dg t.pte then trap 0x0F va
    else
      match s1.windowHolder c.ctx t.loc with
      | some o => (s1.caught o (.write c.sender c.ctx va bs tag taint clear)).map (fun s2 => (s2, c1))
      | none => .ok ((s1.landAt t.loc bs tag taint clear).lostBy c.owner t.loc taint, c1)

/-- The row a copy is at: a COPY2 reads its source in rising addresses, its last row first where the source's stride is negative (R416). -/
def Copy.row (c : Copy) : Nat :=
  if c.kind = .copy2 then
    let i := c.pos / c.e0.toNat
    if c.e3.toInt < 0 then c.e1.toNat - 1 - i else i
  else 0

/-- Where its row begins, in the destination and in the source, and how much of it has landed. -/
def Copy.rowTo (c : Copy) : Int := c.dst.plus ((c.row : Int) * (if c.kind = .copy2 then c.e2.toInt else 0))
def Copy.rowFrom (c : Copy) : Int := c.source.plus ((c.row : Int) * (if c.kind = .copy2 then c.e3.toInt else 0))
def Copy.inRow (c : Copy) : Nat := if c.kind = .copy2 then c.pos % c.e0.toNat else c.pos

/-- The source address of a copy's next unit. -/
def Copy.unit (c : Copy) : Dword := BitVec.ofInt 64 (c.rowFrom + ((c.inRow + c.held.length : Nat) : Int))

/-- Bytes that have been read land, each aligned 8 B of the destination whole (R130), those held back from earlier units first; `taint` is
that of the newest unit. -/
def State.landPieces (s : State) (c : Copy) (bs : List Byte) (taint : Bool) : Res (State × Copy) :=
  let d : Dword := BitVec.ofInt 64 (c.rowTo + (c.inRow : Int))
  (splitAt 8 (bs.length + 1) d.toNat 0 bs.length).foldlM (fun (x : State × Copy) p => do
    let tn := taint || (c.heldTaint && decide (p.2.1 < c.held.length))
    let (s1, c1) ← x.1.landBytes x.2 c.rowTo.toNat c.e0.toNat (BitVec.ofNat 64 p.1) c.unit ((bs.drop p.2.1).take p.2.2) false tn
    return (s1, { c1 with pos := c1.pos + p.2.2 })) (s, c)

/-- The whole granule that a copy moves with its tag, if it stands before one: a tagged one, at the same offset modulo 16 on both sides. -/
def State.tagUnit (s : State) (c : Copy) : Option (Got × State) :=
  let d : Dword := BitVec.ofInt 64 (c.rowTo + (c.inRow : Int))
  if c.source.permLdc && c.dst.permStc && c.held.isEmpty && d.toNat % 16 == 0 && c.unit.toNat % 16 == 0 && decide (c.inRow + 16 ≤ c.e0.toNat) then
    match s.translate c.ctx .engineRead false c.unit with
    | .ok (t, s1) => (s1.readHome t.loc 16).bind (fun g => if g.tag && !(Cap.malformed ⟨BitVec.ofNat 128 g.nat, true⟩) then some (g, s1) else none)
    | .error _ => none
  else none

/-- The next unit of a copy that moves bytes as they are: read up to the next aligned 8 B of the source, and written as far as the
destination's aligned 8 B are complete, or the row is; a tagged granule is moved whole (log entry 33). -/
def State.moveUnit (s : State) (c : Copy) : Res (State × Copy) := do
  let len := c.e0.toNat
  let d : Dword := BitVec.ofInt 64 (c.rowTo + (c.inRow : Int))
  match s.tagUnit c with
  | some (g, s1) =>
    let (s2, c1) ← s1.landBytes c c.rowTo.toNat len d c.unit g.bytes true g.taint
    return (s2, { c1 with pos := c1.pos + 16 })
  | none =>
    let off := c.inRow + c.held.length
    let n := min (len - off) (8 - c.unit.toNat % 8)
    let (bs, tn, s1) ← s.readVirt c.ctx c.unit n
    let all := c.held ++ bs
    let keep := if off + n = len then 0 else min all.length ((d.toNat + all.length) % 8)
    let (s2, c1) ← s1.landPieces c (all.take (all.length - keep)) tn
    return (s2, { c1 with
      held := all.drop (all.length - keep)
      heldTaint := decide (keep ≠ 0) && (tn || (c.heldTaint && decide (keep = all.length))) })

/-- ROWS and KEXT of a packing command. -/
def Copy.rows (c : Copy) : Nat := (c.e0.extractLsb' 16 8).toNat
def Copy.kext (c : Copy) : Nat := (c.e0.extractLsb' 0 16).toNat

/-- The header COPYP and COPYZ write (R220, R240). -/
def Copy.header (c : Copy) : Nat :=
  c.sig.toNat + 2 ^ 32 * c.kext + 2 ^ 64 * c.rows + 2 ^ 72 * c.cw + 2 ^ 80 * (c.e5.extractLsb' 16 2).toNat +
    2 ^ 88 * (c.e5.extractLsb' 8 8).toNat + 2 ^ 96 * (c.e5.extractLsb' 0 8).toNat

/-- Codes from bytes. -/
def codesOf (cw : Nat) (bs : List Byte) (n : Nat) : List Nat :=
  let k := codeBytes cw
  tabulate n (fun i => ofBytes ((bs.drop (k * i)).take k) % 2 ^ cw)

/-- The codes of a row's block as COPYP reads them. -/
def State.packCodes (s : State) (c : Copy) (r j lim : Nat) : Res (List Nat × Bool × State) := do
  let k := codeBytes c.cw
  let a : Dword := BitVec.ofInt 64 (c.source.plus (((r * c.e1.toNat + 32 * j * k : Nat)) : Int))
  let (bs, tn, s1) ← s.readVirt c.ctx a (lim * k)
  return (codesOf c.cw bs lim, tn, s1)

/-- The codes of a row's block as COPYZ expands them, with its chunk's checks (R241). -/
def State.chunkCodes (s : State) (c : Copy) (r j lim : Nat) : Res (List Nat × Bool × State) := do
  let k := codeBytes c.cw
  let q := j / 4
  let idx := c.e1.toNat + r * ceilDiv c.kext 128 + q
  let at0 ← capCheckAt c.source [0] { r := true } (c.source.plus ((4 * idx : Nat) : Int)) 4 1
  let (ob, t0, s1) ← s.readVirt c.ctx at0 4
  let off := ofBytes ob
  let chunk := c.source.plus (off : Int)
  guardTrap (off % 16 == 0) 0x0A (BitVec.ofInt 64 chunk)
  let at1 ← capCheckAt c.source [0] { r := true } chunk 16 1
  let (mb, t1, s2) ← s1.readVirt c.ctx at1 16
  let map := ofBytes mb
  guardTrap (map / 2 ^ (c.kext - 128 * q) == 0 || decide (128 ≤ c.kext - 128 * q)) 0x0A at1
  let ones (n : Nat) : Nat := (List.range n).foldl (fun x i => x + (natBit map i).toNat) 0
  let n := ones 128
  let _ ← capCheckAt c.source [0] { r := true } chunk (16 + n * k) 1
  let (vb, t2, s3) ← s2.readVirt c.ctx (at1 + 16) (n * k)
  let vals := codesOf c.cw vb n
  return (tabulate lim (fun i =>
    let b := 32 * (j % 4) + i
    if natBit map b then vals.getD (ones b) 0 else 0), t0 || t1 || t2, s3)

/-- Word i of the buffer's planes (R221, R240). -/
def State.planeWord (s : State) (c : Copy) (i : Nat) : Res (Nat × Bool × State) := do
  let j := i / (c.cw * c.rows)
  let p := i / c.rows % c.cw
  let slot := i % c.rows
  let r := if (c.e5.extractLsb' 8 8) = 1 then slot ^^^ (4 * ((p + j) % 8)) else slot
  let lim := min 32 (c.kext - 32 * j)
  let (codes, tn, s1) ← (if c.kind = .copyz then s.chunkCodes c r j lim else s.packCodes c r j lim)
  return ((List.range lim).foldl (fun w k => w + 2 ^ k * (natBit (codes.getD k 0) p).toNat) 0, tn, s1)

/-- The next unit of an operand buffer. -/
def State.packUnit (s : State) (c : Copy) : Res (State × Copy) := do
  let first := c.dst.addr.toNat
  let d : Dword := BitVec.ofNat 64 (first + c.pos)
  let n := min (c.total - c.pos) (8 - d.toNat % 8)
  let step (acc : List Byte × Bool × State) (i : Nat) : Res (List Byte × Bool × State) := do
    if i < 16 then return (acc.1 ++ toBytes 4 (c.header / 2 ^ (32 * i)), acc.2.1 || c.taint, acc.2.2)
    else
      let (w, tn, s1) ← acc.2.2.planeWord c (i - 16)
      return (acc.1 ++ toBytes 4 w, acc.2.1 || tn, s1)
  let words := (List.range ((c.pos + n - 1) / 4 - c.pos / 4 + 1)).map (· + c.pos / 4)
  let (bs, tn, s1) ← words.foldlM step ([], false, s)
  let (s2, c1) ← s1.landBytes c first c.total d d ((bs.drop (c.pos % 4)).take n) false tn
  return (s2, { c1 with pos := c1.pos + n })

/-- The next unit of a command. -/
def State.copyUnit (s : State) (c : Copy) : Res (State × Copy) :=
  if c.kind = .copyp ∨ c.kind = .copyz then s.packUnit c else s.moveUnit c

/-- A credit to the command's barrier word (R206, R239), under the determinism guard (R367). -/
def State.creditAt (s : State) (c : Copy) (n : Nat) : Res State :=
  match s.translate c.ctx .engineWrite false c.mark with
  | .error e => .error e
  | .ok (t, s1) =>
    if c.taint && c.ctx.dmode && Pte.dg t.pte then trap 0x0F c.mark
    else
      match s1.windowHolder c.ctx t.loc with
      | some o => s1.caught o (.credit c.sender c.ctx c.mark n c.taint)
      | none =>
        match s1.readHome t.loc 16 with
        | none => trap 0x13 c.mark
        | some _ => .ok (s1.credit t.loc n c.taint)

def State.setCopy (s : State) (core index : Nat) (c : Copy) : State :=
  s.modCore core (fun k => { k with copies := listSet k.copies index c })

/-- Whether a command is the oldest of its channel that has not completed. -/
def State.channelHead (s : State) (core : Nat) (c : Copy) : Bool := (s.channel core c.chan).done == c.id

/-- COPY_UNIT_LAND: a started command's next unit lands. COPYB's credits come in channel order, so its units do (R236). Units of different channels
land at turns, so in cycles, of their own (R426, log entry 141). -/
def execCopyUnitLand (core index : Nat) (s : State) : Out :=
  event s (match (s.core core).copies[index]? with
    | none => none
    | some c =>
      if c.error.isNone && c.broken.isNone && decide (c.pos < c.total) && s.mayRun c.owner && (c.kind != .copyb || s.channelHead core c) then
        match s.copyUnit c with
        | .error _ => none
        | .ok (s1, c1) =>
          if c.kind = .copyb ∧ c.pos < c1.pos then
            match s1.creditAt c (c1.pos - c.pos) with
            | .ok s2 => some (s2.setCopy core index c1)
            | .error (.trap cause v _) => some (s1.setCopy core index { c1 with broken := some (cause, v) })
            | .error _ => none
          else some (s1.setCopy core index c1)
      else none)

/-! ## Completion (R236, R237, R239, R242) -/

/-- A carried TMMA enters the queues ahead of its strand's later matrix instructions (R228, R374); a full queue makes it wait. -/
def State.issueCarried (s : State) (t : Tmma) : Option State :=
  let core := coreOfSlot t.x.owner.slot
  let later (q : Cmd) : Bool := q.after t.x.owner t.x.order
  let insert (l : List Cmd) : List Cmd := l.takeWhile (fun q => !later q) ++ [.tmma t] ++ l.dropWhile (fun q => !later q)
  let k := s.core core
  if k.wide.any later then some (s.modCore core (fun k => { k with wide := insert k.wide }))
  else if k.queue.length < 8 then some (s.modCore core (fun k => { k with queue := insert k.queue }))
  else none

/-- The last act of a command whose bytes have all landed: the flag, the credit of an empty copy, or the TMMA. -/
def State.finalAct (s : State) (c : Copy) : Res State :=
  match c.kind, c.tmma with
  | .copyf, _ => s.engineWrite c.sender c.owner c.ctx c.mark (toBytes 8 c.e5.toNat) c.taint
  | .copyb, _ => if c.total = 0 then s.creditAt c 0 else .ok s
  | .copyt, some x =>
    match s.buildTmma x with
    | .error e => .error e
    | .ok (t, s1) =>
      let (t1, s2) := s1.countTmma t
      match (s2.tmmaDue t1).issueCarried t1 with
      | some s3 => .ok s3
      | none => stall
  | _, _ => .ok s

/-- The fault that ends a command now, if one does, and whether its flag or credit write met it. -/
def State.copyFault (s : State) (core : Nat) (c : Copy) : Option (BitVec 8 × Dword × Bool) :=
  if c.error.isSome || c.acted then none
  else
    match c.broken with
    | some (cause, a) => some (cause, a, true)
    | none =>
      if c.pos < c.total then
        if c.kind = .copyb ∧ s.channelHead core c = false then none
        else
          match s.copyUnit c with
          | .error (.trap cause v _) => some (cause, v, false)
          | _ => none
      else if s.channelHead core c && !s.spilled c.sender then
        match s.finalAct c with
        | .error (.trap cause v _) => some (cause, v, c.kind != .copyt)
        | _ => none
      else none

/-- A carried TMMA that will not run leaves its tile allocated and its shadow bound, as its issue made them. -/
def State.dropCarried (s : State) (c : Copy) : State :=
  match c.tmma with
  | none => s
  | some x =>
    let core := coreOfSlot x.owner.slot
    let s1 := s.freshTile core x.acc x.fresh
    let t := s1.tile core x.acc
    let s2 := if x.bind then s1.modShadow core (fun h => { h with data := t.data, taint := t.taint }) else s1
    (s2.settleTiles core).lower x.owner (fun k => { k with t := k.t - 1 })

/-- A carried TMMA that is dropped lets T fall, which it does after the strand's earlier matrix instructions (R242, R374). -/
def State.mayFail (s : State) (core : Nat) (c : Copy) : Bool :=
  c.tmma.all (fun x => !s.pending core (Cmd.before x.owner x.order))

/-- A command ends in error: what it had read is written (R416), its channel keeps the record, and a fault record is posted when its strand
has exited (R237). -/
def State.failCopy (s : State) (core index : Nat) (c : Copy) (cause : BitVec 8) (a : Dword) (mark : Bool) : State :=
  let c1 := { c with error := some (cause, a), broken := if mark then some (cause, a) else none }
  let s0 := match s.landPieces c c.held false with
    | .ok (s', _) => s'
    | .error _ => s
  let s1 := ((s0.setCopy core index c1).modChannel core c.chan (fun k => k.record c.id cause a)).dropCarried c
  if s1.alive c.owner then s1 else s1.lateRecord c.ctx.part c.ctx c.src cause a 0

/-- COPY_ERROR: the fault with this cause and address ends the command in error. -/
def execCopyError (core index : Nat) (cause : BitVec 8) (addr : Dword) (s : State) : Out :=
  event s (match (s.core core).copies[index]? with
    | none => none
    | some c =>
      match s.copyFault core c with
      | none => none
      | some (cs, a, mark) =>
        if s.mayRun c.owner && s.mayFail core c && cs == cause && a == addr then some (s.failCopy core index c cs a mark) else none)

/-- What a command that ended in error still writes: its flag with bit 63, or the credit of what did not land (R237). That write may fault
in its turn (R239). -/
def State.errorAct (s : State) (core : Nat) (c : Copy) : Option State :=
  let tried : Res State :=
    if c.broken.isSome then .ok s
    else
      match c.kind with
      | .copyf => s.engineWrite c.sender c.owner c.ctx c.mark (toBytes 8 (c.e5.toNat + 2 ^ 63)) c.taint
      | .copyb => s.creditAt c (c.total - c.pos)
      | _ => .ok s
  match tried with
  | .ok s1 => some s1
  | .error (.trap cause v _) =>
    let s1 := s.modChannel core c.chan (fun k => k.record c.id cause v)
    some (if s1.alive c.owner then s1 else s1.lateRecord c.ctx.part c.ctx c.src cause v 0)
  | .error _ => none

/-- COPY_COMPLETE: the oldest command of its channel completes: its last act, then DONE and C. An act that a spill ring catches leaves it
outstanding until the ring has replayed it (R342). -/
def execCopyComplete (core index : Nat) (s : State) : Out :=
  event s (match (s.core core).copies[index]? with
    | none => none
    | some c =>
      if s.channelHead core c && s.mayRun c.owner && !s.spilled c.sender then
        let close (s : State) : State :=
          if s.spilled c.sender then s.setCopy core index { c with acted := true }
          else ((s.modCore core (fun k => { k with copies := listDrop k.copies index })).modChannel core c.chan
            (fun k => { k with done := k.done + 1 })).lower c.owner (fun k => { k with c := k.c - 1 })
        if c.acted then some (close s)
        else if c.error.isSome then (s.errorAct core c).map close
        else if c.broken.isNone && decide (c.total ≤ c.pos) then
          match s.finalAct c with
          | .ok s1 => some (close s1)
          | .error _ => none
        else none
      else none)

/-! ## Streams (R245, R246) -/

/-- Ends a stream: the register reads zero. -/
def State.endStream (s : State) (v : VIdx) : State := (s.setStream v none).modRegs (fun r => r.wv v VReg.zero)

/-- STMR and STMW: an earlier stream of the register ends first. -/
def State.startStream (s : State) (write : Bool) (d : VIdx) (a : GIdx) : Res State := do
  let counts := [(s.e 0).toNat, (s.e 1).toNat, (s.e 2).toNat]
  let total := counts.foldl (· * ·) 1
  if total == 0 || decide (2 ^ 32 ≤ total) then s.illegal
  let s1 := if (s.stream? d).isSome then s.endStream d else s
  return (s1.release 1).setStream d (some ⟨write, s.cap a, counts, [(s.e 3).toInt, (s.e 4).toInt, (s.e 5).toInt], 0, false⟩)

def execStmr (d : VIdx) (a : GIdx) (s : State) : Out := fallThrough 4 s (s.startStream false d a)
def execStmw (d : VIdx) (a : GIdx) (s : State) : Out := fallThrough 4 s (s.startStream true d a)

def execStmx (d : GIdx) (a : VIdx) (s : State) : Out :=
  let v : Dword := match s.stream? a with
    | some t => BitVec.ofBool true ++ BitVec.ofBool t.write ++ BitVec.ofBool t.ovr ++ (0#29) ++ BitVec.ofNat 32 (t.total - t.pos)
    | none => 0
  fallThrough 4 s (.ok (s.setX d v false))

def execStmd (a : VIdx) (s : State) : Out := fallThrough 4 s (.ok (s.endStream a))

end Sys2Proof.Machine
end

