-- ==== Sys2Proof/Machine/Gather.lean ====
section
/-!
DEFINITION. Major 0x46: gather, scatter and log commands (R247 to R251, R146), and how an engine takes a command from a core's
dispatch queue (R44).
-/
namespace Sys2Proof.Machine

/-! ## Issue (R247, R249) -/

def GatherKind.code : GatherKind → Nat
  | .gath => 0
  | .gaths => 1
  | .scat => 2
  | .scata => 3
  | .scato => 4
  | .logm => 5

/-- The operation a SCATA or a log area names. -/
def addOp (op : Nat) : RedOp :=
  match op with
  | 2 => .fadd32
  | 3 => .fadd64
  | _ => .add

/-- The log of an operation's width in bytes. -/
def addSize (op : Nat) : Nat := if op = 0 ∨ op = 3 then 3 else 2

/-- The status area's address and size, 16-B aligned in the issuing core's window, made resident (R247, R248). -/
def State.statusAt (s : State) (count : Nat) : Res (Dword × State) := do
  let off := (s.e 2).toNat
  let va : Dword := BitVec.ofNat 64 (0x7F0000000000 + s.myCore * 0x100000 + off)
  guardTrap (off % 16 == 0) 0x08 va
  guardTrap (decide (off + 16 + ceilDiv count 8 ≤ 0x40000)) 0x12 va
  let s1 ← (splitAt 4096 (16 + ceilDiv count 8 + 1) va.toNat 0 (16 + ceilDiv count 8)).foldlM (fun (s : State) p => do
    let (_, s1) ← s.translate s.ctx .engineWrite false (BitVec.ofNat 64 p.1)
    return s1) s
  return (va, s1)

/-- The push of a gather, scatter or log command. -/
def State.pushGather (s : State) (g : Gather) : Res State := do
  let s1 ← s.raiseC
  let (n, s2) := s1.nextSerial
  (s2.release (max g.scope.toNat 1)).pushCmd (.gather { g with order := n })

/-- A command of a kind from the current registers. `keep` holds for GREST, which leaves the status area as it is. A SCATA of
floating-point addition is one taint event, at its issue (log entry 135). -/
def State.gatherCmd (s : State) (kind : GatherKind) (keep : Bool) (d a b : GIdx) : Res State := do
  let shape := s.e 1
  let count := (s.e 0).toNat
  let sz := (shape.extractLsb' 0 3).toNat
  let iw := (shape.extractLsb' 6 2).toNat
  let op := (shape.extractLsb' 8 2).toNat
  let scope := shape.extractLsb' 3 3
  if count == 0 || decide (65536 < count) || shape.extractLsb' 10 22 != 0 || decide (1 < iw) || scope == 7 || decide (4 < sz) ||
      (if kind = .scata then decide (sz ≠ addSize op) else op != 0) then s.illegal
  let size := 2 ^ sz
  let scat := kind == .scat || kind == .scata || kind == .scato
  let inOrder := if scat then s.cap a else s.cap d
  let indexed := if scat then s.cap d else s.cap a
  s.copySide (s.cap b) { r := true } ((s.cap b).addr.toNat, count * 4 * (iw + 1))
  s.copySide inOrder (if scat then { r := true } else { w := true }) (inOrder.addr.toNat, count * size)
  if kind = .scato then s.copySide indexed { r := true, w := true } (indexed.addr.toNat, 64)
  let (status, s1) ← s.statusAt count
  let area := match s1.readVirt s1.ctx status (16 + ceilDiv count 8) with
    | .ok (bs, _, _) => bs
    | .error _ => []
  let bit (i : Nat) : Bool := keep && natBit ((area.drop (16 + i / 8)).headD 0).toNat (i % 8)
  let todo := (List.range count).filter (fun i => !bit i)
  let word := ofBytes (area.take 16)
  let s2 := if kind = .scata then s1.taintEvent else s1
  s2.pushGather {
    owner := s.me?
    ctx := s.ctx
    src := s.strandSrc s.cur
    kind := kind
    count := count
    sz := sz
    iw := iw
    op := op
    scope := scope
    inOrder := inOrder
    indexed := indexed
    index := s.cap b
    status := status
    fresh := !keep
    todo := todo
    done := count - todo.length
    failed := []
    cause := if keep then BitVec.ofNat 8 (natBits word 119 112) else 0
    faddr := if keep then BitVec.ofNat 64 (natBits word 111 64) else 0
    reads := []
    wrote := []
    seq := s.me.scato
    merges := []
    order := 0 }

def execGath (d a b : GIdx) (s : State) : Out := fallThrough 4 s (s.gatherCmd .gath false d a b)
def execGaths (d a b : GIdx) (s : State) : Out := fallThrough 4 s (s.gatherCmd .gaths false d a b)
def execScat (d a b : GIdx) (s : State) : Out := fallThrough 4 s (s.gatherCmd .scat false d a b)
def execScata (d a b : GIdx) (s : State) : Out := fallThrough 4 s (s.gatherCmd .scata false d a b)
def execScato (d a b : GIdx) (s : State) : Out := fallThrough 4 s (s.gatherCmd .scato false d a b)

/-- GREST: the command that the status area's KIND names, for the elements its bitmap shows unfinished. -/
def execGrest (d a b : GIdx) (s : State) : Out :=
  fallThrough 4 s (do
    let (status, s1) ← s.statusAt 1
    let (bs, _, s2) ← s1.readVirt s1.ctx status 16
    match natBits (ofBytes bs) 127 120 with
    | 0 => s2.gatherCmd .gath true d a b
    | 1 => s2.gatherCmd .gaths true d a b
    | 2 => s2.gatherCmd .scat true d a b
    | 3 => s2.gatherCmd .scata true d a b
    | 4 => s2.gatherCmd .scato true d a b
    | _ => s.illegal)

def execLogm (a : GIdx) (s : State) : Out :=
  fallThrough 4 s (do
    let v := s.e 1
    let scope := v.extractLsb' 3 3
    if v &&& ~~~(0x38#32) != 0 || scope == 7 then s.illegal
    let c := s.cap a
    s.copySide c { r := true, w := true } (c.addr.toNat, 64)
    s.pushGather ⟨s.me?, s.ctx, s.strandSrc s.cur, .logm, 0, 0, 0, 0, scope, c, c, c, c.addr, true, [], 0, [], 0, 0, [], [], 0, [], 0⟩)

/-! ## The status area (R248) -/

/-- The status area's first 16 bytes. -/
def Gather.statusBits (g : Gather) : Qword :=
  let first := g.failed.foldl min 0xFFFFFFFF
  BitVec.ofNat 8 g.kind.code ++ g.cause ++ g.faddr.extractLsb' 0 48 ++ BitVec.ofNat 32 first ++ BitVec.ofNat 32 g.done

/-- Writes the status area's fields; a write that faults there is lost. -/
def State.writeStatus (s : State) (g : Gather) : State :=
  match s.writeVirt g.ctx g.status (toBytes 16 g.statusBits.toNat) false with
  | .ok s1 => s1
  | .error _ => s

/-- Sets the bitmap's bit for an element. -/
def State.markElement (s : State) (g : Gather) (i : Nat) : State :=
  let va := g.status + BitVec.ofNat 64 (16 + i / 8)
  match s.readVirt g.ctx va 1 with
  | .error _ => s
  | .ok (bs, _, s1) =>
    match s1.writeVirt g.ctx va [bs.headD 0 ||| BitVec.ofNat 8 (2 ^ (i % 8))] false with
    | .ok s2 => s2
    | .error _ => s1

/-- The area as the issuing command initialises it. -/
def State.initStatus (s : State) (g : Gather) : State :=
  match s.writeVirt g.ctx g.status (toBytes 16 g.statusBits.toNat ++ List.replicate (ceilDiv g.count 8) 0) false with
  | .ok s1 => s1
  | .error _ => s

/-! ## Log areas (R250) -/

/-- A log area's control word: OP, LGS and CAPE. -/
structure LogArea where
  op : Nat
  lgs : Nat
  cape : Nat
deriving DecidableEq, Repr

def LogArea.ofNat (n : Nat) : LogArea := ⟨natBits n 1 0, natBits n 10 8, natBits n 63 32⟩
/-- The offset of a segment's fill count. -/
def fillOffset (seg : Nat) : Nat := 64 + 8 * seg
/-- The offset of an entry. -/
def LogArea.entry (l : LogArea) (seg i : Nat) : Nat := ceilDiv (64 + 8 * 2 ^ l.lgs) 32 * 32 + (seg * l.cape + i) * 32

/-- An area's target capability and control word. -/
def State.logArea (s : State) (c : Ctx) (area : Cap) : Res (Cap × LogArea × State) := do
  let (g, s1) ← s.readCapVirt c area.permLdc area.addr
  let (bs, _, s2) ← s1.readVirt c (area.addr + 16) 8
  return (⟨g.bits, g.tag⟩, LogArea.ofNat (ofBytes bs), s2)

/-! ## Elements -/

/-- The index list's entry i. -/
def State.indexOf (s : State) (g : Gather) (i : Nat) : Res (Nat × State) := do
  let n := 4 * (g.iw + 1)
  let (bs, _, s1) ← s.readVirt g.ctx (g.index.addr + BitVec.ofNat 64 (n * i)) n
  return (ofBytes bs, s1)

/-- A distinct 64-B line, read once per GATHS. -/
def State.lineOnce (s : State) (g : Gather) (line : Nat) : Res (List Byte × Bool × Gather × State) :=
  match g.reads.find? (fun r => r.1 == line) with
  | some r => .ok (r.2.1, r.2.2, g, s)
  | none => do
    let (bs, tn, s1) ← s.readVirt g.ctx (BitVec.ofNat 64 (64 * line)) 64
    return (bs, tn, { g with reads := g.reads ++ [(line, bs, tn)] }, s1)

/-- n bytes as GATHS takes them, out of one or two lines. -/
def State.throughLines (s : State) (g : Gather) (a : Nat) (n : Nat) : Res (List Byte × Bool × Gather × State) :=
  (splitAt 64 (n + 1) a 0 n).foldlM (fun (acc : List Byte × Bool × Gather × State) p => do
    let (bs, tn, g1, s1) ← acc.2.2.2.lineOnce acc.2.2.1 (p.1 / 64)
    return (acc.1 ++ (bs.drop (p.1 % 64)).take p.2.2, acc.2.1 || tn, g1, s1)) ([], false, g, s)

/-- The home slice of a place: a scratchpad byte's is that of its frame. -/
def Loc.slice : Loc → Nat
  | .mem pa => homeSlice pa
  | .scratch _ _ frame off => homeSlice (frame + off)
  | _ => 0

/-- Moves on the SCATO count of an exited strand, which its commands carry. -/
def Core.bumpSeq (k : Core) (o : Owner) : Core :=
  let f (g : Gather) : Gather := if g.owner = o then { g with seq := g.seq + 1 } else g
  { k with
    gathers := k.gathers.map f
    queue := k.queue.map (fun c => match c with
      | .gather g => .gather (f g)
      | c => c) }

/-- The number a SCATO entry takes: its strand's count, which its commands carry once it has exited. -/
def State.nextEntry (s : State) (g : Gather) : Word × Gather × State :=
  if s.alive g.owner then
    let m := s.strand g.owner.slot
    (m.scato, g, s.setStrand g.owner.slot { m with scato := m.scato + 1 })
  else (g.seq, { g with seq := g.seq + 1 }, s.modCore (coreOfSlot g.owner.slot) (fun k => k.bumpSeq g.owner))

/-- A command's element as the sender of what a spill ring catches. -/
def Gather.sender (g : Gather) (i : Nat) : Sender := .gather (coreOfSlot g.owner.slot) g.owner g.order i

/-- Whether a spill ring holds something of a gather. -/
def State.gatherSpilled (s : State) (g : Gather) : Bool := s.spilledBy (fun p => match p with
  | .gather core owner order _ => decide (Sender.gather core owner order 0 = g.sender 0)
  | .copy _ _ _ => false)

/-- Whether an address lies in the window of a halted context. -/
def State.windowAway (s : State) (c : Ctx) (va : Dword) : Bool := match s.translate c .engineWrite false va with
  | .ok (t, s1) => (s1.windowHolder c t.loc).isSome
  | .error _ => false

/-- Whether either end of a range does. -/
def State.rangeAway (s : State) (c : Ctx) (va : Dword) (n : Nat) : Bool :=
  s.windowAway c va || s.windowAway c (va + BitVec.ofNat 64 (n - 1))

/-- Whether a gather's status area lies there: the gather then waits (log entry 118). LOGM has none. -/
def State.statusAway (s : State) (g : Gather) : Bool :=
  g.kind != .logm && s.rangeAway g.ctx g.status (16 + ceilDiv g.count 8)

/-- SCATO's element: an entry appended to its segment. -/
def State.appendEntry (s : State) (g : Gather) (i idx : Nat) (v : List Byte) (tn : Bool) : Res (Gather × State) := do
  let (target, l, s1) ← s.logArea g.ctx g.indexed
  let n := 2 ^ g.sz
  let a ← capCheckAt target [0] { r := true, w := true } (target.plus ((idx * n : Nat) : Int)) n n
  guardTrap (g.sz == addSize l.op) 0x01 a
  let (t, s2) ← s1.translate g.ctx .amo false a
  let seg := t.loc.slice % 2 ^ l.lgs
  let fillAt ← capCheckAt g.indexed [0] { r := true, w := true } (g.indexed.plus ((fillOffset seg : Nat) : Int)) 8 1
  let (fb, _, s3) ← s2.readVirt g.ctx fillAt 8
  let fill := ofBytes fb
  guardTrap (decide (fill < l.cape)) 0x02 a
  let at' ← capCheckAt g.indexed [0] { w := true } (g.indexed.plus ((l.entry seg fill : Nat) : Int)) 32 1
  if s3.windowAway g.ctx at' || s3.windowAway g.ctx fillAt then stall
  let (seq, g1, s4) := s3.nextEntry g
  let entry := ofBytes v + 2 ^ 64 * (a.toNat % 2 ^ 48) + 2 ^ 112 * g.src + 2 ^ 136 * seq.toNat
  let s5 ← s4.engineWrite (g.sender i) g.owner g.ctx at' (toBytes 32 entry) tn
  let s6 ← s5.engineWrite (g.sender i) g.owner g.ctx fillAt (toBytes 8 (fill + 1)) false
  return (g1, s6)

/-- One element served (R247). -/
def State.serve (s : State) (g : Gather) (i : Nat) : Res (Gather × State) := do
  let (idx, s1) ← s.indexOf g i
  let n := 2 ^ g.sz
  let side : Dword := g.inOrder.addr + BitVec.ofNat 64 (n * i)
  let target := g.indexed.plus ((idx * n : Nat) : Int)
  match g.kind with
  | .gath =>
    let a ← capCheckAt g.indexed [0] { r := true } target n 1
    let (bs, tn, s2) ← s1.readVirt g.ctx a n
    return (g, ← s2.engineWrite (g.sender i) g.owner g.ctx side bs tn)
  | .gaths =>
    let a ← capCheckAt g.indexed [0] { r := true } target n 1
    let (bs, tn, g1, s2) ← s1.throughLines g a.toNat n
    return (g1, ← s2.engineWrite (g.sender i) g.owner g.ctx side bs tn)
  | .scat =>
    let a ← capCheckAt g.indexed [0] { w := true } target n 1
    let (bs, tn, s2) ← s1.readVirt g.ctx side n
    if g.wrote.any (fun w => w.1 == a.toNat && decide (i < w.2)) then return (g, s2)
    else return ({ g with wrote := (a.toNat, i) :: g.wrote }, ← s2.engineWrite (g.sender i) g.owner g.ctx a bs tn)
  | .scata =>
    let a ← capCheckAt g.indexed [0] { r := true, w := true } target n n
    let (bs, _, s2) ← s1.readVirt g.ctx side n
    let (t, s3) ← s2.translate g.ctx .amo false a
    if g.ctx.dmode && Pte.dg t.pte then trap 0x0F a
    match s3.windowHolder g.ctx t.loc with
    | some o =>
      let r : RedReq := ⟨g.owner, [], g.src, g.ctx.part, g.ctx, a, t.loc, addOp g.op, n, true, g.scope, BitVec.ofNat 64 (ofBytes bs), true, 1⟩
      return (g, ← s3.caught o (.red (g.sender i) r))
    | none =>
    match s3.readHome t.loc n with
    | none => trap 0x13 a
    | some w => return (g, s3.writeHome t.loc (toBytes n (redNew (addOp g.op) (8 * n) true w.nat (ofBytes bs))) true)
  | .scato =>
    let (bs, tn, s2) ← s1.readVirt g.ctx side n
    s2.appendEntry g i idx bs tn
  | .logm => return (g, s)

/-! ## LOGM (R251) -/

/-- A fill count as LOGM reads it: no more entries than the segment has. -/
def State.segmentEntries (s : State) (g : Gather) (l : LogArea) (seg : Nat) : Res (List Nat × State) := do
  let fillAt ← capCheckAt g.indexed [0] { r := true, w := true } (g.indexed.plus ((fillOffset seg : Nat) : Int)) 8 1
  let (fb, _, s1) ← s.readVirt g.ctx fillAt 8
  (List.range (min (ofBytes fb) l.cape)).foldlM (fun (acc : List Nat × State) i => do
    let a ← capCheckAt g.indexed [0] { r := true } (g.indexed.plus ((l.entry seg i : Nat) : Int)) 32 1
    let (bs, _, s2) ← acc.2.readVirt g.ctx a 32
    return (acc.1 ++ [ofBytes bs], s2)) ([], s1)

/-- Adds a value to those waiting for an address; addresses stay in rising order. -/
def addMerge (a : Dword) (v : Dword) : List (Dword × List Dword) → List (Dword × List Dword)
  | [] => [(a, [v])]
  | (b, vs) :: rest =>
    if a = b then (b, vs ++ [v]) :: rest
    else if a.ult b then (a, [v]) :: (b, vs) :: rest
    else (b, vs) :: addMerge a v rest

/-- Steps 1 and 2 up to the updates: what each address is to receive. -/
def State.openLog (s : State) (g : Gather) : Res (Gather × State) := do
  let (_, l, s1) ← s.logArea g.ctx g.indexed
  let (es, s2) ← (List.range (2 ^ l.lgs)).foldlM (fun (acc : List Nat × State) seg => do
    let (x, s2) ← acc.2.segmentEntries g l seg
    return (acc.1 ++ x, s2)) ([], s1)
  let merges := es.foldl (fun m e =>
    addMerge ((BitVec.ofNat 48 (natBits e 111 64)).signExtend 64) (BitVec.ofNat 64 (natBits e 63 0)) m) []
  return ({ g with op := l.op, merges := merges, todo := List.range merges.length, fresh := false }, s2)

/-- The exact sum of floating values: a NaN, both infinities, one infinity, or a finite sum. -/
def sumFl (f : Fmt) (vs : List Nat) : Nat :=
  let xs := vs.map (Fl.ofPat f)
  let pos := xs.any (fun x => x == .inf false)
  let neg := xs.any (fun x => x == .inf true)
  if xs.any Fl.isNan || (pos && neg) then f.nan
  else if pos then f.infPat
  else if neg then f.withSign true f.infPat
  else
    let ds := xs.map flDy
    let q := ds.foldl (fun m d => min m d.exp) 0
    let total := ds.foldl (fun t d => t + d.at q) (0 : Int)
    let zneg := ds.all (fun d => d.neg && d.man == 0) && !ds.isEmpty
    (roundDy f .rne (Dy.ofInt total q zneg)).1

/-- The word after its entries are applied; without the word, what LOGM would have added (R145). -/
def mergeValue (op : Nat) (vs : List Nat) : Nat :=
  match op with
  | 2 => sumFl .b32 (vs.map (· % 2 ^ 32))
  | 3 => sumFl .b64 vs
  | 1 => vs.foldl (· + ·) 0 % 2 ^ 32
  | _ => vs.foldl (· + ·) 0 % 2 ^ 64

/-- One address's update, as one operation at its home; one that fails is dropped, counted and reported. -/
def State.applyMerge (s : State) (g : Gather) (a : Dword) (vs : List Dword) : State :=
  let n := 2 ^ addSize g.op
  let vals := vs.map (·.toNat)
  let r : Res State := do
    let (target, _, s1) ← s.logArea g.ctx g.indexed
    let _ ← capCheckAt target [0] { r := true, w := true } a.toNat n n
    let (t, s2) ← s1.translate g.ctx .amo false a
    match s2.readHome t.loc n with
    | none => trap 0x13 a
    | some w => return s2.writeHome t.loc (toBytes n (mergeValue g.op (w.nat :: vals))) false
  match r with
  | .ok s1 => s1
  | .error (.trap cause _ _) =>
    ((s.count g.ctx.part 0x330 1)).postFault g.ctx.part {
      extra := 0#56 ++ cause ++ BitVec.ofNat 64 (mergeValue g.op vals)
      tepc := 0
      addr := a
      time := s.nowNat
      asid := g.ctx.asid
      stg := g.ctx.stg
      cause := 0x14
      src := g.src
      parked := false }
  | .error _ => s

/-- Whether an update must wait, for a migration (R144) or for the context whose window it falls in (log entry 118). -/
def State.mergeStalls (s : State) (g : Gather) (a : Dword) : Bool :=
  match s.translate g.ctx .amo false a with
  | .error .stall => true
  | _ => s.windowAway g.ctx a

/-- Whether LOGM's fill counts lie in the window of a halted context: step 3 then waits (log entry 118). -/
def State.logAway (s : State) (g : Gather) : Bool :=
  match s.logArea g.ctx g.indexed with
  | .ok (_, l, s1) => s1.rangeAway g.ctx (g.indexed.addr + 64) (8 * 2 ^ l.lgs)
  | .error _ => false

/-- Step 3: every fill count becomes 0. -/
def State.clearLog (s : State) (g : Gather) : State :=
  match s.logArea g.ctx g.indexed with
  | .error _ => s
  | .ok (_, l, s1) =>
    match s1.writeVirt g.ctx (g.indexed.addr + 64) (List.replicate (8 * 2 ^ l.lgs) 0) false with
    | .ok s2 => s2
    | .error _ => s1

/-! ## Events -/

/-- An element has finished: its bit and the fields of the status area say so. -/
def State.finishElement (s : State) (g : Gather) (i : Nat) : State × Gather :=
  let g1 := { g with done := g.done + 1 }
  ((s.markElement g1 i).writeStatus g1, g1)

/-- An element has failed: it stays unfinished, and the first to fail is shown. FADDR is free where the element's address cannot be known
(log entry 120). -/
def State.failElement (s : State) (g : Gather) (i : Nat) (cause : BitVec 8) (addr : Option Dword) : State × Gather :=
  let (n, s1) := s.draw
  let g1 := { g with
    failed := g.failed ++ [i]
    cause := if g.cause = 0 then cause else g.cause
    faddr := if g.cause = 0 then addr.getD (BitVec.ofNat 64 n) else g.faddr }
  (s1.writeStatus g1, g1)

def State.setGather (s : State) (core index : Nat) (g : Gather) : State :=
  s.modCore core (fun k => { k with gathers := listSet k.gathers index g })

/-- The indexed address of an element (R248), where its index and, for SCATO, the target capability can be read. -/
def State.elementAddr (s : State) (g : Gather) (i : Nat) : Option Dword :=
  match s.indexOf g i with
  | .error _ => none
  | .ok (idx, s1) =>
    let at' (c : Cap) : Dword := BitVec.ofInt 64 (c.plus ((idx * 2 ^ g.sz : Nat) : Int))
    if g.kind = .scato then
      match s1.logArea g.ctx g.indexed with
      | .ok (target, _, _) => some (at' target)
      | .error _ => none
    else some (at' g.indexed)

/-- GATHER_ELEMENT: an element not yet served is served, or found to fail. One whose write a spill ring has caught finishes when the ring has
replayed it (R342). -/
def execGatherElement (core index element : Nat) (s : State) : Out :=
  event s (match (s.core core).gathers[index]? with
    | none => none
    | some g =>
      if g.todo.contains element && s.mayRun g.owner && !s.statusAway g then
        let rest := { g with todo := g.todo.filter (· != element) }
        match g.kind with
        | .logm =>
          match g.merges[element]? with
          | some (a, vs) =>
            if s.mergeStalls g a then none else some ((s.applyMerge g a vs).setGather core index rest)
          | none => none
        | _ =>
          match s.serve g element with
          | .ok (g1, s1) =>
            let g2 := { g1 with todo := rest.todo }
            if s1.spilled (g.sender element) then some (s1.setGather core index g2)
            else
              let r := s1.finishElement g2 element
              some (r.1.setGather core index r.2)
          | .error (.trap cause _ _) =>
            let r := s.failElement rest element cause (s.elementAddr g element)
            some (r.1.setGather core index r.2)
          | .error _ => none
      else none)

/-- GATHER_COMPLETE: every element is served or has failed; a partial command is reported at a WAIT, or in the fault queue when
its strand has exited (R249). -/
def execGatherComplete (core index : Nat) (s : State) : Out :=
  event s (match (s.core core).gathers[index]? with
    | none => none
    | some g =>
      let clears := g.kind == .logm && g.failed.isEmpty
      if g.todo.isEmpty && s.mayRun g.owner && !s.gatherSpilled g && !(clears && s.logAway g) then
        let s1 := if clears then s.clearLog g else s
        let s2 := (s1.modCore core (fun k => { k with gathers := listDrop k.gathers index })).lower g.owner (fun c => { c with c := c.c - 1 })
        if g.failed.isEmpty then some s2
        else if s2.alive g.owner then
          some (s2.modStrand g.owner.slot (fun m => { m with lates := m.lates ++ [⟨0x0E, g.status, g.statusBits, true, g.order⟩] }))
        else some (s2.lateRecord g.ctx.part g.ctx g.src 0x0E g.status g.statusBits)
      else none)

/-- What a gather starts with: its status area initialised, or LOGM's area read. An area that cannot be read fails LOGM whole
(log entry 41). -/
def State.openGather (s : State) (g : Gather) : Option (Gather × State) :=
  if g.fresh = false then some (g, s)
  else
    match g.kind with
    | .logm =>
      match s.openLog g with
      | .ok r => some r
      | .error (.trap cause _ _) => some ({ g with failed := [0], cause := cause, fresh := false }, s)
      | .error _ => none
    | _ => if s.statusAway g then none else some ({ g with fresh := false }, s.initStatus g)

/-- Whether a core's head waits for the copy engine, which takes gathers too, and whether it waits for the Spring unit (R44). -/
def State.copyWaits (s : State) (core : Nat) : Bool := match (s.core core).queue.head? with
  | some (.copy c) => s.mayRun c.owner
  | some (.gather g) => s.mayRun g.owner && (s.openGather g).isSome
  | _ => false
def State.springWaits (s : State) (core : Nat) : Bool := match (s.core core).queue.head? with
  | some (.spring o _) => s.mayRun o
  | _ => false

/-- ENGINE_TAKE: the head of a core's dispatch queue goes to its engine, each engine serving the cores of the quad in rotation (R44). The
wide engine has one command of a core in hand, whose turns are K blocks; a vector instruction is one turn (log entry 125). -/
def execEngineTake (core : Nat) (s : State) : Out :=
  event s (match (s.core core).queue with
    | [] => none
    | c :: rest =>
      let pop (s : State) : State := s.modCore core (fun k => { k with queue := rest })
      if s.mayRun c.owner then
        match c with
        | .copy x =>
          if s.mayServe .copy s.copyWaits core then
            some ((pop (s.servedBy .copy s.copyWaits core)).modCore core (fun k => { k with copies := k.copies ++ [x] }))
          else none
        | .gather g =>
          if s.mayServe .copy s.copyWaits core then
            ((pop (s.servedBy .copy s.copyWaits core)).openGather g).map (fun r => r.2.modCore core (fun k => { k with gathers := k.gathers ++ [r.1] }))
          else none
        | .spring o n =>
          if s.mayServe .spring s.springWaits core then
            let s1 := pop (s.servedBy .spring s.springWaits core)
            some (if s1.alive o then s1.modStrand o.slot (fun m => { m with
              vstates := m.vstates.map (fun v => if v.order = n then { v with taken := true } else v) }) else s1)
          else none
        | .vector _ =>
          if (s.core core).wide.isEmpty && s.mayServe .wide s.wideWaits core then some (pop (s.servedBy .wide s.wideWaits core)) else none
        | .tmma _ | .acc _ =>
          if (s.core core).wide.isEmpty then some ((pop s).modCore core (fun k => { k with wide := k.wide ++ [c] })) else none
      else none)

end Sys2Proof.Machine
end

