-- ==== Sys2Proof/Machine/StateOps.lean ====
section
/-!
DEFINITION. Majors 0x63 to 0x65: state words at their homes (R86 to R112), the scalar and vector state instructions (R252 to
R262), the law table, the crew's clock and its events (R263 to R266), the crossing calendar and the sweeper.
-/
namespace Sys2Proof.Machine

/-! ## Ticks (R91 to R93) -/

/-- Whether a tick is at or before another. -/
def atOrBefore (t n : BitVec 48) : Bool := decide ((n - t).toNat < 2 ^ 47)

/-- (TIME >> K)[47:0]. -/
def deviceTick (time : Dword) (k : BitVec 5) : BitVec 48 := (time >>> k.toNat).setWidth 48

def State.ticksOf (s : State) (k : CrewId) : Ticks := ⟨deviceTick s.time (s.crew k).stick, (s.crew k).lclk⟩
def LawEntry.tickOf (e : LawEntry) (t : Ticks) : BitVec 48 := if e.tsrc then t.logical else t.device

/-- What a state operation's request carries. -/
structure StOp where
  ctx : Ctx
  crew : CrewId
  lawb : Dword
  ticks : Ticks
  sse : Bool
  dg : Bool
  va : Dword
  loc : Loc
deriving DecidableEq, Repr

namespace State

def countLate (s : State) (o : StOp) : State := s.count o.ctx.part 0x300 1

/-! ## Laws at the home (R88 to R90) -/

def lawAddr (lawb : Dword) (law : BitVec 8) : Dword := lawb + BitVec.ofNat 64 (32 * law.toNat)

/-- A law entry as a home sees it: its memory's, or one that some home may have kept since before a store (R90). -/
def lawAt (s : State) (c : Ctx) (lawb : Dword) (law : BitVec 8) : Res (LawEntry × State) := do
  let a := lawAddr lawb law
  let (t, s1) ← s.translate c .engineRead false a
  match s1.readHome t.loc 32 with
  | none => trap 0x13 a
  | some g =>
    let now : BitVec 256 := BitVec.ofNat 256 g.nat
    let kept := Table.getD s1.laws t.loc []
    let all := if kept.contains now then kept else kept ++ [now]
    let s2 : State := { s1 with laws := Table.set s1.laws t.loc all }
    let (b, s3) := match all with
      | [b] => (b, s2)
      | _ => let (n, s3) := s2.draw; (all.getD (n % all.length) now, s3)
    let e := LawEntry.ofBits b
    guardTrap e.valid 0x0D a
    return (e, s3)

/-! ## Event records and law tasks (R104, R107, R266) -/

/-- Whether a crew's launch has not ended. -/
def crewLive (s : State) (k : CrewId) : Bool :=
  decide (k.launch.age = 0) || (match s.launch? k.launch with
    | some l => l.state != .ended
    | none => false)

def recordBefore (a b : EventRec) : Bool :=
  decide (a.tick.toNat < b.tick.toNat) || (decide (a.tick = b.tick) &&
    (decide (a.src < b.src) || (a.src == b.src && decide (a.addr.toNat < b.addr.toNat))))

def insertRecord (r : EventRec) : List EventRec → List EventRec
  | [] => [r]
  | x :: rest => if recordBefore r x then r :: x :: rest else x :: insertRecord r rest

/-- The task of an ACT = 2 law: its template with the crew's cluster as key, no counter, and the word's address as hint (R326).
A template that cannot be read gives no task (log entry 46). -/
def pushLawTask (s : State) (arm : Arming) (law : BitVec 8) (addr : BitVec 48) : State :=
  let a := (s.crew arm.crew).lawb + BitVec.ofNat 64 (0x2000 + 32 * law.toNat)
  let r : Res State := do
    let (code, s1) ← s.readCapVirt arm.ctx true a
    let (frame, s2) ← s1.readCapVirt arm.ctx true (a + 16)
    return s2.pushOrHold arm.crew.launch.part ⟨⟨code.bits, code.tag⟩, ⟨frame.bits, frame.tag⟩, code.taint, frame.taint, false, 0,
      BitVec.ofNat 32 arm.crew.cluster, 0, addr.signExtend 64, 0, false, none, none⟩
  match r with
  | .ok s1 => s1
  | .error _ => s

/-- Whether a crew's event queue can take a record now. -/
def eventRoom (s : State) (k : CrewId) : Bool := (s.crew k).loaded && decide ((s.crew k).events.length < 1024)

/-- A record goes to the arming crew's queue, its task after it; it is held in the calendar while there is no room, also beyond the
calendar's 8,192 entries (log entry 113), and dropped when the crew's launch has ended. -/
def postRecord (s : State) (loc : Loc) (tsrc : Bool) (arm : Arming) (r : EventRec) : State :=
  if s.crewLive arm.crew = false then s.count arm.crew.launch.part 0x310 1
  else if s.eventRoom arm.crew then
    let s1 := s.modCrew arm.crew (fun c => { c with events := insertRecord r c.events })
    if r.task then s1.pushLawTask arm r.law r.addr else s1
  else
    let cal := Table.getD s.calendars arm.crew.cluster []
    { s with calendars := Table.set s.calendars arm.crew.cluster (cal ++ [⟨r.tick, loc, r.law, tsrc, arm, some r, false, false⟩]) }

/-! ## Crossings (R100 to R105) -/

/-- The source number of a word's home Spring unit (R20); of a word homed on another device it carries this device's number (log
entry 114). -/
def springSrc (s : State) : Loc → Nat
  | .mem pa => s.srcNum 2 (4096 + homeSlice pa % 128)
  | .scratch core _ _ _ => s.srcNum 2 (core / 4)
  | _ => s.srcNum 2 0

/-- The record of a crossing k ticks after the anchor. -/
def crossingRecord (e : LawEntry) (w : StateWord) (k : Nat) (addr : Dword) (late : Bool) (src : Nat) : EventRec :=
  let t := w.t + BitVec.ofNat 48 k
  let v := (advanceWord e w t).1
  ⟨t, addr.setWidth 48, w.law, v.v0, v.v1, e.act == 2, late, src, !e.tsrc || late⟩

/-- The arming crew of a word, recorded from the operation when none is (R103). -/
def armingOf (s : State) (loc : Loc) (crew : CrewId) (ctx : Ctx) (va : Dword) : Arming × State :=
  match Table.find? s.arming loc with
  | some a => (a, s)
  | none => let a : Arming := ⟨crew, ctx, va⟩; (a, { s with arming := Table.set s.arming loc a })

/-- Removes a word's calendar entry; a firing held for room stays. -/
def dropEntry (s : State) (loc : Loc) : State :=
  { s with calendars := s.calendars.map (fun (c, es) => (c, es.filter (fun x => decide (x.loc ≠ loc) || x.held.isSome))) }

/-- R105: the crossing in (T, upTo], if there is one, is posted late; F is set, A and U cleared. -/
def lookBack (s : State) (o : StOp) (e : LawEntry) (w : StateWord) (upTo : BitVec 48) : StateWord × State :=
  let (d, _) := elapsed w.t upTo
  match crossing e w with
  | some k =>
    if k ≤ d then
      let (arm, s1) := s.armingOf o.loc o.crew o.ctx o.va
      ({ w with f := true, a := false, u := false },
        s1.postRecord o.loc e.tsrc arm (crossingRecord e w k arm.va true (s.springSrc o.loc)))
    else (w, s)
  | none => (w, s)

/-- SARM's answer (R258). -/
structure Armed where
  none' : Bool
  posted : Bool
  unsched : Bool
  entered : Bool
  tstar : BitVec 48
deriving DecidableEq, Repr

def Armed.bits (a : Armed) : Dword :=
  BitVec.ofBool a.none' ++ (0#12) ++ BitVec.ofBool a.posted ++ BitVec.ofBool a.unsched ++ BitVec.ofBool a.entered ++ a.tstar

/-- Prediction from the word as it stands (R101, R102), its earlier entry dropped. Only a crossing needs the arming crew (R103). -/
def predict (s : State) (o : StOp) (e : LawEntry) (w : StateWord) (n : BitVec 48) : Armed × StateWord × State :=
  let s1 := s.dropEntry o.loc
  match crossing e w with
  | none => (⟨true, false, false, false, 0⟩, { w with u := false }, s1)
  | some k =>
    let (arm, s2) := s1.armingOf o.loc o.crew o.ctx o.va
    let t := w.t + BitVec.ofNat 48 k
    if atOrBefore t n then
      (⟨false, true, false, false, t⟩, { w with f := true, a := false, u := false },
        s2.postRecord o.loc e.tsrc arm (crossingRecord e w k arm.va true (s.springSrc o.loc)))
    else if s2.crewLive arm.crew = false then (⟨false, false, false, false, t⟩, { w with u := false }, s2)
    else
      let cal := Table.getD s2.calendars arm.crew.cluster []
      if 8192 ≤ cal.length then (⟨false, false, true, false, t⟩, { w with u := true }, s2.count arm.crew.launch.part 0x308 1)
      else
        (⟨false, false, false, true, t⟩, { w with u := false },
          { s2 with calendars := Table.set s2.calendars arm.crew.cluster (cal ++ [⟨t, o.loc, w.law, e.tsrc, arm, none, false, e.tsrc && atOrBefore t (s2.crew arm.crew).lclk⟩]) })

/-- A re-anchored word of an armed word predicts again. -/
def repredict (s : State) (o : StOp) (e : LawEntry) (w : StateWord) (n : BitVec 48) : StateWord × State :=
  if w.a then let r := s.predict o e w n; (r.2.1, r.2.2) else (w, s)

/-! ## Operations at the home (R252 step 4, R255 to R260) -/

/-- A word as its home opens it: the law, the tick, whether it is stale, and the taint of its sectors. -/
structure Opened where
  w : StateWord
  e : LawEntry
  n : BitVec 48
  stale : Bool
  taint : Bool
deriving DecidableEq, Repr

/-- The word's stored bits and their taint. Poisoned storage shows as P (R86, R99). -/
def rawWord (s : State) (loc : Loc) : StateWord × Bool :=
  let w := StateWord.ofBits (BitVec.ofNat 128 (s.homeNat loc 16))
  ({ w with p := w.p || (s.readHome loc 16).isNone }, s.homeTaint loc 16)

/-- SSET clears P: the word's granule holds good data again (R97, R255). -/
def unpoison (s : State) (loc : Loc) : State :=
  if (s.readHome loc 16).isSome then s
  else match loc with
    | .mem pa => { s with mem := s.mem.putPoison (pa / 16) false }
    | .scratch c page frame off =>
      if (s.findPage c page frame).isSome then s.modPage c page frame (fun p => { p with bytes := p.bytes.putPoison (off / 16) false })
      else { s with mem := s.mem.putPoison ((frame + off) / 16) false }
    | _ => s

/-- Poison, the law, and the stale outcome, in that order (R260, R89, R111). -/
def openWord (s : State) (o : StOp) : Res (Opened × State) := do
  let (w, tn) := s.rawWord o.loc
  guardTrap (!w.p) 0x13 o.va
  let (e, s1) ← s.lawAt o.ctx o.lawb w.law
  guardTrap (!(w.w && o.sse)) 0x10 o.va
  return (⟨w, e, e.tickOf o.ticks, w.w, tn⟩, if w.w then s1.count o.ctx.part 0x318 1 else s1)

/-- Stores a word; a tainted one not into a guarded page (R367). -/
def putWord (s : State) (o : StOp) (w : StateWord) (taint : Bool) : Res State :=
  if taint && o.ctx.dmode && o.dg then trap 0x0F o.va
  else .ok (s.writeHome o.loc (toBytes 16 w.toBits.toNat) taint)

/-- What an operation answers: the word, the taint of what it read, whether it is itself a taint source (R150), and the machine. -/
abbrev StateAnswer := StateWord × Bool × Bool × State

/-- The advanced word of a read, after the late report of a word with U set, whose flags the answer shows as the report leaves them
(R97, R105, log entry 115). -/
def readOp (s : State) (o : StOp) : Res StateAnswer := do
  let (x, s1) ← s.openWord o
  let (w, s2) := if x.w.u then s1.lookBack o x.e x.w x.n else (x.w, s1)
  let (u, past) := advanceWord x.e w x.n
  let s3 := if past then s2.countLate o else s2
  let own := past || x.stale || !x.e.tsrc
  let s4 ← if w = x.w then .ok s3 else s3.putWord o w own
  return ({ u with t := x.n }, x.taint, own, s4)

/-- SADV (R255): T becomes the tick given, even one before the anchor. The operation's whole taint is stored (R254). -/
def advanceOp (s : State) (o : StOp) (regs : Bool) : Res StateAnswer := do
  let (x, s1) ← s.openWord o
  let (w1, s2) := if x.w.a then s1.lookBack o x.e x.w x.n else (x.w, s1)
  let (u, past) := advanceWord x.e w1 x.n
  let s3 := if past then s2.countLate o else s2
  let own := past || x.stale || !x.e.tsrc
  let w2 := { u with t := x.n, rsv := 0, w := false }
  let (w3, s4) := s3.repredict o x.e w2 x.n
  let s5 ← s4.putWord o w3 (own || x.taint || regs)
  return (w3, x.taint || regs, own, s5)

/-- SUPD (R98): the event tick, or none for the current one, the input, and the taint of the registers. -/
def updateOp (s : State) (o : StOp) (event : Option (BitVec 48)) (input : Word) (regs : Bool) : Res StateAnswer := do
  let (x, s1) ← s.openWord o
  let asked := event.getD x.n
  let before := !atOrBefore x.w.t asked
  let e1 := if before then x.w.t else asked
  let ahead := (e1 - x.n).toNat
  let after := decide (0 < ahead) && decide (ahead < 2 ^ 47) && !before
  let ev := if after then x.n else e1
  let late := before || after
  let s2 := if late then s1.countLate o else s1
  let (w1, s3) := if x.w.a then s2.lookBack o x.e x.w ev else (x.w, s2)
  let u := (advanceWord x.e w1 ev).1
  let v := clamp32 x.e (BitVec.ofNat 32 (addFl .b32 .rne (fl32 u.v0) (fl32 input)).1)
  let own := late || x.stale || !x.e.tsrc
  let w2 := { u with v0 := v, t := ev, rsv := 0, w := false }
  let (w3, s4) := s3.repredict o x.e w2 x.n
  let s5 ← s4.putWord o w3 (own || x.taint || regs)
  return (w3, x.taint || regs, own, s5)

end State

/-- The place of the word 16·i bytes on within one block. -/
def Loc.plus (l : Loc) (n : Nat) : Loc :=
  match l with
  | .mem pa => .mem (pa + n)
  | .scratch c p f o => .scratch c p f (o + n)
  | .host a => .host (a + n)
  | .mmio a => .mmio (a + n)

/-- Whether a vector state instruction still has to serve the word at a place. -/
def VState.owes (v : VState) (loc : Loc) : Bool :=
  (List.range 64).any (fun i => v.lanes.getLsbD i && decide (v.loc.plus (16 * i) = loc))

/-! ## Scalar instructions -/

/-- The checks of steps 3 of R252, and the request. It waits for the strand's earlier operations on the word (R253). -/
def State.stateAt (s : State) (a : GIdx) (acc : Acc) (need : Need) : Res (StOp × State) := do
  let c := s.cap a
  let va ← capCheckAt c [0, 5] { need with state := true } c.addr.toNat 16 16
  let (t, s1) ← s.translate s.ctx acc false va
  if s.me.vstates.any (fun v => v.owes t.loc) then stall
  let s2 := (s1.settleOver t.loc 16).evictAt s.myCore t.loc
  let k := s.myCrew
  return (⟨s.ctx, k, (s.crew k).lawb, s.ticksOf k, s.me.csr.sse, Pte.dg t.pte, va, t.loc⟩, s2)

/-- An interlocked state instruction: the ticks are those sampled when it was issued, and the home serves it then or at a
later turn (log entry 47); what stops it stops it at once. -/
def stateInsn (s : State) (f : Ticks → State → Res State) : Out :=
  match s.me.ticks with
  | some t =>
    let s1 := s.modMe (fun m => { m with ticks := none })
    fallThrough 4 s1 (f t s1)
  | none =>
    let t := s.ticksOf s.myCrew
    let (n, s1) := s.draw
    match f t s1 with
    | .error e => finish s1 (.error e)
    | .ok u => if n % 2 = 1 then .next (s1.modMe (fun m => { m with ticks := some t })) else fallThrough 4 s1 (.ok u)

/-- A g destination (R254); a taint source is one taint event (R150). -/
def State.valueOut (s : State) (d : GIdx) (w : StateWord) (taint own : Bool) : State :=
  (s.setX d (w.v1 ++ w.v0) (taint || own)).taintEventIf own

def execSrd (d a : GIdx) (s : State) : Out :=
  stateInsn s (fun t s => do
    let (o, s1) ← s.stateAt a .stateRead { r := true }
    let (w, tn, own, s2) ← s1.readOp { o with ticks := t }
    return s2.valueOut d w (tn || (s.g a).taint) own)

def execSadv (d a : GIdx) (s : State) : Out :=
  stateInsn s (fun t s => do
    let (o, s1) ← s.stateAt a .stateOp { r := true, w := true }
    let (w, tn, own, s2) ← s1.advanceOp { o with ticks := t } (s.g a).taint
    return s2.valueOut d w tn own)

/-- The event tick that e1 and e0 give (R256). -/
def State.eventTick (s : State) : Res (Option (BitVec 48)) :=
  let v := s.e 1
  if v.extractLsb' 16 15 ≠ 0 then trap 0x01 (v.setWidth 64)
  else .ok (if v.getLsbD 31 then some (v.extractLsb' 0 16 ++ s.e 0) else none)

def execSupd (d a b : GIdx) (s : State) : Out :=
  stateInsn s (fun t s => do
    let ev ← s.eventTick
    let (o, s1) ← s.stateAt a .stateOp { r := true, w := true }
    let regs := s.t2 a b || s.eT 0 || s.eT 1
    let (w, tn, own, s2) ← s1.updateOp { o with ticks := t } ev ((s.x b).extractLsb' 0 32) regs
    return s2.valueOut d w tn own)

def execSset (a b : GIdx) (s : State) : Out :=
  stateInsn s (fun t s => do
    let v := s.e 2
    guardTrap (v.extractLsb' 8 24 == 0) 0x01 (v.setWidth 64)
    let (o, s1) ← s.stateAt a .stateOp { r := true, w := true }
    let o := { o with ticks := t }
    let law := v.extractLsb' 0 8
    let (e, s2) ← s1.lawAt o.ctx o.lawb law
    let n := e.tickOf t
    -- the old word's A is read from its stored bits, poisoned or not
    let old := (s2.rawWord o.loc).1
    let w : StateWord := ⟨0, false, false, false, old.a, false, law, n, (s.x b).extractLsb' 32 32, (s.x b).extractLsb' 0 32⟩
    let (w1, s3) := s2.repredict o e w n
    let s4 ← (s3.unpoison o.loc).putWord o w1 (s.t2 a b || s.eT 2 || !e.tsrc)
    return s4.taintEventIf (!e.tsrc))

/-- What SARM answers when it arms nothing (R258, R260). -/
def notArmed : Dword := BitVec.ofNat 64 (2 ^ 63)

def execSarm (d a : GIdx) (s : State) : Out :=
  stateInsn s (fun t s => do
    let (o, s1) ← s.stateAt a .stateOp { r := true, w := true }
    let o := { o with ticks := t }
    let (w, tn) := s1.rawWord o.loc
    let base := (s.g a).taint || tn
    if w.p then return (s1.setX d notArmed base).setP7 true base
    else
      let (x, s2) ← s1.openWord o
      let own := x.stale || !x.e.tsrc
      if x.e.act = 0 then return ((s2.setX d notArmed (base || own)).setP7 true (base || own)).taintEventIf own
      else
        let s3 : State := { s2 with arming := Table.set s2.arming o.loc ⟨o.crew, o.ctx, o.va⟩ }
        let (r, w1, s4) := s3.predict o x.e { x.w with a := true, f := false, u := false } x.n
        let s5 ← s4.putWord o w1 own
        return ((s5.setX d r.bits (base || own)).setP7 false (base || own)).taintEventIf own)

/-- Whether a word's values depend on when TIME was read, for a form that needs no law (R92): where its entry can be read and is valid,
TSRC says so; an entry that cannot be read stops nothing and taints nothing (log entry 126). -/
def State.timeWord (s : State) (o : StOp) (law : BitVec 8) : Bool :=
  match s.translate o.ctx .engineRead false (State.lawAddr o.lawb law) with
  | .ok (t, s1) => (s1.readHome t.loc 32).any (fun g =>
    let e := LawEntry.ofBits (BitVec.ofNat 256 g.nat)
    e.valid && !e.tsrc)
  | .error _ => false

/-- SDIS: it works without a law (R255). -/
def execSdis (d a : GIdx) (s : State) : Out :=
  stateInsn s (fun _ s => do
    let (o, s1) ← s.stateAt a .stateOp { r := true, w := true }
    let (w, tn) := s1.rawWord o.loc
    let own := s1.timeWord o w.law
    let s2 ← (s1.dropEntry o.loc).putWord o { w with a := false, u := false } own
    return (s2.setX d ((w.toBits.extractLsb' 120 8).setWidth 64) ((s.g a).taint || tn || own)).taintEventIf own)

/-- SRAW: mode 0 works without a law (R257). -/
def execSraw (d a m : GIdx) (s : State) : Out :=
  stateInsn s (fun t s => do
    let (o, s1) ← s.stateAt a .stateRead { r := true }
    if m = 0 then
      let (w, tn) := s1.rawWord o.loc
      let own := s1.timeWord o w.law
      return (s1.setG d ⟨w.toBits, false, (s.g a).taint || tn || own⟩).taintEventIf own
    else
      let (w, tn, own, s2) ← s1.readOp { o with ticks := t }
      return (s2.setG d ⟨w.toBits, false, (s.g a).taint || tn || own⟩).taintEventIf own)

/-! ### SSWP (R109, R259) -/

/-- Whether an address of a region lies in memory, as a state access would find it; no address has bits 63:48 unlike bit 47 (R113). -/
def State.regionPlace (s : State) (a : Nat) (c : Cap) : Res State :=
  let va : Dword := BitVec.ofNat 64 a
  if inScratchRange a ∨ (va.extractLsb' 0 48).signExtend 64 ≠ va then capTrap c 0x07 va
  else
    match s.leaf s.ctx (a % 2 ^ 48) with
    | .error (cause, pte) => trapX cause va (pte.setWidth 128)
    | .ok (n, pte, s1) =>
      if !s.sysMode && !Pte.u pte then trapX 0x07 va (pte.setWidth 128)
      else
        match s1.placeOf s.ctx .stateOp va (leafAddr n pte (a % 2 ^ 48)) pte with
        | .ok (.mem _) => .ok s1
        | .ok _ => trapX 0x07 va (pte.setWidth 128)
        | .error e => .error e

/-- A region in memory page by page: the address given, then every page begun below its top. -/
def State.regionScan (top : Nat) (c : Cap) : Nat → Nat → State → Res State
  | 0, _, s => .ok s
  | fuel + 1, a, s =>
    if top ≤ a then .ok s
    else match s.regionPlace a c with
      | .ok s1 => State.regionScan top c fuel ((a / 4096 + 1) * 4096) s1
      | .error e => .error e

/-- A region lies in memory, or in one scratchpad window of the cluster (R259). The address reported is that of the first page that
does neither (log entry 50). -/
def State.regionWhole (s : State) (c : Cap) : Res State :=
  let off := c.base - 0x7F0000000000
  if inScratchRange c.base then
    if off / 0x100000 < 2048 ∧ off % 0x100000 + (c.top - c.base) ≤ 0x40000 ∧ clusterOfCore (off / 0x100000) = s.myCluster then .ok s
    else capTrap c 0x07 (BitVec.ofNat 64 c.base)
  else State.regionScan c.top c ((c.top - c.base) / 4096 + 2) c.base s

def Region.sameAs (r : Region) (base top : Nat) (k : CrewId) : Bool := r.base == base && r.top == top && decide (r.arm.crew = k)

def execSswp (a b : GIdx) (s : State) : Out :=
  stateInsn s (fun _ s => do
    let c := s.cap a
    let _ ← capCheckAt c [5] { state := true } c.addr.toNat 16 16
    guardTrap (c.base % 16 == 0) 0x08 (BitVec.ofNat 64 c.base)
    guardTrap (c.top % 16 == 0) 0x08 (BitVec.ofNat 64 c.top)
    let s2 ← s.regionWhole c
    let k := s.myCrew
    let rs := Table.getD s2.regions s.myCluster []
    let have' := rs.any (fun r => r.sameAs c.base c.top k)
    let t := s.t2 a b
    let put (l : List Region) : State := { s2 with regions := Table.set s2.regions s.myCluster l }
    if (s.x b).getLsbD 0 then
      if have' || decide (256 ≤ rs.length) then return s2.setP7 true t
      else return (put (rs ++ [⟨c.base, c.top, ⟨k, s.ctx, c.addr⟩, none, false, s.nowNat, (s.crew k).lclk⟩])).setP7 false t
    else if have' then return (put (rs.filter (fun r => !r.sameAs c.base c.top k))).setP7 false t
    else return s2.setP7 true t)

/-! ## Vector instructions (R112, R261, R262) -/

/-- The request of one lane. -/
def VState.lane (v : VState) (i : Nat) : StOp :=
  ⟨v.ctx, v.crew, v.lawb, v.ticks, v.sse, v.dg, v.base + BitVec.ofNat 64 (16 * i), v.loc.plus (16 * i)⟩

/-- One lane served at its word's home: the value for the register, its taint, and whether it is a taint source. -/
def State.serveLane (s : State) (v : VState) (i : Nat) : Res (Word × Bool × Bool × State) :=
  let first (r : StateAnswer) : Word × Bool × Bool × State := (r.1.v0, r.2.1 || r.2.2.1, r.2.2.1, r.2.2.2)
  match v.op with
  | .srd => (s.readOp (v.lane i)).map first
  | .srdy => (s.readOp (v.lane i)).map (fun r => (r.1.v1, r.2.1 || r.2.2.1, r.2.2.1, r.2.2.2))
  | .sadv => (s.advanceOp (v.lane i) v.inTaint).map first
  | .supd => (s.updateOp (v.lane i) v.event (Machine.lane v.input i) v.inTaint).map first

/-- Marks a lane served, with its fault if it failed. -/
def VState.served (v : VState) (i : Nat) (tn : Bool) (fault : Option (BitVec 8 × Dword)) : VState :=
  { v with
    lanes := v.lanes &&& ~~~(BitVec.ofNat 64 (2 ^ i))
    taint := v.taint || tn
    fault := match fault, v.fault with
      | some (c, a), some (j, c', a') => if i < j then some (i, c, a) else some (j, c', a')
      | some (c, a), none => some (i, c, a)
      | none, f => f }

/-- The address of a lane's word, which the lane's report names (R262). -/
def VState.word (v : VState) (lane : Nat) : Dword := v.base + BitVec.ofNat 64 (16 * lane)

/-- The report a finished instruction leaves for WAIT. -/
def VState.report (v : VState) : List Late :=
  match v.fault with
  | some (_, cause, a) => [⟨cause, a, 0, false, v.order⟩]
  | none => []

/-- A write stream keeps the place of the element that a vector state instruction will push when its last lane is done: the element's
checks and translation come at issue (R246). -/
def State.reservePush (s : State) (d : VIdx) (st : Stream) : Res State :=
  match st.pushAt with
  | .error e => .error e
  | .ok none => .ok (s.setStream d (some { st with ovr := true }))
  | .ok (some a) =>
    let places : Res State := (piecesOf a 256).foldlM (fun (s : State) p => (s.translate s.ctx .store false p.1).map (·.2)) s
    match places with
    | .error (.trap c _ e) => trapX c a e
    | .error e => .error e
    | .ok s1 => .ok (s1.setStream d (some { st with pos := st.pos + 1 }))

/-- A vector state instruction issued: its lanes are sent, one at a time (R112), and L rises. -/
def State.vstate (s : State) (op : VStateOp) (d : VIdx) (a : GIdx) (ev : Option (BitVec 48)) (input : VReg) : Res State := do
  let c := s.cap a
  let writes := op == .sadv || op == .supd
  let va ← capCheckAt c [0, 5] { r := true, w := writes, state := true } c.addr.toNat 1024 1024
  let (t, s1) ← s.translate s.ctx (if writes then .stateOp else .stateRead) false va
  let s2 := (s1.settleReds (fun _ => true)).flushCore s.myCore
  let s3 := (List.range 8).foldl (fun (s : State) i => s.evictAt s.myCore (t.loc.plus (128 * i))) s2
  let k := s.myCrew
  let mask := s.memMask
  let (n, s4) := s3.nextSerial
  let push := (s4.stream? d).filter (·.write)
  let v : VState := ⟨op, d, va, t.loc, Pte.dg t.pte, s.ctx, k, (s.crew k).lawb, s.ticksOf k, ev, s.me.csr.sse, mask.bits, input.bits,
    (s.g a).taint || input.taint, (s.e 3).extractLsb' 0 3 == 0, (s.g a).taint || mask.taint || input.taint, none, n, false,
    push.map (fun st => (st, (s4.oldV d).bits))⟩
  if mask.bits = 0 then
    match push with
    | none => return s4.taintV d v.taint
    | some _ => s4.writeV d ⟨(s4.oldV d).bits, if v.whole then v.taint else (s4.oldV d).taint || v.taint⟩
  else
    let s5 ← match push with
      | some st => s4.reservePush d st
      | none => .ok s4
    let s6 ← s5.raiseL
    (s6.modMe (fun m => { m with vstates := m.vstates ++ [v] })).pushCmd (.spring s.me? n)

def execVsrd (d : VIdx) (a : GIdx) (s : State) : Out := fallThrough 4 s (s.vstate .srd d a none VReg.zero)
def execVsrdy (d : VIdx) (a : GIdx) (s : State) : Out := fallThrough 4 s (s.vstate .srdy d a none VReg.zero)
def execVsadv (d : VIdx) (a : GIdx) (s : State) : Out := fallThrough 4 s (s.vstate .sadv d a none VReg.zero)
def execVsupd (d : VIdx) (a : GIdx) (b : VIdx) (s : State) : Out :=
  fallThrough 4 s (do
    let ev ← s.eventTick
    let (x, s1) ← s.readV b
    s1.vstate .supd d a ev { x with taint := x.taint || s.eT 0 || s.eT 1 })

/-- Writes one lane of a v register (R208). -/
def setLane (v : Vword) (i : Nat) (w : Word) : Vword := ofLanes (tabulate 64 (fun j => if j = i then w else lane v j))

/-- A vector state instruction that owes no lane ends once it is the strand's oldest: L falls, and a failure is left for WAIT. -/
def Strand.endVstate (m : Strand) (index : Nat) (v : VState) : Strand :=
  if v.lanes = 0 ∧ m.oldestL v.order = true then
    { m with vstates := listDrop m.vstates index, lates := m.lates ++ v.report, ctr := { m.ctr with l := m.ctr.l - 1 } }
  else { m with vstates := listSet m.vstates index v }

/-- The same for one whose destination is a write stream: it pushes its element first, whose fault is left for WAIT as a lane's is. It
waits while the element cannot be stored yet. -/
def State.endPush (s : State) (slot index : Nat) (v : VState) : Option State :=
  let m := s.strand slot
  let close (s : State) (v : VState) : State := s.setStrand slot ((s.strand slot).endVstate index v)
  match v.push with
  | some (st, bits) =>
    if v.lanes = 0 ∧ m.oldestL v.order = true then
      let x : VReg := ⟨bits, if v.whole then v.taint else (m.regs.rv v.vd).taint || v.taint⟩
      let stored : Res State := match st.pushAt with
        | .error e => .error e
        | .ok none => .ok s
        | .ok (some a) => (((s.focus slot).storeElement a x).bind State.raiseS).map (fun t => t.focus s.cur)
      match stored with
      | .ok s1 => some (close s1 v)
      | .error (.trap cause a _) => some (close s { v with fault := some (v.fault.getD (64, cause, a)) })
      | .error _ => none
    else some (close s v)
  | none => some (close s v)

/-- VSTATE_LANE: a lane is served at its word's home, after the strand's earlier operations on the word; the core's copy of the word's
line goes once it is (R253). -/
def execVstateLane (slot index lane : Nat) (s : State) : Out :=
  let m0 := s.strand slot
  event s (match m0.vstates[index]? with
    | none => none
    | some v =>
      let loc := v.loc.plus (16 * lane)
      if v.lanes = 0 then (if m0.oldestL v.order then s.endPush slot index v else none)
      else if v.taken = true ∧ lane < 64 ∧ v.lanes.getLsbD lane = true ∧ (m0.vstates.take index).any (fun q => q.owes loc) = false then
        let r : Option (VState × Option Word × State) := match s.serveLane v lane with
          | .ok (w, tn, own, s1) => some (v.served lane tn none, some w, s1.taintAt slot own)
          | .error (.trap cause _ _) => some (v.served lane false (some (cause, v.word lane)), none, s)
          | .error _ => none
        r.bind (fun (v1, w, s1) =>
          let s2 := s1.evictAt (coreOfSlot slot) loc
          let with' (bits : Vword) : Vword := match w with
            | some w => setLane bits lane w
            | none => bits
          match v1.push with
          | some (st, bits) => s2.endPush slot index { v1 with push := some (st, with' bits) }
          | none =>
            let m := s2.strand slot
            let old := m.regs.rv v.vd
            let tn := if v1.lanes == 0 && v.whole then v1.taint else old.taint || v1.taint
            some (s2.setStrand slot ({ m with regs := m.regs.wv v.vd ⟨with' old.bits, tn⟩ }.endVstate index v1)))
      else none)

/-! ## The law table and the clocks (R263 to R265) -/

def execSlaw (a : GIdx) (s : State) : Out :=
  fallThrough 4 s (do
    let c := s.cap a
    let va ← capCheckAt c [0] { r := true } c.addr.toNat 32 32
    let lawb := (s.crew s.myCrew).lawb
    if va.toNat < lawb.toNat ∨ lawb.toNat + 0x3FFF < va.toNat then capTrap c 0x02 va
    let (t, s1) ← s.translate s.ctx .load false va
    let s2 := (s1.settleOver t.loc 32).evictAt s.myCore t.loc
    let s3 : State := { s2 with laws := Table.erase s2.laws t.loc }
    match s3.readHome t.loc 32 with
    | none => trap 0x13 va
    | some g =>
      let bad := decide (va.toNat < lawb.toNat + 0x2000) && !(LawEntry.ofBits (BitVec.ofNat 256 g.nat)).valid
      return s3.setP7 bad ((s.g a).taint || g.taint))

def execSclkr (d : GIdx) (s : State) : Out :=
  fallThrough 4 s (.ok (s.setX d ((s.crew s.myCrew).lclk.setWidth 64) false))

/-- An entry of the crew that must fire before its clock's move to a tick completes (R106). -/
def CalEntry.blocks (x : CalEntry) (k : CrewId) (tick : BitVec 48) : Bool :=
  x.tsrc && decide (x.arm.crew = k) && x.held.isNone && x.due && atOrBefore x.tick tick

def State.clockDone (s : State) (k : CrewId) (tick : BitVec 48) : Bool :=
  !(Table.getD s.calendars k.cluster []).any (fun x => x.blocks k tick)

/-- Whether a strand's clock move may begin: its vector state operations have been performed, and no other strand of its crew has a move
that came before (R265). -/
def State.clockTurn (s : State) (slot order : Nat) : Bool :=
  let before (e : Nat × Strand) : Bool := e.1 != slot && decide ((⟨e.2.launch, clusterOfSlot e.1⟩ : CrewId) = s.crewOf slot) &&
    (match e.2.wait with
     | some ⟨_, .clock n _, _, _, _⟩ => decide (n < order)
     | _ => false)
  (s.strand slot).vstates.isEmpty && !((s.cur, s.me) :: s.others).any before

/-- LCLK at a new tick. A move forward reaches the crew's entries at or before it; a move back reaches none (R265). -/
def State.setClock (s : State) (k : CrewId) (tick : BitVec 48) : State :=
  let back := decide (2 ^ 47 ≤ (tick - (s.crew k).lclk).toNat)
  let s1 := s.modCrew k (fun c => { c with lclk := tick })
  if back then s1
  else { s1 with calendars := s1.calendars.map (fun (c, es) =>
    (c, es.map (fun x => if x.tsrc && decide (x.arm.crew = k) && atOrBefore x.tick tick then { x with due := true } else x))) }

/-- SCLKW and SCLKA (R265): the move waits for its turn, sets the clock, and completes when the crew's calendar has fired up to the new
tick. `next` is the tick it sets, from the clock as it then stands. -/
def clockMove (s : State) (check : Res Unit) (next : BitVec 48 → BitVec 48) (out : BitVec 48 → State → State) : Out :=
  let k := s.myCrew
  let move (s : State) (order : Nat) : Res (State × Option WaitOn) :=
    if s.clockTurn s.cur order then
      let t := next (s.crew k).lclk
      let s1 := s.setClock k t
      if s1.clockDone k t then .ok (out t s1, none) else .ok (s1, some (.clock order (some t)))
    else .ok (s, some (.clock order none))
  fallOrWait 4 s (
    match s.me.wait with
    | some ⟨_, .clock order (some t), _, _, _⟩ => if s.clockDone k t then .ok (out t s, none) else waitFor (.clock order (some t))
    | some ⟨_, .clock order none, _, _, _⟩ => move s order
    | _ => do
      check
      let (order, s1) := s.nextSerial
      move s1 order)

def execSclkw (a : GIdx) (s : State) : Out :=
  let v := s.x a
  clockMove s (guardTrap (v.extractLsb' 48 16 == 0) 0x01 v) (fun _ => v.extractLsb' 0 48) (fun _ s => s)

def execSclka (d a : GIdx) (s : State) : Out :=
  let v := s.x a
  clockMove s (guardTrap (decide (v.toNat < 2 ^ 47)) 0x01 v) (fun c => c + v.extractLsb' 0 48)
    (fun t s => s.setX d (t.setWidth 64) (s.g a).taint)

def execStime (d : GIdx) (s : State) : Out :=
  fallThrough 4 s (.ok ((s.setX d ((s.ticksOf s.myCrew).device.setWidth 64) true).taintEvent))

/-- A write to STICK (R91). -/
def State.writeStick (s : State) (k : CrewId) (v : Dword) : State :=
  s.modCrew k (fun c => { c with stick := if 20 < (v.extractLsb' 0 5).toNat then 20 else v.extractLsb' 0 5 })

/-- STICK_WRITE: what a CSRW of STICK by a strand of the crew does. -/
def execStickWrite (slot : Nat) (v : Dword) (s : State) : Out := event s (some (s.writeStick (s.crewOf slot) v))

/-! ## Events (R266) -/

/-- A record's 32 bytes. -/
def EventRec.bytes (r : EventRec) : List Byte :=
  toBytes 32 (r.tick.toNat + 2 ^ 48 * r.law.toNat + 2 ^ 56 * r.late.toNat + 2 ^ 57 * r.task.toNat + 2 ^ 64 * r.addr.toNat +
    2 ^ 128 * r.v0.toNat + 2 ^ 160 * r.v1.toNat + 2 ^ 192 * r.src)

def execEvpop (a : GIdx) (s : State) : Out :=
  fallThrough 4 s (do
    let c := s.cap a
    let va ← capCheckAt c [0] { w := true } c.addr.toNat 32 32
    match (s.crew s.myCrew).events with
    | [] => return s.setP7 true (s.g a).taint
    | r :: rest =>
      let s1 ← s.storeAt va r.bytes r.taint
      let s2 ← (s1.modCrew s.myCrew (fun k => { k with events := rest })).raiseS
      return s2.setP7 false (s.g a).taint)

def execEvwait (s : State) : Out :=
  fallThrough 4 s (if (s.crew s.myCrew).events.isEmpty then waitFor .events else .ok s)

/-! ## The calendar (R104, R107) -/

def State.setCalEntry (s : State) (cluster index : Nat) (x : Option CalEntry) : State :=
  let cal := Table.getD s.calendars cluster []
  { s with calendars := Table.set s.calendars cluster (match x with
    | some x => listSet cal index x
    | none => listDrop cal index) }

/-- Whether an entry fires now: its time source has reached t*. -/
def State.fires? (s : State) (x : CalEntry) : Bool :=
  x.held.isNone && !x.sent && (if x.tsrc then x.due else atOrBefore x.tick (s.ticksOf x.arm.crew).device)

/-- The calendar's own order: ascending t*, then ascending word address (R426). -/
def CalEntry.before (x y : CalEntry) : Bool :=
  decide (x.tick.toNat < y.tick.toNat) || (decide (x.tick = y.tick) && decide (x.arm.va.toNat < y.arm.va.toNat))

/-- CALENDAR_FIRE: an entry whose time source has reached t* sends its request to the word's home, in the calendar's own order among those
that fire now. -/
def execCalendarFire (cluster index : Nat) (s : State) : Out :=
  let cal := Table.getD s.calendars cluster []
  event s (match cal[index]? with
    | none => none
    | some x =>
      if s.fires? x && !cal.any (fun y => s.fires? y && y.before x) then
        some ({ s.setCalEntry cluster index (some { x with sent := true }) with fires := s.fires ++ [⟨cluster, x, s.time⟩] })
      else none)

/-- Whether the word crosses exactly at a tick: v(t*) meets while v(t* − 1) does not, whatever the word's age (R104). -/
def crossesAt (e : LawEntry) (w : StateWord) (t : BitVec 48) : Bool :=
  let v (t : BitVec 48) : Word := (advanceWord e w t).1.v0
  meets e (v t) && !meets e (v (t - 1))

/-- The request of a home acting for a word's arming crew. -/
def State.armOp (s : State) (arm : Arming) (loc : Loc) (va : Dword) : StOp :=
  ⟨arm.ctx, arm.crew, (s.crew arm.crew).lawb, s.ticksOf arm.crew, false, false, va, loc⟩

/-- A firing served at the home: the crossing is checked and its record posted, or the word is predicted again, for the arming crew the
word then has (R103). A firing whose law cannot be read is dropped and counted. -/
def State.serveFire (s : State) (x : CalEntry) : State :=
  let (w, _) := s.rawWord x.loc
  let arm := Table.getD s.arming x.loc x.arm
  let drop (s : State) : State := s.count arm.crew.launch.part 0x310 1
  if w.p then drop s
  else if !w.a then s
  else
    let o := s.armOp arm x.loc arm.va
    match s.lawAt o.ctx o.lawb w.law with
    | .error _ => drop s
    | .ok (e, s1) =>
      let put (s : State) (w : StateWord) : State := s.writeHome x.loc (toBytes 16 w.toBits.toNat) (!e.tsrc)
      if e.act ≠ 0 ∧ crossesAt e w x.tick = true then
        (put s1 { w with f := true, a := false }).postRecord x.loc e.tsrc arm
          (crossingRecord e w (x.tick - w.t).toNat arm.va false (s.srcNum 3 arm.crew.cluster))
      else
        let (_, w1, s2) := s1.predict o e w (e.tickOf o.ticks)
        put s2 w1

/-- Whether a request has to be served before another: the same calendar sent it to the same unit at the same time, and first (R426, log entry
141). -/
def State.servedFirst (s : State) (q r : FireReq) : Bool :=
  q.cluster == r.cluster && decide (q.time = r.time) && s.springSrc q.entry.loc == s.springSrc r.entry.loc

/-- FIRE_REQUEST_SERVE. -/
def execFireRequestServe (index : Nat) (s : State) : Out :=
  event s (match s.fires[index]? with
    | none => none
    | some r =>
      if (s.fires.take index).any (fun q => s.servedFirst q r) then none else
      let s1 : State := { s with fires := listDrop s.fires index }
      let gone (x : CalEntry) : Bool := decide (x.loc = r.entry.loc) && x.sent && decide (x.tick = r.entry.tick)
      let s2 : State := { s1 with calendars := Table.modify s1.calendars r.cluster [] (fun l => l.filter (fun x => !gone x)) }
      some (s2.serveFire r.entry))

/-- HELD_FIRING_POST. -/
def execHeldFiringPost (cluster index : Nat) (s : State) : Out :=
  event s (match (Table.getD s.calendars cluster [])[index]? with
    | some x =>
      match x.held with
      | some r =>
        if s.eventRoom x.arm.crew || !s.crewLive x.arm.crew then some ((s.setCalEntry cluster index none).postRecord x.loc x.tsrc x.arm r) else none
      | none => none
    | none => none)

/-! ## The sweeper (R109, R110) -/

/-- Whether TIME's pass over a region is due, 2^40 ns after the last or after its registration (log entry 116). -/
def State.timeDue (s : State) (r : Region) : Bool := decide (r.lastTime + 2 ^ 40 ≤ s.nowNat)

/-- Whether the logical clock's pass is due: the clock has advanced 2^44 ticks, which no move back does. -/
def State.tickDue (s : State) (r : Region) : Bool :=
  let d := ((s.crew r.arm.crew).lclk - r.lastTick).toNat
  decide (2 ^ 44 ≤ d) && decide (d < 2 ^ 47)

/-- The start of the pass over a region that is due. TIME's visits every word, the logical clock's those of TSRC = 1 alone. -/
def State.startSweep (s : State) (r : Region) : Region :=
  if r.next.isSome then r
  else if s.timeDue r then { r with next := some r.base, logical := false, lastTime := s.nowNat, lastTick := (s.crew r.arm.crew).lclk }
  else if s.tickDue r then { r with next := some r.base, logical := true, lastTick := (s.crew r.arm.crew).lclk }
  else r

/-- SWEEP_PASS: a pass starts over the regions for which one is due. -/
def execSweepPass (cluster : Nat) (s : State) : Out :=
  let rs := Table.getD s.regions cluster []
  event s (if rs.any (fun r => r.next.isNone && (s.timeDue r || s.tickDue r)) then
    some { s with regions := Table.set s.regions cluster (rs.map s.startSweep) }
    else none)

/-- A visit to one word (R110): W, the fixed steps, and R105 for a word with U set. A word that does not translate, that is poisoned or
whose law cannot be read is passed over (log entry 116). -/
def State.sweepAt (s : State) (r : Region) (a : Nat) : State :=
  let va : Dword := BitVec.ofNat 64 a
  match s.translate r.arm.ctx .stateOp false va with
  | .error _ => s
  | .ok (t, s1) =>
    let (w, _) := s1.rawWord t.loc
    let o := s1.armOp r.arm t.loc va
    if w.p then s1
    else
      match s1.lawAt o.ctx o.lawb w.law with
      | .error _ => s1
      | .ok (e, s2) =>
        if r.logical && !e.tsrc then s2 else
        let n := e.tickOf o.ticks
        let d := (n - w.t).toNat
        let put (s : State) (x : StateWord) : State := if x = w then s else s.writeHome t.loc (toBytes 16 x.toBits.toNat) false
        if 2 ^ 46 + 2 ^ 45 ≤ d then put s2 { w with w := true }
        else
          let (w1, s3) := if w.u then s2.lookBack o e w n else (w, s2)
          let (w2, s4) :=
            if 2 ^ 46 ≤ d then
              let at' := w1.t + BitVec.ofNat 48 (2 ^ 45)
              let (w1, s3) := if w1.a then s3.lookBack o e w1 at' else (w1, s3)
              s3.repredict o e { stepWord e w1 (2 ^ 45) with rsv := 0 } n
            else (w1, s3)
          let (w3, s5) := if w2.u then (let q := s4.predict o e w2 n; (q.2.1, q.2.2)) else (w2, s4)
          put s5 w3

/-- SWEEP_WORD: the next word of a pass under way. -/
def execSweepWord (cluster : Nat) (s : State) : Out :=
  let rs := Table.getD s.regions cluster []
  event s (match rs.find? (fun r => r.next.isSome) with
    | none => none
    | some r =>
      let a := r.next.getD 0
      let next := if a + 16 < r.top then some (a + 16) else none
      let s1 : State := { s with regions := Table.set s.regions cluster (rs.map (fun q => if q = r then { q with next := next } else q)) }
      some (s1.sweepAt r a))

end Sys2Proof.Machine
end

