-- ==== Sys2Proof/Machine/Lifecycle.lean ====
section
/-!
DEFINITION. The end of a strand and of its waits: EXIT and retirement (R31, R194), kills (R26, R280, R291), and WAKE (R33).
-/
namespace Sys2Proof.Machine

namespace State

/-- Whether a slot holds a strand of a launch. -/
def occupies (s : State) (slot : Nat) (k : LaunchId) : Bool :=
  let m := s.strand slot
  m.status != .free && decide (m.launch = k)

/-- A crew whose strands have all exited gives its cluster up (R321). -/
def crewGone (s : State) (k : LaunchId) (cluster : Nat) : State :=
  if s.allStrands.any (fun e => clusterOfSlot e.1 == cluster && e.2.status != .free && decide (e.2.launch = k)) then s
  else s.modLaunch k (fun l => { l with crews := l.crews.map (fun c =>
    if c.cluster = cluster ∧ c.out = false ∧ c.saved.isEmpty = true then { c with gone := true, halting := none, resuming := false } else c) })

/-- A strand leaves its slot (R31, R26): its group ends, its tiles and shadow are freed, the handles it answers for break, its
commands go on without it, its reductions leave the combining buffer (R127), and its pending partial reports go to the fault queue (R249). -/
def vacate (s : State) (slot : Nat) (reason : Nat) (cause : BitVec 8) : State :=
  let m := s.strand slot
  let o : Owner := ⟨slot, m.born⟩
  let s1 := (s.asSlot slot (fun t => t.endGroup 0)).freeTiles o 15
  let s2 := s1.breakHandlesOf o reason cause
  let s3 := m.lates.foldl (fun (s : State) r =>
    if r.cause = 0x0E then s.lateRecord m.launch.part (s.ctxOf slot) (s.strandSrc slot) r.cause r.tval r.extra else s) s2
  let seq (g : Gather) : Gather := if g.owner = o then { g with seq := m.scato } else g
  let s3 := ({ s3 with reds := s3.reds ++ (s3.core (coreOfSlot slot)).combine.filter (·.owner == o) } : State).modCore (coreOfSlot slot)
    (fun k => { k with combine := k.combine.filter (fun r => r.owner != o) })
  let s4 := s3.modCore (coreOfSlot slot) (fun k => { k with
    gathers := k.gathers.map seq
    queue := k.queue.map (fun c => match c with
      | .gather g => .gather (seq g)
      | c => c) })
  (s4.setStrand slot Strand.fresh).crewGone m.launch (clusterOfSlot slot)

/-- A parked strand is killed (R26, R280): only its stage when a folded chain has others left and not all are to go. `all` is for a
folded chain alone: of a spread one, only the stage of the slot goes (R308). -/
def killStrand (s : State) (slot : Nat) (all : Bool) : State :=
  let m := s.strand slot
  let folded := m.chain.any (fun r => (s.findChain r.cluster r.id).any (·.folded))
  if all && folded then (s.killChainAt slot).vacate slot 2 0
  else
    let (s1, gone) := s.endStageAt slot true m.parkCause
    if gone then s1.vacate slot 2 0 else s1

/-- A killed strand of a launch that ends by force: the pipes of its stages break, with the causes that parked them (R280). -/
def killRunning (s : State) (slot : Nat) (reason : Nat) : State := (s.killChainAt slot).vacate slot reason 0

end State

/-- EXIT of n bytes (R31, R194): the strand retires once L and T are zero; a stage of a folded chain ends then, and the strand
goes on with the others (R280). -/
def exitInsn (n : Nat) (s : State) : Out :=
  let folded := match s.myChain with
    | some (_, c) => c.folded && decide (1 < c.live.length)
    | none => false
  if folded then
    if s.me.ctr.l = 0 ∧ s.me.ctr.t = 0 then .next { ((s.release 2).endGroup n).endStageAt s.cur false 0 |>.1 with retired := true }
    else finish s stall
  else .next { (s.endGroup n).modMe (fun m => { m with exiting := true, wait := none }) with retired := true }

def execExit (s : State) : Out := exitInsn 4 s

/-- STRAND_RETIRE: an exited strand with L and T zero frees its slot (R31). The pipes of a stage close as CHEND closes them, with a
release (R280). -/
def execStrandRetire (slot : Nat) (s : State) : Out :=
  let m := s.strand slot
  event s (if m.status = .ready ∧ m.exiting = true ∧ m.ctr.l = 0 ∧ m.ctr.t = 0 then
      let s1 := if m.chain.isSome then s.asSlot slot (fun t => t.release 2) else s
      some ((s1.endStageAt slot false 0).1.vacate slot 3 0)
    else none)

/-! ## WAKE (R33) -/

/-- Whether what a waiting strand waits for holds (R33). An RJOIN that begins while its leader is already WAITING is over at once, as a missed join
(log entry 131). -/
def State.waitHolds (s : State) (slot : Nat) (w : WaitRec) : Bool :=
  let m := s.strand slot
  let core := coreOfSlot slot
  match w.on with
  | .counters t c st l =>
    let ok (limit n : Nat) : Bool := limit == 31 || decide (n ≤ limit)
    ok t m.ctr.t && ok c m.ctr.c && ok st m.ctr.s && ok l m.ctr.l
  | .transfer ch id => (s.channel core ch).isDone id
  | .word (.host _) _ _ _ _ _ => w.hit || s.watchHolds w.on
  | .word _ _ _ _ _ _ => w.hit
  | .barrier _ _ => w.hit
  | .events => !(s.crew (s.crewOf slot)).events.isEmpty
  | .sleep until' => decide (until' ≤ s.nowNat)
  | .join gid true => w.hit ||
    (match m.follow with
     | some f =>
       let l := s.strand f.leader
       !(l.status == .ready && l.follow.any (fun g => g.hop == 0 && g.gid == gid))
     | none => true)
  | .join gid false => ((s.focus slot).leaderOf gid).isSome
  | .pipe cl id p get =>
    (match s.findChain cl id with
     | some c => if c.folded then c.live.any (fun j => (j != c.running && c.canProceed j)) || c.ready p get else c.ready p get
     | none => true)
  | .chainForm _ _ _ => w.hit || w.expired
  | .chainEnd cl id =>
    (match s.findChain cl id with
     | some c => c.ended
     | none => true)
  | .handle id => (match s.handleIn m.launch.part id with
     | .here _ _ h => !h.unresolved
     | _ => true)
  | .inval => w.hit
  | .invalAll => m.ctr.inval == 0
  | .migrate => w.hit || w.expired
  | .preempt k halt =>
    (match s.launch? k with
     | some l => !l.crews.any (fun c => if halt then c.halting.isSome else c.resuming)
     | none => true)
  | .clock order none => s.clockTurn slot order
  | .clock _ (some t) => s.clockDone (s.crewOf slot) t
  | .tile n => (match (s.tile core n).owner with
     | none => true
     | some o => decide (o = ⟨slot, m.born⟩))
  | .shadow => (s.core core).shadow.owner.isNone

/-- WAKE: the strand is READY and looks at its condition again when it issues. -/
def execWake (slot : Nat) (s : State) : Out :=
  let m := s.strand slot
  event s (match m.status, m.wait with
    | .waiting, some w => if s.waitHolds slot w then some (s.setStrand slot (m.wakeUp (fun w => { w with hit := true }))) else none
    | _, _ => none)

end Sys2Proof.Machine
end

