-- ==== Sys2Proof/Machine/System.lean ====
section
/-!
DEFINITION. Majors 0x70 to 0x73 and the page and telemetry rows of 0x75: extension and control registers (R303 to R306), TRAP,
ERET, SRET and ECALL (R308), PINS, UNPN and TELW (R311).
-/
namespace Sys2Proof.Machine

/-! ## EXT (R303) -/

def execExt (k : PIdx) (w : Bool) (i : BitVec 16) (s : State) : Out :=
  fallThrough 4 s (.ok (
    if w then s.setE k (i ++ (s.e k).extractLsb' 0 16) (s.eT k) else s.setE k (i.setWidth 32) false))

/-! ## Control registers (R304 to R306) -/

/-- A privileged instruction needs SYS in PCC (R162). -/
def State.needSys (s : State) : Res Unit := if s.sysMode then .ok () else capTrap s.me.pcc 0x03 s.pc

/-- Bits of a written value that a register's RW fields take. -/
def csrMask (i : Nat) : Dword :=
  if i = 0x10 ∨ i = 0x11 then 0x00FFFF0000000003
  else if i = 0x12 then 0x00FFFF0000000003
  else if i = 0x65 then 0x87FFFFFFFFFFFFFF
  else BitVec.allOnes 64

/-- An address register of bits 47:lo, its sign repeated above (R91, R223). -/
def csrAddr (lo : Nat) (v : Dword) : Dword := (((v.extractLsb' 0 48) >>> lo) <<< lo).signExtend 64

namespace State

/-- SID (R19). -/
def sid (s : State) : Dword := BitVec.ofNat 64 (s.devId * 2 ^ 24 + s.cur * 2 ^ 11)

/-- CNTS (R306). -/
def cnts (s : State) : Dword :=
  let c := s.me.ctr
  BitVec.ofNat 64 (c.l + 2 ^ 8 * c.s + 2 ^ 16 * c.c + 2 ^ 24 * c.t + 2 ^ 32 * c.mj)

/-- FORM (R279). -/
def form (s : State) : Dword := match s.myChain with
  | some (_, c) => BitVec.ofNat 64 (2 + c.folded.toNat)
  | none => 0

/-- How many bits of a set of layers are one. -/
def layerCount (l : BitVec 144) : Nat := ((List.range 144).filter l.getLsbD).length

/-- The partition's present layers. -/
def presentLayers (s : State) (part : Nat) : BitVec 144 := (s.part part).layers &&& s.sys.layers

/-- The value of a control register below 0x4000; `none` at an address the list lacks. -/
def csrLow (s : State) (i : Nat) : Option Dword :=
  let c := s.me.csr
  let k := s.core s.myCore
  let crew := s.crew s.myCrew
  if 0x50 ≤ i ∧ i ≤ 0x57 then
    let ch := k.channels.toList.getD (i - 0x50) Channel.fresh
    some (ch.next ++ ch.done)
  else match i with
  | 0x00 => some s.time
  | 0x01 => some s.sid
  | 0x02 => some (BitVec.ofNat 64 s.me.stage)
  | 0x03 => some s.form
  | 0x04 => some s.cnts
  | 0x05 => some (BitVec.ofNat 64 (s.strandSrc s.cur))
  | 0x10 => some c.fmta
  | 0x11 => some c.fmtb
  | 0x12 => some c.fmte
  | 0x13 => some c.scla
  | 0x14 => some c.sclb
  | 0x15 => some (c.sclm.setWidth 64)
  | 0x16 => some (k.chkn.setWidth 64)
  | 0x66 => some (k.chkt.setWidth 64)
  | 0x20 => some (c.frm.setWidth 64)
  | 0x21 => some (c.fflg.setWidth 64)
  | 0x30 => some (crew.lclk.setWidth 64)
  | 0x31 => some crew.lawb
  | 0x32 => some (crew.stick.setWidth 64)
  | 0x40 => some (BitVec.ofBool c.taintSticky ++ 0#31 ++ c.taintCount)
  | 0x41 => some (BitVec.ofNat 64 (s.dmode s.me.launch).toNat)
  | 0x60 => some (c.trapv.setWidth 64)
  | 0x61 => some (c.tcause.setWidth 64)
  | 0x62 => some c.tval
  | 0x63 => some c.tepc
  | 0x64 => some (BitVec.ofNat 64 (16 * c.stg.toNat + c.inh.toNat))
  | 0x65 => some c.repi
  | _ => none

/-- The value of a control register at 0x4000 or above, but for KEYROOT. -/
def csrHigh (s : State) (i : Nat) : Option Dword := match i with
  | 0 => some (s.me.csr.asid.setWidth 64)
  | 1 => some ((s.me.csr.ptbr ++ 0#12 : BitVec 48).setWidth 64)
  | 2 => some (BitVec.ofNat 64 s.myPart)
  | 3 => some ((s.part s.myPart).reg 0x088 &&& 0x0000FFFFFFFFF00F)
  | 4 => some (BitVec.ofNat 64 (2 ^ 32 * layerCount (s.presentLayers s.myPart)))
  | _ => none

/-- The CSRR of these is a taint source (R150). -/
def csrTaints (s : State) (i : Nat) : Bool := i == 0 || ((i == 1 || i == 3) && s.me.chain.isSome)

/-- A write of a control register's RW fields; `none` at a read-only register or one the list lacks. -/
def csrWrite (s : State) (i : Nat) (v : Dword) : Option State :=
  let low (f : Csr → Csr) : Option State := some (s.modCsr f)
  match i with
  | 0x10 => low (fun c => { c with fmta := v &&& csrMask i })
  | 0x11 => low (fun c => { c with fmtb := v &&& csrMask i })
  | 0x12 => low (fun c => { c with fmte := v &&& csrMask i })
  | 0x13 => low (fun c => { c with scla := csrAddr 2 v })
  | 0x14 => low (fun c => { c with sclb := csrAddr 2 v })
  | 0x15 => low (fun c => { c with sclm := v.extractLsb' 0 2 })
  | 0x16 => some (s.writeChkn s.myCore v)
  | 0x66 => some (s.modCore s.myCore (fun k => { k with chkt := v.extractLsb' 0 32 }))
  | 0x20 => low (fun c => { c with frm := v.extractLsb' 0 2 })
  | 0x21 => low (fun c => { c with fflg := v.extractLsb' 0 5 })
  | 0x31 => some (s.modCrew s.myCrew (fun c => { c with lawb := csrAddr 6 v }))
  | 0x32 => some (s.writeStick s.myCrew v)
  | 0x40 => low (fun c => { c with taintSticky := v.getLsbD 63, taintCount := v.extractLsb' 0 32 })
  | 0x60 => low (fun c => { c with trapv := v.extractLsb' 0 49 })
  | 0x61 => low (fun c => { c with tcause := v.extractLsb' 0 8 })
  | 0x62 => low (fun c => { c with tval := v })
  | 0x63 => low (fun c => { c with tepc := v })
  | 0x64 => low (fun c => { c with stg := v.extractLsb' 4 4, inh := v.getLsbD 0 })
  | 0x65 => low (fun c => { c with repi := v &&& csrMask i })
  | 0x4000 => low (fun c => { c with asid := v.extractLsb' 0 16 })
  | 0x4001 => low (fun c => { c with ptbr := v.extractLsb' 12 36 })
  | _ => none

end State

/-- KEYROOT: the tagged seal key over types 1 to 255 (R178). -/
def keyRoot : GReg := ⟨(0x3F000100FF0000E0#64) ++ (1#64), true, false⟩

def execCsrr (d : GIdx) (i : BitVec 15) (s : State) : Out :=
  fallThrough 4 s (
    if 0x4000 ≤ i.toNat then
      if i.toNat = 0x4005 then s.needSys.map (fun _ => s.setG d keyRoot)
      else match s.csrHigh (i.toNat - 0x4000) with
        | none => s.illegal
        | some v => s.needSys.map (fun _ => s.setX d v false)
    else match s.csrLow i.toNat with
      | none => s.illegal
      | some v => .ok ((s.setX d v (s.csrTaints i.toNat)).taintEventIf (s.csrTaints i.toNat)))

def execCsrw (d : GIdx) (i : BitVec 15) (s : State) : Out :=
  fallThrough 4 s (match s.csrWrite i.toNat (s.x d) with
    | none => s.illegal
    | some t => if 0x4000 ≤ i.toNat then s.needSys.map (fun _ => t.taintEventIf (s.g d).taint) else .ok (t.taintEventIf (s.g d).taint))

/-! ## Traps (R308) -/

/-- TRAP #c: the cause is one that TRAP may name, which decoding has checked. -/
def execTrap (c : GIdx) (s : State) : Out := finish s (trap (c.setWidth 8) s.pc)

def execEret (s : State) : Out :=
  match s.returnTrap with
  | .ok t => .next { t.modMe (fun m => { m with wait := none }) with retired := true }
  | .error e => finish s (.error e)

/-- ECALL: the strand parks with record cause 0x00 and g8 as EXTRA, and goes on after it once resumed. From code with SYS the
record goes to the system fault queue (R388). -/
def execEcall (s : State) : Out :=
  let x := (s.x 8).setWidth 128
  let r := s.recordOf 0 0 s.pc x true
  let s1 := s.leaveStream.endJoins
  let s2 := if s.sysMode then s1.postSysFault s.myPart r else s1.postFault s.myPart r
  let s3 := (s2.breakHandlesOf s.me? 1 0).setPc (s.pc + 4)
  .next { s3.modMe (fun m => { m with status := .parked, wait := none, resumed := false, parkCause := 0, sysPark := s.sysMode }) with retired := true }

/-- A parked strand goes on: it executes its trapping instruction again, the one after ECALL (R308). -/
def State.resumeParked (s : State) (slot : Nat) : State :=
  s.modStrand slot (fun m => { m with status := .ready, wait := none, resumed := true, sysPark := false })

/-- Whether the record of a PARKED strand still waits to be placed, so that the strand stays PARKED (R337). -/
def State.recordWaits (s : State) (slot : Nat) : Bool :=
  let mine (r : FaultRec) : Bool := r.parked && r.src == s.strandSrc slot
  (s.part (s.strand slot).launch.part).faults.any (fun x => mine x.1) || s.sys.faults.any (fun x => mine x.1)

/-- SRET: resumes or kills a PARKED strand of this partition; it stalls until the strand's record has been placed (log entry 121). -/
def execSret (d a : GIdx) (s : State) : Out :=
  fallThrough 4 s (do
    s.needSys
    let v := s.x a
    let t := (s.g a).taint
    let slot := (v.extractLsb' 0 13).toNat
    let m := s.strand slot
    if m.status ≠ .parked ∨ m.launch.part ≠ s.myPart then return s.setP7 true t
    else
      if s.recordWaits slot then stall
      let s1 := if v.getLsbD 63 then s.killStrand slot (v.getLsbD 62) else s.resumeParked slot
      return (s1.setX d 0 t).setP7 false t)

/-! ## Pages and telemetry (R311) -/

/-- PINS: the page is made resident and pinned. -/
def execPins (a : GIdx) (s : State) : Out :=
  fallThrough 4 s (do
    s.needSys
    let t := (s.g a).taint
    if !inScratchRange (s.x a).toNat then return s.setP7 true t
    match s.translate s.ctx .load false (s.x a) with
    | .error .stall => return s.setP7 true t
    | .error e => .error e
    | .ok (⟨.scratch core page frame _, _, _⟩, s1) =>
      return (s1.modPage core page frame (fun p => { p with explicit := true })).setP7 false t
    | .ok (_, s1) => return s1.setP7 true t)

/-- UNPN: the page of the address is unpinned wherever it stands; a core outside the partition gives p7 all ones. -/
def execUnpn (a : GIdx) (s : State) : Out :=
  fallThrough 4 s (do
    s.needSys
    let n := (s.x a).toNat - 0x7F0000000000
    if !inScratchRange (s.x a).toNat then return s
    else if !(s.part s.myPart).hasCluster (clusterOfCore (n / 0x100000)) then return s.setP7 true (s.g a).taint
    else
      return s.modCore (n / 0x100000) (fun k => { k with pages := k.pages.map (fun p =>
        if p.page = n % 0x100000 / 4096 ∧ p.asid = s.me.csr.asid then { p with pinned := false, explicit := false } else p) }))

/-- TELW: 32 bytes as a software record, if the ring has room now (R418). -/
def execTelw (a : GIdx) (s : State) : Out :=
  fallThrough 4 s (do
    s.needSys
    let c := s.cap a
    let va ← capCheckAt c [0] { r := true } c.addr.toNat 32 1
    match s.readThrough va 32 with
    | .error (.trap cause _ x) => trapX cause va x
    | .error e => .error e
    | .ok (bs, tn, s1) =>
      let t := (s.g a).taint || tn
      if s1.telFull s.myPart then return s1.setP7 true t
      else
        return (s1.modPart s.myPart (fun p => { p with
          tel := p.tel ++ [⟨BitVec.ofNat 256 (ofBytes bs), tn, 2, s.nowNat, s.strandSrc s.cur⟩] })).setP7 false t)

end Sys2Proof.Machine
end

