-- ==== Sys2Proof/Machine/Discipline.lean ====
section
/-!
DEFINITION. Register discipline (R272): which registers an instruction names, and whether a stage may name them.
-/
namespace Sys2Proof.Machine

/-- The registers an instruction names: g registers, those of them it writes, v registers and accumulators. -/
structure Named where
  g : List Nat
  written : List Nat
  v : List Nat
  acc : List Nat
deriving DecidableEq, Repr

/-- The registers of every field, g1 where an instruction uses it without a field, and g1 for JALR, as R272 counts it. -/
def namedBy : Instr → Named
  | .add d a b => ⟨[d.toNat, a.toNat, b.toNat], [d.toNat], [], []⟩
  | .sub d a b => ⟨[d.toNat, a.toNat, b.toNat], [d.toNat], [], []⟩
  | .mul d a b => ⟨[d.toNat, a.toNat, b.toNat], [d.toNat], [], []⟩
  | .mulh d a b => ⟨[d.toNat, a.toNat, b.toNat], [d.toNat], [], []⟩
  | .mulhz d a b => ⟨[d.toNat, a.toNat, b.toNat], [d.toNat], [], []⟩
  | .addw d a b => ⟨[d.toNat, a.toNat, b.toNat], [d.toNat], [], []⟩
  | .subw d a b => ⟨[d.toNat, a.toNat, b.toNat], [d.toNat], [], []⟩
  | .neg d a => ⟨[d.toNat, a.toNat], [d.toNat], [], []⟩
  | .div d a b => ⟨[d.toNat, a.toNat, b.toNat], [d.toNat], [], []⟩
  | .divz d a b => ⟨[d.toNat, a.toNat, b.toNat], [d.toNat], [], []⟩
  | .rem d a b => ⟨[d.toNat, a.toNat, b.toNat], [d.toNat], [], []⟩
  | .remz d a b => ⟨[d.toNat, a.toNat, b.toNat], [d.toNat], [], []⟩
  | .min d a b => ⟨[d.toNat, a.toNat, b.toNat], [d.toNat], [], []⟩
  | .max d a b => ⟨[d.toNat, a.toNat, b.toNat], [d.toNat], [], []⟩
  | .minz d a b => ⟨[d.toNat, a.toNat, b.toNat], [d.toNat], [], []⟩
  | .maxz d a b => ⟨[d.toNat, a.toNat, b.toNat], [d.toNat], [], []⟩
  | .and d a b => ⟨[d.toNat, a.toNat, b.toNat], [d.toNat], [], []⟩
  | .or d a b => ⟨[d.toNat, a.toNat, b.toNat], [d.toNat], [], []⟩
  | .xor d a b => ⟨[d.toNat, a.toNat, b.toNat], [d.toNat], [], []⟩
  | .andn d a b => ⟨[d.toNat, a.toNat, b.toNat], [d.toNat], [], []⟩
  | .orn d a b => ⟨[d.toNat, a.toNat, b.toNat], [d.toNat], [], []⟩
  | .shl d a b => ⟨[d.toNat, a.toNat, b.toNat], [d.toNat], [], []⟩
  | .shr d a b => ⟨[d.toNat, a.toNat, b.toNat], [d.toNat], [], []⟩
  | .sar d a b => ⟨[d.toNat, a.toNat, b.toNat], [d.toNat], [], []⟩
  | .rol d a b => ⟨[d.toNat, a.toNat, b.toNat], [d.toNat], [], []⟩
  | .clz d a => ⟨[d.toNat, a.toNat], [d.toNat], [], []⟩
  | .ctz d a => ⟨[d.toNat, a.toNat], [d.toNat], [], []⟩
  | .popc d a => ⟨[d.toNat, a.toNat], [d.toNat], [], []⟩
  | .brev d a => ⟨[d.toNat, a.toNat], [d.toNat], [], []⟩
  | .bswap d a => ⟨[d.toNat, a.toNat], [d.toNat], [], []⟩
  | .sext d a _ => ⟨[d.toNat, a.toNat], [d.toNat], [], []⟩
  | .zext d a _ => ⟨[d.toNat, a.toNat], [d.toNat], [], []⟩
  | .addi d a _ => ⟨[d.toNat, a.toNat], [d.toNat], [], []⟩
  | .andi d a _ => ⟨[d.toNat, a.toNat], [d.toNat], [], []⟩
  | .ori d a _ => ⟨[d.toNat, a.toNat], [d.toNat], [], []⟩
  | .xori d a _ => ⟨[d.toNat, a.toNat], [d.toNat], [], []⟩
  | .shli d a _ => ⟨[d.toNat, a.toNat], [d.toNat], [], []⟩
  | .shri d a _ => ⟨[d.toNat, a.toNat], [d.toNat], [], []⟩
  | .sari d a _ => ⟨[d.toNat, a.toNat], [d.toNat], [], []⟩
  | .roli d a _ => ⟨[d.toNat, a.toNat], [d.toNat], [], []⟩
  | .cmpi _ _ a _ => ⟨[a.toNat], [], [], []⟩
  | .cmp _ _ a b => ⟨[a.toNat, b.toNat], [], [], []⟩
  | .cmpW _ _ a b => ⟨[a.toNat, b.toNat], [], [], []⟩
  | .sel d a b _ => ⟨[d.toNat, a.toNat, b.toNat], [d.toNat], [], []⟩
  | .li d _ => ⟨[d.toNat], [d.toNat], [], []⟩
  | .lie d _ => ⟨[d.toNat], [d.toNat], [], []⟩
  | .bfx d a b => ⟨[d.toNat, a.toNat, b.toNat], [d.toNat], [], []⟩
  | .bfxz d a b => ⟨[d.toNat, a.toNat, b.toNat], [d.toNat], [], []⟩
  | .bfi d a b => ⟨[d.toNat, a.toNat, b.toNat], [d.toNat], [], []⟩
  | .pmovg d _ => ⟨[d.toNat], [d.toNat], [], []⟩
  | .pfromg _ a => ⟨[a.toNat], [], [], []⟩
  | .pcnt d _ => ⟨[d.toNat], [d.toNat], [], []⟩
  | .cadd d a b => ⟨[d.toNat, a.toNat, b.toNat], [d.toNat], [], []⟩
  | .csetb d a b => ⟨[d.toNat, a.toNat, b.toNat], [d.toNat], [], []⟩
  | .candp d a b => ⟨[d.toNat, a.toNat, b.toNat], [d.toNat], [], []⟩
  | .cget d a _ => ⟨[d.toNat, a.toNat], [d.toNat], [], []⟩
  | .cseal d a b => ⟨[d.toNat, a.toNat, b.toNat], [d.toNat], [], []⟩
  | .cunseal d a b => ⟨[d.toNat, a.toNat, b.toNat], [d.toNat], [], []⟩
  | .ctag d a b => ⟨[d.toNat, a.toNat, b.toNat], [d.toNat], [], []⟩
  | .cclr d a => ⟨[d.toNat, a.toNat], [d.toNat], [], []⟩
  | .caddi d a _ => ⟨[d.toNat, a.toNat], [d.toNat], [], []⟩
  | .mov d a => ⟨[d.toNat, a.toNat], [d.toNat], [], []⟩
  | .move _ a => ⟨[a.toNat], [], [], []⟩
  | .movg d _ => ⟨[d.toNat], [d.toNat], [], []⟩
  | .vins d a b => ⟨[a.toNat, b.toNat], [], [d.toNat], []⟩
  | .vext d a b => ⟨[d.toNat, b.toNat], [d.toNat], [a.toNat], []⟩
  | .vbcg d a => ⟨[a.toNat], [], [d.toNat], []⟩
  | .dadd d a b => ⟨[d.toNat, a.toNat, b.toNat], [d.toNat], [], []⟩
  | .dsub d a b => ⟨[d.toNat, a.toNat, b.toNat], [d.toNat], [], []⟩
  | .dmul d a b => ⟨[d.toNat, a.toNat, b.toNat], [d.toNat], [], []⟩
  | .ddiv d a b => ⟨[d.toNat, a.toNat, b.toNat], [d.toNat], [], []⟩
  | .dmin d a b => ⟨[d.toNat, a.toNat, b.toNat], [d.toNat], [], []⟩
  | .dmax d a b => ⟨[d.toNat, a.toNat, b.toNat], [d.toNat], [], []⟩
  | .dsqrt d a => ⟨[d.toNat, a.toNat], [d.toNat], [], []⟩
  | .dfma d a b => ⟨[d.toNat, a.toNat, b.toNat], [d.toNat], [], []⟩
  | .fadd d a b => ⟨[d.toNat, a.toNat, b.toNat], [d.toNat], [], []⟩
  | .fsub d a b => ⟨[d.toNat, a.toNat, b.toNat], [d.toNat], [], []⟩
  | .fmul d a b => ⟨[d.toNat, a.toNat, b.toNat], [d.toNat], [], []⟩
  | .fdiv d a b => ⟨[d.toNat, a.toNat, b.toNat], [d.toNat], [], []⟩
  | .fmin d a b => ⟨[d.toNat, a.toNat, b.toNat], [d.toNat], [], []⟩
  | .fmax d a b => ⟨[d.toNat, a.toNat, b.toNat], [d.toNat], [], []⟩
  | .fsqrt d a => ⟨[d.toNat, a.toNat], [d.toNat], [], []⟩
  | .ffma d a b => ⟨[d.toNat, a.toNat, b.toNat], [d.toNat], [], []⟩
  | .d2i d a => ⟨[d.toNat, a.toNat], [d.toNat], [], []⟩
  | .i2d d a => ⟨[d.toNat, a.toNat], [d.toNat], [], []⟩
  | .f2d d a => ⟨[d.toNat, a.toNat], [d.toNat], [], []⟩
  | .d2f d a => ⟨[d.toNat, a.toNat], [d.toNat], [], []⟩
  | .f2i d a => ⟨[d.toNat, a.toNat], [d.toNat], [], []⟩
  | .i2f d a => ⟨[d.toNat, a.toNat], [d.toNat], [], []⟩
  | .d2z d a => ⟨[d.toNat, a.toNat], [d.toNat], [], []⟩
  | .z2d d a => ⟨[d.toNat, a.toNat], [d.toNat], [], []⟩
  | .fcmpD _ _ a b => ⟨[a.toNat, b.toNat], [], [], []⟩
  | .fcmpS _ _ a b => ⟨[a.toNat, b.toNat], [], [], []⟩
  | .call _ => ⟨[1], [1], [], []⟩
  | .jr a => ⟨[a.toNat], [], [], []⟩
  | .jalr d a => ⟨[d.toNat, a.toNat, 1], [d.toNat, 1], [], []⟩
  | .ret  => ⟨[1], [], [], []⟩
  | .loop d _ => ⟨[d.toNat], [d.toNat], [], []⟩
  | .rep a _ _ => ⟨[a.toNat], [], [], []⟩
  | .follow a _ => ⟨[a.toNat], [], [], []⟩
  | .spawn a b => ⟨[a.toNat, b.toNat], [], [], []⟩
  | .spawnc a b => ⟨[a.toNat, b.toNat], [], [], []⟩
  | .enqg a => ⟨[a.toNat], [], [], []⟩
  | .enql a b => ⟨[a.toNat, b.toNat], [], [], []⟩
  | .jdec d a => ⟨[d.toNat, a.toNat], [d.toNat], [], []⟩
  | .ld d a _ _ _ => ⟨[d.toNat, a.toNat], [d.toNat], [], []⟩
  | .st d a _ _ => ⟨[d.toNat, a.toNat], [], [], []⟩
  | .ldq d a b => ⟨[d.toNat, a.toNat, b.toNat], [d.toNat], [], []⟩
  | .stq d a b => ⟨[d.toNat, a.toNat, b.toNat], [], [], []⟩
  | .ldc d a b => ⟨[d.toNat, a.toNat, b.toNat], [d.toNat], [], []⟩
  | .stc d a b => ⟨[d.toNat, a.toNat, b.toNat], [], [], []⟩
  | .ldx d a b => ⟨[d.toNat, a.toNat, b.toNat], [d.toNat], [], []⟩
  | .stx d a b => ⟨[d.toNat, a.toNat, b.toNat], [], [], []⟩
  | .pref _ a b => ⟨[a.toNat, b.toNat], [], [], []⟩
  | .lda d a _ _ => ⟨[d.toNat, a.toNat], [d.toNat], [], []⟩
  | .stl d a _ _ => ⟨[d.toNat, a.toNat], [], [], []⟩
  | .amoadd d a b _ => ⟨[d.toNat, a.toNat, b.toNat], [d.toNat], [], []⟩
  | .amoand d a b _ => ⟨[d.toNat, a.toNat, b.toNat], [d.toNat], [], []⟩
  | .amoor d a b _ => ⟨[d.toNat, a.toNat, b.toNat], [d.toNat], [], []⟩
  | .amoxor d a b _ => ⟨[d.toNat, a.toNat, b.toNat], [d.toNat], [], []⟩
  | .amomin d a b _ => ⟨[d.toNat, a.toNat, b.toNat], [d.toNat], [], []⟩
  | .amomax d a b _ => ⟨[d.toNat, a.toNat, b.toNat], [d.toNat], [], []⟩
  | .amoswap d a b _ => ⟨[d.toNat, a.toNat, b.toNat], [d.toNat], [], []⟩
  | .amocas d a b _ => ⟨[d.toNat, a.toNat, b.toNat], [d.toNat], [], []⟩
  | .amofadd d a b _ => ⟨[d.toNat, a.toNat, b.toNat], [d.toNat], [], []⟩
  | .red _ a b _ => ⟨[a.toNat, b.toNat], [], [], []⟩
  | .fenceClean a _ => ⟨[a.toNat], [], [], []⟩
  | .fenceInv a _ => ⟨[a.toNat], [], [], []⟩
  | .fenceCleaninv a _ => ⟨[a.toNat], [], [], []⟩
  | .waita _ _ a b _ => ⟨[a.toNat, b.toNat], [], [], []⟩
  | .binit a b => ⟨[a.toNat, b.toNat], [], [], []⟩
  | .barr d a => ⟨[d.toNat, a.toNat], [d.toNat], [], []⟩
  | .barb d a b => ⟨[d.toNat, a.toNat, b.toNat], [d.toNat], [], []⟩
  | .bwait a b => ⟨[a.toNat, b.toNat], [], [], []⟩
  | .barw d a => ⟨[d.toNat, a.toNat], [d.toNat], [], []⟩
  | .bdrop a => ⟨[a.toNat], [], [], []⟩
  | .cpdn d a _ => ⟨[d.toNat, a.toNat], [d.toNat], [], []⟩
  | .waitid a _ => ⟨[a.toNat], [], [], []⟩
  | .cperr d _ => ⟨[d.toNat], [d.toNat], [], []⟩
  | .copy d a b => ⟨[d.toNat, a.toNat, b.toNat], [d.toNat], [], []⟩
  | .copy2 d a b => ⟨[d.toNat, a.toNat, b.toNat], [d.toNat], [], []⟩
  | .copyp d a b => ⟨[d.toNat, a.toNat, b.toNat], [d.toNat], [], []⟩
  | .copyz d a b => ⟨[d.toNat, a.toNat, b.toNat], [d.toNat], [], []⟩
  | .copyf d a b => ⟨[d.toNat, a.toNat, b.toNat], [d.toNat], [], []⟩
  | .copyt d a b => ⟨[d.toNat, a.toNat, b.toNat], [d.toNat], [], []⟩
  | .copyb d a b => ⟨[d.toNat, a.toNat, b.toNat], [d.toNat], [], []⟩
  | .stmr d a => ⟨[a.toNat], [], [d.toNat], []⟩
  | .stmw d a => ⟨[a.toNat], [], [d.toNat], []⟩
  | .stmx d a => ⟨[d.toNat], [d.toNat], [a.toNat], []⟩
  | .stmd a => ⟨[], [], [a.toNat], []⟩
  | .gath d a b => ⟨[d.toNat, a.toNat, b.toNat], [], [], []⟩
  | .gaths d a b => ⟨[d.toNat, a.toNat, b.toNat], [], [], []⟩
  | .scat d a b => ⟨[d.toNat, a.toNat, b.toNat], [], [], []⟩
  | .scata d a b => ⟨[d.toNat, a.toNat, b.toNat], [], [], []⟩
  | .scato d a b => ⟨[d.toNat, a.toNat, b.toNat], [], [], []⟩
  | .logm a => ⟨[a.toNat], [], [], []⟩
  | .grest d a b => ⟨[d.toNat, a.toNat, b.toNat], [d.toNat], [], []⟩
  | .vfadd d a b _ => ⟨[], [], [d.toNat, a.toNat, b.toNat], []⟩
  | .vfsub d a b _ => ⟨[], [], [d.toNat, a.toNat, b.toNat], []⟩
  | .vfmul d a b _ => ⟨[], [], [d.toNat, a.toNat, b.toNat], []⟩
  | .vfdiv d a b _ => ⟨[], [], [d.toNat, a.toNat, b.toNat], []⟩
  | .vfmin d a b _ => ⟨[], [], [d.toNat, a.toNat, b.toNat], []⟩
  | .vfmax d a b _ => ⟨[], [], [d.toNat, a.toNat, b.toNat], []⟩
  | .vfabs d a _ => ⟨[], [], [d.toNat, a.toNat], []⟩
  | .vfneg d a _ => ⟨[], [], [d.toNat, a.toNat], []⟩
  | .vfma d a b _ => ⟨[], [], [d.toNat, a.toNat, b.toNat], []⟩
  | .vfms d a b _ => ⟨[], [], [d.toNat, a.toNat, b.toNat], []⟩
  | .vfnma d a b _ => ⟨[], [], [d.toNat, a.toNat, b.toNat], []⟩
  | .vfsqrt d a _ => ⟨[], [], [d.toNat, a.toNat], []⟩
  | .vfrsq d a _ => ⟨[], [], [d.toNat, a.toNat], []⟩
  | .vfrcp d a _ => ⟨[], [], [d.toNat, a.toNat], []⟩
  | .vfex2 d a _ => ⟨[], [], [d.toNat, a.toNat], []⟩
  | .vflg2 d a _ => ⟨[], [], [d.toNat, a.toNat], []⟩
  | .vbadd d a b _ => ⟨[], [], [d.toNat, a.toNat, b.toNat], []⟩
  | .vbmul d a b _ => ⟨[], [], [d.toNat, a.toNat, b.toNat], []⟩
  | .vbfma d a b _ => ⟨[], [], [d.toNat, a.toNat, b.toNat], []⟩
  | .vhadd d a b _ => ⟨[], [], [d.toNat, a.toNat, b.toNat], []⟩
  | .vhmul d a b _ => ⟨[], [], [d.toNat, a.toNat, b.toNat], []⟩
  | .vhfma d a b _ => ⟨[], [], [d.toNat, a.toNat, b.toNat], []⟩
  | .vadd d a b _ => ⟨[], [], [d.toNat, a.toNat, b.toNat], []⟩
  | .vsub d a b _ => ⟨[], [], [d.toNat, a.toNat, b.toNat], []⟩
  | .vmul d a b _ => ⟨[], [], [d.toNat, a.toNat, b.toNat], []⟩
  | .vmin d a b _ => ⟨[], [], [d.toNat, a.toNat, b.toNat], []⟩
  | .vmax d a b _ => ⟨[], [], [d.toNat, a.toNat, b.toNat], []⟩
  | .vminz d a b _ => ⟨[], [], [d.toNat, a.toNat, b.toNat], []⟩
  | .vmaxz d a b _ => ⟨[], [], [d.toNat, a.toNat, b.toNat], []⟩
  | .vabs d a _ => ⟨[], [], [d.toNat, a.toNat], []⟩
  | .vand d a b _ => ⟨[], [], [d.toNat, a.toNat, b.toNat], []⟩
  | .vor d a b _ => ⟨[], [], [d.toNat, a.toNat, b.toNat], []⟩
  | .vxor d a b _ => ⟨[], [], [d.toNat, a.toNat, b.toNat], []⟩
  | .vandn d a b _ => ⟨[], [], [d.toNat, a.toNat, b.toNat], []⟩
  | .vshl d a b _ => ⟨[], [], [d.toNat, a.toNat, b.toNat], []⟩
  | .vshr d a b _ => ⟨[], [], [d.toNat, a.toNat, b.toNat], []⟩
  | .vsar d a b _ => ⟨[], [], [d.toNat, a.toNat, b.toNat], []⟩
  | .vnot d a _ => ⟨[], [], [d.toNat, a.toNat], []⟩
  | .vfcmp _ a b _ _ => ⟨[], [], [a.toNat, b.toNat], []⟩
  | .vicmp _ a b _ _ => ⟨[], [], [a.toNat, b.toNat], []⟩
  | .vsel d a b _ => ⟨[], [], [d.toNat, a.toNat, b.toNat], []⟩
  | .vprm d a b _ => ⟨[], [], [d.toNat, a.toNat, b.toNat], []⟩
  | .vzip d a b _ => ⟨[], [], [d.toNat, a.toNat, b.toNat], []⟩
  | .vunz d a b _ => ⟨[], [], [d.toNat, a.toNat, b.toNat], []⟩
  | .vsld d a b _ => ⟨[], [], [d.toNat, a.toNat, b.toNat], []⟩
  | .vcmpr d a _ => ⟨[], [], [d.toNat, a.toNat], []⟩
  | .vexpd d a _ => ⟨[], [], [d.toNat, a.toNat], []⟩
  | .vmov d a _ => ⟨[], [], [d.toNat, a.toNat], []⟩
  | .vradd d a _ => ⟨[], [], [d.toNat, a.toNat], []⟩
  | .vrmax d a _ => ⟨[], [], [d.toNat, a.toNat], []⟩
  | .vrmin d a _ => ⟨[], [], [d.toNat, a.toNat], []⟩
  | .vriadd d a _ => ⟨[], [], [d.toNat, a.toNat], []⟩
  | .vscan d a _ => ⟨[], [], [d.toNat, a.toNat], []⟩
  | .viscan d a _ => ⟨[], [], [d.toNat, a.toNat], []⟩
  | .vdot d a b _ => ⟨[], [], [d.toNat, a.toNat, b.toNat], []⟩
  | .vdec d a _ _ _ => ⟨[], [], [d.toNat, a.toNat], []⟩
  | .venc d a _ _ => ⟨[], [], [d.toNat, a.toNat], []⟩
  | .vf2b d a b _ => ⟨[], [], [d.toNat, a.toNat, b.toNat], []⟩
  | .vb2f d a _ _ => ⟨[], [], [d.toNat, a.toNat], []⟩
  | .vf2h d a b _ => ⟨[], [], [d.toNat, a.toNat, b.toNat], []⟩
  | .vh2f d a _ _ => ⟨[], [], [d.toNat, a.toNat], []⟩
  | .vi2f d a _ => ⟨[], [], [d.toNat, a.toNat], []⟩
  | .vf2i d a _ => ⟨[], [], [d.toNat, a.toNat], []⟩
  | .vld d a b => ⟨[a.toNat, b.toNat], [], [d.toNat], []⟩
  | .vst d a b => ⟨[a.toNat, b.toNat], [], [d.toNat], []⟩
  | .vlds d a b => ⟨[a.toNat, b.toNat], [], [d.toNat], []⟩
  | .vsts d a b => ⟨[a.toNat, b.toNat], [], [d.toNat], []⟩
  | .vldx d a b => ⟨[a.toNat], [], [d.toNat, b.toNat], []⟩
  | .vstx d a b => ⟨[a.toNat], [], [d.toNat, b.toNat], []⟩
  | .vldb d a b => ⟨[a.toNat, b.toNat], [], [d.toNat], []⟩
  | .tmma n _ _ _ a b => ⟨[a.toNat, b.toNat], [], [], [n.toNat]⟩
  | .tzero n => ⟨[], [], [], [n.toNat]⟩
  | .tzeroR n => ⟨[], [], [], [n.toNat]⟩
  | .tst n a b => ⟨[a.toNat, b.toNat], [], [], [n.toNat]⟩
  | .tstBf n a b => ⟨[a.toNat, b.toNat], [], [], [n.toNat]⟩
  | .tstCd n a b => ⟨[a.toNat, b.toNat], [], [], [n.toNat]⟩
  | .tcvt n a => ⟨[a.toNat], [], [], [n.toNat]⟩
  | .tld n a b => ⟨[a.toNat, b.toNat], [], [], [n.toNat]⟩
  | .tldBf n a b => ⟨[a.toNat, b.toNat], [], [], [n.toNat]⟩
  | .tcmt n => ⟨[], [], [], [n.toNat]⟩
  | .tdsc n => ⟨[], [], [], [n.toNat]⟩
  | .tadd n a b => ⟨[a.toNat, b.toNat], [], [], [n.toNat]⟩
  | .tbld _ a => ⟨[a.toNat], [], [], []⟩
  | .tbst _ a => ⟨[a.toNat], [], [], []⟩
  | .tbinf d _ => ⟨[d.toNat], [d.toNat], [], []⟩
  | .srd d a => ⟨[d.toNat, a.toNat], [d.toNat], [], []⟩
  | .sadv d a => ⟨[d.toNat, a.toNat], [d.toNat], [], []⟩
  | .supd d a b => ⟨[d.toNat, a.toNat, b.toNat], [d.toNat], [], []⟩
  | .sset a b => ⟨[a.toNat, b.toNat], [], [], []⟩
  | .sarm d a => ⟨[d.toNat, a.toNat], [d.toNat], [], []⟩
  | .sdis d a => ⟨[d.toNat, a.toNat], [d.toNat], [], []⟩
  | .sswp a b => ⟨[a.toNat, b.toNat], [], [], []⟩
  | .sraw d a _ => ⟨[d.toNat, a.toNat], [d.toNat], [], []⟩
  | .vsrd d a => ⟨[a.toNat], [], [d.toNat], []⟩
  | .vsadv d a => ⟨[a.toNat], [], [d.toNat], []⟩
  | .vsupd d a b => ⟨[a.toNat], [], [d.toNat, b.toNat], []⟩
  | .vsrdy d a => ⟨[a.toNat], [], [d.toNat], []⟩
  | .slaw a => ⟨[a.toNat], [], [], []⟩
  | .sclkr d => ⟨[d.toNat], [d.toNat], [], []⟩
  | .sclkw a => ⟨[a.toNat], [], [], []⟩
  | .sclka d a => ⟨[d.toNat, a.toNat], [d.toNat], [], []⟩
  | .evpop a => ⟨[a.toNat], [], [], []⟩
  | .stime d => ⟨[d.toNat], [d.toNat], [], []⟩
  | .chbnd d a b => ⟨[d.toNat, a.toNat, b.toNat], [d.toNat], [], []⟩
  | .chfld a => ⟨[a.toNat], [], [], []⟩
  | .chspr a => ⟨[a.toNat], [], [], []⟩
  | .cheq d a => ⟨[d.toNat, a.toNat], [d.toNat], [], []⟩
  | .chst d a _ => ⟨[d.toNat, a.toNat], [d.toNat], [], []⟩
  | .chend a _ _ => ⟨[a.toNat], [], [], []⟩
  | .chwt d a => ⟨[d.toNat, a.toNat], [d.toNat], [], []⟩
  | .get d _ => ⟨[d.toNat], [d.toNat], [], []⟩
  | .put d _ => ⟨[d.toNat], [], [], []⟩
  | .gett d _ => ⟨[d.toNat], [d.toNat], [], []⟩
  | .putt d _ => ⟨[d.toNat], [], [], []⟩
  | .vget d _ => ⟨[], [], [d.toNat], []⟩
  | .vput d _ => ⟨[], [], [d.toNat], []⟩
  | .gete d _ => ⟨[d.toNat], [d.toNat], [], []⟩
  | .invoke d a => ⟨[d.toNat, a.toNat], [d.toNat], [], []⟩
  | .invon d a b => ⟨[d.toNat, a.toNat, b.toNat], [d.toNat], [], []⟩
  | .invat d a b => ⟨[d.toNat, a.toNat, b.toNat], [d.toNat], [], []⟩
  | .sendh a b => ⟨[a.toNat, b.toNat], [], [], []⟩
  | .await d a => ⟨[d.toNat, a.toNat], [d.toNat], [], []⟩
  | .awaitt d a => ⟨[d.toNat, a.toNat], [d.toNat], [], []⟩
  | .pollh d a => ⟨[d.toNat, a.toNat], [d.toNat], [], []⟩
  | .hdrop a => ⟨[a.toNat], [], [], []⟩
  | .hbind a b => ⟨[a.toNat, b.toNat], [], [], []⟩
  | .hful a b => ⟨[a.toNat, b.toNat], [], [], []⟩
  | .hbrk a b => ⟨[a.toNat, b.toNat], [], [], []⟩
  | .hstat d a => ⟨[d.toNat, a.toNat], [d.toNat], [], []⟩
  | .csrr d _ => ⟨[d.toNat], [d.toNat], [], []⟩
  | .csrw d _ => ⟨[d.toNat], [], [], []⟩
  | .sret d a => ⟨[d.toNat, a.toNat], [d.toNat], [], []⟩
  | .tlbir a b => ⟨[a.toNat, b.toNat], [], [], []⟩
  | .tlbira a b => ⟨[a.toNat, b.toNat], [], [], []⟩
  | .preq a b => ⟨[a.toNat, b.toNat], [], [], []⟩
  | .sctx a b => ⟨[a.toNat, b.toNat], [], [], []⟩
  | .lctx a b => ⟨[a.toNat, b.toNat], [], [], []⟩
  | .pins a => ⟨[a.toNat], [], [], []⟩
  | .unpn a => ⟨[a.toNat], [], [], []⟩
  | .migr a b => ⟨[a.toNat, b.toNat], [], [], []⟩
  | .telw a => ⟨[a.toNat], [], [], []⟩
  | .cMov d a => ⟨[d.toNat, a.toNat], [d.toNat], [], []⟩
  | .cAdd d a => ⟨[d.toNat, a.toNat], [d.toNat], [], []⟩
  | .cSub d a => ⟨[d.toNat, a.toNat], [d.toNat], [], []⟩
  | .cAddi d _ => ⟨[d.toNat], [d.toNat], [], []⟩
  | .cLi d _ => ⟨[d.toNat], [d.toNat], [], []⟩
  | .cShli d _ => ⟨[d.toNat], [d.toNat], [], []⟩
  | .cShri d _ => ⟨[d.toNat], [d.toNat], [], []⟩
  | .cAnd d a => ⟨[d.toNat, a.toNat], [d.toNat], [], []⟩
  | .cOr d a => ⟨[d.toNat, a.toNat], [d.toNat], [], []⟩
  | .cXor d a => ⟨[d.toNat, a.toNat], [d.toNat], [], []⟩
  | .cLd d a => ⟨[d.toNat, a.toNat], [d.toNat], [], []⟩
  | .cSt d a => ⟨[d.toNat, a.toNat], [], [], []⟩
  | .cRet  => ⟨[1], [], [], []⟩
  | .cGet d _ => ⟨[d.toNat], [d.toNat], [], []⟩
  | .cPut d _ => ⟨[d.toNat], [], [], []⟩
  | .cCheq d a => ⟨[d.toNat, a.toNat], [d.toNat], [], []⟩
  | .cCmpeq d a => ⟨[d.toNat, a.toNat], [], [], []⟩
  | .cCmplt d a => ⟨[d.toNat, a.toNat], [], [], []⟩
  | _ => ⟨[], [], [], []⟩

/-- The control registers a stage may not write. -/
def stageCsr (i : Nat) : Bool := [0x20, 0x10, 0x11, 0x12, 0x13, 0x14, 0x15, 0x60].contains i

/-- Whether an instruction keeps a stage's discipline. -/
def StageDesc.keeps (d : StageDesc) (n : Named) : Bool :=
  n.g.all (fun r => r == 0 || (r == 3 && !n.written.contains 3) || (decide (d.gfst ≤ r) && decide (r < d.gfst + d.gcnt))) &&
  n.v.all (fun r => decide (d.vfst ≤ r) && decide (r < d.vfst + d.vcnt)) &&
  n.acc.all (fun r => d.amask.getLsbD r)

/-- The registers of the TMMA word that COPYT takes from e4 (R242). -/
def carried (w : Word) : Named :=
  ⟨[(w.extractLsb' 17 6).toNat, (w.extractLsb' 23 6).toNat], [], [], [(w.extractLsb' 11 2).toNat]⟩

/-- Whether an instruction keeps a stage's discipline, `e4` being the strand's. -/
def StageDesc.allows (d : StageDesc) (i : Instr) (e4 : Word) : Bool :=
  d.keeps (namedBy i) &&
  (match i with
   | .csrw _ a => !stageCsr a.toNat
   | .copyt _ _ _ => e4.extractLsb' 4 7 != 0x60 || d.keeps (carried e4)
   | _ => true)

/-- The pipe a pipe instruction names (R283). -/
def pipeNamed : Instr → Nat
  | .get _ p | .put _ p | .gett _ p | .putt _ p | .vget _ p | .vput _ p | .gete _ p | .cGet _ p | .cPut _ p | .chend _ p _ => p.toNat
  | _ => 0

/-- Instructions that need SYS whatever their operands (R162). -/
def privileged : Instr → Bool
  | .sret _ _ | .tlbir _ _ | .tlbira _ _ | .tlbia | .tlbw | .preq _ _ | .sctx _ _ | .lctx _ _ | .pins _ | .unpn _ | .migr _ _ | .telw _ => true
  | _ => false

/-- The instructions of the wide engine's vector unit, majors 0x50 to 0x5A (R44, R371). -/
def plainVector : Instr → Bool
  | .vfadd _ _ _ _ | .vfsub _ _ _ _ | .vfmul _ _ _ _ | .vfdiv _ _ _ _ | .vfmin _ _ _ _ | .vfmax _ _ _ _ | .vfabs _ _ _
  | .vfneg _ _ _ | .vfma _ _ _ _ | .vfms _ _ _ _ | .vfnma _ _ _ _ | .vfsqrt _ _ _ | .vfrsq _ _ _ | .vfrcp _ _ _ | .vfex2 _ _ _
  | .vflg2 _ _ _ | .vbadd _ _ _ _ | .vbmul _ _ _ _ | .vbfma _ _ _ _ | .vhadd _ _ _ _ | .vhmul _ _ _ _ | .vhfma _ _ _ _
  | .vadd _ _ _ _ | .vsub _ _ _ _ | .vmul _ _ _ _ | .vmin _ _ _ _ | .vmax _ _ _ _ | .vminz _ _ _ _ | .vmaxz _ _ _ _
  | .vabs _ _ _ | .vand _ _ _ _ | .vor _ _ _ _ | .vxor _ _ _ _ | .vandn _ _ _ _ | .vshl _ _ _ _ | .vshr _ _ _ _ | .vsar _ _ _ _
  | .vnot _ _ _ | .vfcmp _ _ _ _ _ | .vicmp _ _ _ _ _ | .vsel _ _ _ _ | .vprm _ _ _ _ | .vzip _ _ _ _ | .vunz _ _ _ _
  | .vsld _ _ _ _ | .vcmpr _ _ _ | .vexpd _ _ _ | .vmov _ _ _ | .vradd _ _ _ | .vrmax _ _ _ | .vrmin _ _ _ | .vriadd _ _ _
  | .vscan _ _ _ | .viscan _ _ _ | .vdot _ _ _ _ | .vdec _ _ _ _ _ | .venc _ _ _ _ | .vf2b _ _ _ _ | .vb2f _ _ _ _
  | .vf2h _ _ _ _ | .vh2f _ _ _ _ | .vi2f _ _ _ | .vf2i _ _ _ | .vld _ _ _ | .vst _ _ _ | .vlds _ _ _ | .vsts _ _ _
  | .vldx _ _ _ | .vstx _ _ _ | .vldb _ _ _ => true
  | _ => false

def isWait : Instr → Bool
  | .wait _ _ _ _ => true
  | _ => false

/-- Whether the pattern itself is illegal or lacks its privilege, which comes before every operand check (R162, R163). -/
def State.barred (s : State) (i : Instr) : Bool := match i with
  | .csrr _ a =>
    if 0x4000 ≤ a.toNat then !s.sysMode || (a.toNat != 0x4005 && (s.csrHigh (a.toNat - 0x4000)).isNone) else (s.csrLow a.toNat).isNone
  | .csrw _ a => (s.csrWrite a.toNat 0).isNone || (decide (0x4000 ≤ a.toNat) && !s.sysMode)
  | .chend a p _ => a != 0 && p != 0
  | i => privileged i && !s.sysMode

/-- The check at issue: a break pins a spread chain, and traps in a folded one. -/
def State.discipline (s : State) (i : Instr) : Res State :=
  match s.me.chain with
  | none => .ok s
  | some r =>
    match s.findChain r.cluster r.id with
    | none => .ok s
    | some c =>
      if s.barred i || (c.stages[r.stage]?).all (fun d => d.allows i (s.e 4)) then .ok s
      else if c.folded then trap 0x0C (BitVec.ofNat 64 (2 ^ 8 * pipeNamed i + 5))
      else .ok (s.setChain r.cluster { c with pinned := true })

end Sys2Proof.Machine
end

