-- ==== Sys2Proof/Machine/Invalidate.lean ====
section
/-!
DEFINITION. Major 0x74, MIGR, and the events of translation and of the row caches (R119, R121, R122, R309, R310, R396, R402,
R403).
-/
namespace Sys2Proof.Machine

/-! ## Invalidations (R309) -/

namespace State

/-- The fields of e0: the ASID, or none for every ASID, and whether G entries go too. -/
def invalSpace (s : State) : Res (Option (BitVec 16) × Bool) :=
  let e := s.e 0
  if e.extractLsb' 18 14 ≠ 0 then trap 0x01 (e.setWidth 64)
  else .ok (if e.getLsbD 16 then none else some (e.extractLsb' 0 16), e.getLsbD 17)

/-- The range of TLBIR and TLBIRA. -/
def invalRange (s : State) (a b : GIdx) : Res (Nat × Nat) :=
  let x := (s.x a).toNat
  let n := (s.x b).toNat
  if x % 4096 ≠ 0 ∨ n % 4096 ≠ 0 ∨ n = 0 then trap 0x01 (s.x a) else .ok (x, x + n)

/-- Issues an invalidation: a release at DEVICE scope, and the request (R310). -/
def issueInval (s : State) (asid : Option (BitVec 16)) (global : Bool) (lo hi : Nat) (async : Bool) : State :=
  let s1 := s.release 4
  { s1 with invals := s1.invals ++ [⟨s.me?, s.myPart, asid, global, lo, hi, async⟩] }

/-- An asynchronous invalidation: a ninth stalls. -/
def asyncInval (s : State) (asid : Option (BitVec 16)) (global : Bool) (lo hi : Nat) : Res State :=
  if 8 ≤ s.me.ctr.inval then stall
  else .ok ((s.issueInval asid global lo hi true).modCtr (fun c => { c with inval := c.inval + 1 }))

end State

def execTlbir (a b : GIdx) (s : State) : Out :=
  fallOrWait 4 s (do
    s.needSys
    match s.me.wait with
    | some ⟨_, .inval, _, hit, _⟩ => if hit then return (s.acquire 4, none) else waitFor .inval
    | _ =>
      let (lo, hi) ← s.invalRange a b
      let (asid, g) ← s.invalSpace
      return (s.issueInval asid g lo hi false, some .inval))

def execTlbira (a b : GIdx) (s : State) : Out :=
  fallThrough 4 s (do
    s.needSys
    let (lo, hi) ← s.invalRange a b
    let (asid, g) ← s.invalSpace
    s.asyncInval asid g lo hi)

def execTlbia (s : State) : Out :=
  fallThrough 4 s (do
    s.needSys
    let (asid, g) ← s.invalSpace
    s.asyncInval asid g 0 (2 ^ 64))

def execTlbw (s : State) : Out :=
  fallThrough 4 s (do
    s.needSys
    if s.me.ctr.inval = 0 then return s.acquire 4 else waitFor .invalAll)

/-! ## Acknowledgement (R310) -/

/-- The 64-bit address whose low 48 bits an entry keeps. -/
def canon (va : Nat) : Nat := if 2 ^ 47 ≤ va then va + (2 ^ 64 - 2 ^ 48) else va

/-- Whether an invalidation drops what is cached for an address range under an ASID. -/
def Inval.takes (x : Inval) (asid : BitVec 16) (g : Bool) (va n : Nat) : Bool :=
  (if g then x.global else x.asid.isNone || x.asid == some asid) && decide (va < x.hi) && decide (x.lo < va + n)

def Inval.drops (x : Inval) (e : TlbEntry) : Bool := x.takes e.asid (Pte.g e.pte) (canon e.va) (2 ^ e.size)

/-- Whether it takes a page of a core's window with the leaf that the page was filled through. -/
def Inval.empties (x : Inval) (core : Nat) (p : Page) : Bool :=
  x.takes p.asid p.global ((0x7F0000000000 + 0x100000 * core + 4096 * p.page) / 2 ^ p.leaf * 2 ^ p.leaf) (2 ^ p.leaf)

/-- The same for a command's writes, whose leaves are not kept: every one of a matching space counts. -/
def Inval.awaits (x : Inval) (c : Ctx) : Bool := c.part == x.part && (x.global || x.asid.isNone || x.asid == some c.asid)

namespace State

/-- The cores of a partition. -/
def partCores (s : State) (part : Nat) : List Nat := (s.part part).clusters.flatMap (fun cl => (List.range 32).map (32 * cl + ·))

/-- Whether a write translated before the invalidation has still to perform, those of saved contexts included. -/
def invalBusy (s : State) (x : Inval) : Bool :=
  let writes (q : Cmd) : Bool := match q with
    | .acc a => !a.places.isEmpty && x.awaits a.ctx
    | _ => false
  s.cores.any (fun e => (e.2.queue ++ e.2.wide).any writes) ||
  (s.savedContexts (fun _ => true)).any (fun v => v.2.cmds.any (fun q => writes q.2) || v.2.strand.vstates.any (fun v => x.awaits v.ctx)) ||
  s.allStrands.any (fun e => e.2.status != .free && e.2.vstates.any (fun v => x.awaits v.ctx))

/-- Brings every reduction of a partition home. -/
def settlePart (s : State) (part : Nat) : State :=
  let mine (r : RedReq) : Bool := r.part == part
  let buf := s.cores.flatMap (fun e => e.2.combine.filter mine)
  let todo := s.reds.filter mine ++ buf
  let s1 := { s with
    reds := s.reds.filter (fun r => !mine r)
    cores := s.cores.map (fun e => (e.1, { e.2 with combine := e.2.combine.filter (fun r => !mine r) })) }
  todo.foldl applyRed s1

/-- Drains the pages of a core that a test picks, and empties their slots. -/
def dropPages (s : State) (core : Nat) (pick : Page → Bool) : State :=
  let s1 := ((s.core core).pages.filter pick).foldl (fun (s : State) p => s.drainPage p) s
  let s1 := ((s.core core).pages.filter pick).foldl (fun (s : State) p => s.dropScopes core p) s1
  if (s.core core).pages.any pick then s1.modCore core (fun k => { k with pages := k.pages.filter (fun p => !pick p) }) else s1

/-- Changes every saved context of the device's crews. -/
def modSaved (s : State) (f : Nat × SavedStrand → Nat × SavedStrand) : State :=
  let crew (c : Placed) : Placed := { c with saved := c.saved.map f }
  { s with parts := s.parts.map (fun e => (e.1, { e.2 with
    standing := e.2.standing.map crew
    launches := e.2.launches.map (fun l => { l with crews := l.crews.map crew }) })) }

/-- The owner of a command or a request, wherever its strand stands: in its slot or in a saved context. -/
def modOwner (s : State) (o : Owner) (f : Strand → Strand) : State :=
  if s.alive o then s.modStrand o.slot f
  else s.modSaved (fun x => if x.1 = o.slot ∧ x.2.strand.born = o.born then (x.1, { x.2 with strand := f x.2.strand }) else x)

/-- Steps 1 to 4 of R310. -/
def invalidate (s : State) (x : Inval) : State :=
  let cores := s.partCores x.part
  let s1 := cores.foldl (fun (s : State) c => s.flushCore c) (s.settlePart x.part)
  let s2 := { s1 with l2tlb := s1.l2tlb.map (fun e =>
    if (s.part x.part).hasCluster e.1 then (e.1, e.2.filter (fun t => !x.drops t)) else e) }
  cores.foldl (fun (s : State) c =>
    if (Table.find? s.cores c).isNone then s
    else
      let s3 := s.modCore c (fun k => { k with tlb := k.tlb.filter (fun t => !x.drops t) })
      s3.dropPages c (x.empties c)) s2

end State

/-- TLB_INVALIDATE_ACK: everything the invalidation waits for is done, and its issuer learns of it. -/
def execTlbInvalidateAck (index : Nat) (s : State) : Out :=
  event s (match s.invals[index]? with
    | none => none
    | some x =>
      if s.invalBusy x then none
      else
        let s1 := ({ s with invals := listDrop s.invals index }.invalidate x)
        some (s1.modOwner x.owner (fun m =>
          if x.async then { m with ctr := { m.ctr with inval := m.ctr.inval - 1 } }
          else { m with wait := m.wait.map (fun w => { w with hit := true }) })))

/-! ## MIGR (R402, R403) -/

/-- The virtual address and the level of a table entry that stands at a place, searched from a table down. -/
def seekEntry (s : State) (place : Nat) : Nat → Nat → Nat → Nat → Option (Nat × Nat)
  | 0, _, _, _ => none
  | fuel + 1, lvl, t, va =>
    let span := 2 ^ (39 - 9 * lvl)
    if t ≤ place ∧ place < t + 4096 then some (lvl, va + (place - t) / 8 * span)
    else if lvl = 3 then none
    else (List.range 512).findSome? (fun i =>
      let pte : Dword := BitVec.ofNat 64 (s.mem.nat (t + 8 * i) 8)
      if Pte.v pte && !Pte.big pte then seekEntry s place fuel (lvl + 1) (Pte.frame pte) (va + i * span) else none)

/-- The leaf that an entry is: the log of its size and its virtual range. An entry of no table of the strand's counts as one of
the last level, and its range as the whole space. -/
def State.leafAtEntry (s : State) (place : Loc) (pte : Dword) : Nat × Nat × Nat :=
  let found := match place with
    | .mem pa => seekEntry s pa 4 0 (s.me.csr.ptbr.toNat * 4096) 0
    | _ => none
  let lvl := (found.map (·.1)).getD 3
  let size := match lvl, Pte.big pte with
    | 1, true => 30
    | 2, true => 21
    | 3, true => 16
    | _, _ => 12
  match found with
  | some (_, va) => (size, canon (va / 2 ^ size * 2 ^ size), canon (va / 2 ^ size * 2 ^ size) + 2 ^ size)
  | none => (size, 0, 2 ^ 64)

/-- Whether the entry at gA lies in a tainted sector, once MIGR has written it. -/
def State.entryTaint (s : State) (a : GIdx) : Bool :=
  match s.locate s.ctx .load false (s.cap a).addr with
  | .ok (t, _) => (s.readHome t.loc 8).any (·.taint)
  | .error _ => false

def execMigr (a b : GIdx) (s : State) : Out :=
  fallOrWait 4 s (do
    s.needSys
    let t := s.t2 a b
    match s.me.wait with
    | some ⟨_, .migrate, _, hit, expired⟩ =>
      let t := t || s.entryTaint a
      if hit then return ((s.acquire 4).setP7 false t, none)
      else if expired then return (s.setP7 true t, none)
      else waitFor .migrate
    | _ =>
      let va ← capCheckAt (s.cap a) [0] { r := true, w := true } (s.cap a).addr.toNat 8 8
      let (_, s1) ← s.translate s.ctx .load false va
      let (tr, s2) ← s1.translate s.ctx .store false va
      let s3 := ((s2.settleOver tr.loc 8).release 4).evictAt s.myCore tr.loc
      match s3.readHome tr.loc 8 with
      | none => trap 0x13 va
      | some g =>
        let t := t || g.taint
        let pte : Dword := BitVec.ofNat 64 g.nat
        let (size, lo, hi) := s3.leafAtEntry tr.loc pte
        let new := ((s.x b).extractLsb' 12 36).toNat * 4096
        if Pte.m pte = false ∨ new % 2 ^ size ≠ 0 ∨ s3.layerPresent s.myPart new = false then return (s3.setP7 true t, none)
        else
          let old := Pte.frame pte / 2 ^ size * 2 ^ size
          return ({ s3 with migrations := s3.migrations ++ [⟨s.me?, s.myPart, s.me.csr.asid, tr.loc, old, new, 2 ^ size, lo, hi⟩] }, some .migrate))

/-- The members of a sparse set inside a range, moved to another. -/
def moveSet (l : List Nat) (from' to' n : Nat) : List Nat :=
  (l.filter (fun x => decide (from' ≤ x) && decide (x < from' + n))).foldl (fun l x => natPut l (x - from' + to') true)
    (l.filter (fun x => !(decide (to' ≤ x) && decide (x < to' + n))))

/-- A frame's bytes, tags and taint copied to another frame. -/
def Memory.copyFrame (m : Memory) (from' to' n : Nat) : Memory where
  cells := (m.cells.filter (fun c => decide (from' ≤ c.1) && decide (c.1 < from' + n))).foldl
    (fun l c => cellSet Memory.unlisted l (c.1 - from' + to') c.2)
    (m.cells.filter (fun c => !(decide (to' ≤ c.1) && decide (c.1 < to' + n))))
  tags := moveSet m.tags (from' / 16) (to' / 16) (n / 16)
  taints := moveSet m.taints (from' / 32) (to' / 32) (n / 32)
  poison := m.poison

/-- Memory of the host copied to a frame: it keeps neither tags nor taint (R54, R56). -/
def Memory.copyHost (m : Memory) (host : List Host.Cell) (from' to' n : Nat) : Memory where
  cells := (host.filter (fun c => decide (from' ≤ c.1) && decide (c.1 < from' + n))).foldl
    (fun l c => cellSet Memory.unlisted l (c.1 - from' + to') c.2)
    (m.cells.filter (fun c => !(decide (to' ≤ c.1) && decide (c.1 < to' + n))))
  tags := m.tags.filter (fun x => !(decide (to' / 16 ≤ x) && decide (x < to' / 16 + n / 16)))
  taints := m.taints.filter (fun x => !(decide (to' / 32 ≤ x) && decide (x < to' / 32 + n / 32)))
  poison := m.poison

/-- A place in a frame that a migration moves to device memory, as it then stands. -/
def Loc.moved (from' : Loc) (to' n : Nat) (l : Loc) : Loc :=
  let at' (b a : Nat) : Option Nat := if b ≤ a ∧ a < b + n then some (a - b + to') else none
  match from', l with
  | .mem b, .mem a => .mem ((at' b a).getD a)
  | .mem b, .scratch c p f o => .scratch c p ((at' b f).getD f) o
  | .host b, .host a => ((at' b a).map Loc.mem).getD l
  | _, _ => l

/-- What a wait watches, at its new place. -/
def WaitOn.moved (f : Loc → Loc) : WaitOn → WaitOn
  | .word loc n c o sg k => .word (f loc) n c o sg k
  | .barrier loc ph => .barrier (f loc) ph
  | w => w

/-- What the device knows by place follows a migrated frame: calendar entries, firing requests and arming crews (R103, R104), the law
entries that homes hold, and the words that strands watch. -/
def State.movePlaces (s : State) (from' : Loc) (to' n : Nat) : State :=
  let f := from'.moved to' n
  let strand (m : Strand) : Strand := { m with wait := m.wait.map (fun w => { w with on := w.on.moved f }) }
  { s.modSaved (fun x => (x.1, { x.2 with strand := strand x.2.strand })) with
    me := strand s.me
    others := s.others.map (fun e => (e.1, strand e.2))
    calendars := s.calendars.map (fun e => (e.1, e.2.map (fun x => { x with loc := f x.loc })))
    fires := s.fires.map (fun r => { r with entry := { r.entry with loc := f r.entry.loc } })
    arming := s.arming.map (fun e => (f e.1, e.2))
    laws := s.laws.map (fun e => (f e.1, e.2)) }

/-- What a migration copies, once it has been read whole: a frame of memory, this device's or another's, or of a host window (R402);
`none` where a read of the frame meets absent memory or poison. -/
def State.frameToMove (s : State) (x : Migration) : Option Loc :=
  match s.placeOf (State.unitCtx x.part x.asid 0) .engineRead 0 x.old 0 with
  | .ok (.mem _) =>
    if s.mem.poison.any (fun g => decide (x.old ≤ 16 * g) && decide (16 * g < x.old + x.size)) then none else some (.mem x.old)
  | .ok (.host a) => some (.host a)
  | _ => none

/-- MIGRATION_COMMIT: the leaf is copied through the homes, its entry is switched and its invalidation goes out; a copy that
meets a missing layer or poison ends the MIGR, and what the new frame then holds is free (R403, log entry 13). -/
def execMigrationCommit (index : Nat) (s : State) : Out :=
  event s (match s.migrations[index]? with
    | none => none
    | some x =>
      let s0 := { s with migrations := listDrop s.migrations index }
      let s1 := (s.partCores x.part).foldl (fun (s : State) c => s.flushCore c) s0
      let poisoned := s1.mem.poison.any (fun g => decide (x.new ≤ 16 * g) && decide (16 * g < x.new + x.size))
      match (if poisoned || !s1.layerPresent x.part x.new then none else s1.frameToMove x) with
      | none =>
        let (v, s2) := s1.draw
        let clear : Memory := { s2.mem with cells := s2.mem.cells.filter (fun c => !(decide (x.new ≤ c.1) && decide (c.1 < x.new + x.size))) }
        let s3 : State := { s2 with mem := clear.putBytes x.new (toBytes x.size v) }
        some (s3.modOwner x.owner (fun m => { m with wait := m.wait.map (fun w => { w with expired := true }) }))
      | some old =>
        let moved := match old with
          | .host a => s1.mem.copyHost s1.hostMem a x.new x.size
          | _ => s1.mem.copyFrame x.old x.new x.size
        let s2 := State.notice (({ s1 with mem := moved } : State).movePlaces old x.new x.size)
        let pte : Dword := BitVec.ofNat 64 (s2.homeNat x.pte 8)
        let pte' : Dword := (pte &&& ~~~0x0000FFFFFFFFF080#64) ||| BitVec.ofNat 64 x.new
        let s3 := s2.writeHome x.pte (toBytes 8 pte'.toNat) false
        some { s3 with invals := s3.invals ++ [⟨x.owner, x.part, some x.asid, Pte.g pte, x.lo, x.hi, false⟩] })

/-- STALLED_WRITE_RETRY: the walk of a write stalled on M = 1 is made anew. -/
def execStalledWriteRetry (slot : Nat) (s : State) : Out :=
  let m := s.strand slot
  let keep (e : TlbEntry) : Bool := !(Pte.m e.pte && (decide (e.asid = m.csr.asid) || Pte.g e.pte))
  event s (if m.status = .free then none
    else some ({ s with l2tlb := Table.modify s.l2tlb (clusterOfSlot slot) [] (fun l => l.filter keep) }.modCore (coreOfSlot slot)
      (fun k => { k with tlb := k.tlb.filter keep })))

/-! ## Walks, page fills and drains, row caches (R119, R121, R122, R396) -/

/-- PAGE_WALK: a walk that reaches a leaf caches it. -/
def execPageWalk (slot : Nat) (va : Dword) (s : State) : Out :=
  event s (if (s.strand slot).status = .free then none
    else match s.leaf (s.ctxOf slot) (va.toNat % 2 ^ 48) with
      | .ok (_, _, s1) => some s1
      | .error _ => none)

/-- PAGE_FILL: a page of the core's own window becomes resident for a strand of the core. -/
def execPageFill (slot page : Nat) (s : State) : Out :=
  let m := s.strand slot
  event s (if m.status ≠ .ready ∨ m.exiting = true ∨ 64 ≤ page then none
    else match s.translate (s.ctxOf slot) .load false (BitVec.ofNat 64 (0x7F0000000000 + 0x100000 * coreOfSlot slot + 4096 * page)) with
      | .ok (_, s1) => some s1
      | .error _ => none)

/-- PAGE_DRAIN: the dirty bytes of an unpinned page reach their frame. -/
def execPageDrain (core page : Nat) (s : State) : Out :=
  event s (match (s.core core).pages.find? (fun p => p.page == page && !p.pinned && !p.explicit && p.dirty != 0) with
    | some p => some ((s.drainPage p).modCore core (fun k => { k with
        pages := k.pages.map (fun q => if q = p then q.drained else q) }))
    | none => none)

/-- The partition whose layers hold a physical address. -/
def State.partOfLayer (s : State) (layer : Nat) : Option Nat :=
  (List.find? (fun (e : Nat × Part) => decide (e.2.state ≠ 0) && e.2.layers.getLsbD layer) s.parts).map (·.1)

/-! A 64-B unit of a layer in its DRAM die (R117). -/

def rowOf (off : Nat) : Nat := natBits off 31 19
def bankOf (off : Nat) : Nat := (natBits off 18 15) ^^^ (natBits off 27 24)
def channelOf (off : Nat) : Nat := (natBits off 12 8) ^^^ (natBits off 23 19)
/-- The row cache of a physical address: one for each bank of each pseudo-channel of its layer. -/
def bankKey (pa : Nat) : Nat := (natBits pa 39 32) * 512 + channelOf (pa % 2 ^ 32) * 16 + bankOf (pa % 2 ^ 32)
/-- The address of the u-th 64-B unit of a row of a row cache. -/
def unitOfRow (key row u : Nat) : Nat :=
  let bank := key % 16
  let chan := key / 16 % 32
  (key / 512 * 2 ^ 32 + row * 2 ^ 19 + (bank ^^^ natBits row 8 5) * 2 ^ 15 + u / 4 % 4 * 2 ^ 13 + (chan ^^^ natBits row 4 0) * 2 ^ 8 + u % 4 * 64) / 64

/-- The ways that stay when a row has to be opened, and the row that leaves when it was dirty: a free way, else the least recently used
clean way, else the least recently used dirty way (R119). -/
def openWay (ws : List RowWay) : List RowWay × Option Nat :=
  if ws.length < 4 then (ws, none)
  else
    match (ws.filter (fun w => !w.dirty)).getLast? with
    | some w => (ws.filter (fun x => decide (x ≠ w)), none)
    | none => (ws.take 3, (ws.getLast?).map (·.row))

/-- A unit is poisoned by an uncorrectable error, which is counted (R119, R419, R420). -/
def State.poisonUnit (s : State) (unit : Nat) : State :=
  let layer := natBits (64 * unit) 39 32
  let s1 := { s with mem := s.mem.poisonUnit unit, sys := { s.sys with
    regs := Table.modify s.sys.regs (0x2008 + 16 * layer) 0 (satAdd64 1) } }
  match s.partOfLayer layer with
  | some p => s1.count p 0x360 1
  | none => s1

/-- Corrected errors of a layer, which are counted (R420). -/
def State.countCorrected (s : State) (pa n : Nat) : State :=
  { s with sys := { s.sys with regs := Table.modify s.sys.regs (0x2000 + 16 * natBits pa 39 32) 0 (satAdd64 n) } }

/-- ROW_CACHE_FILL: a read or write of a 64-B unit reaches its base die (R119). A miss opens the row; an uncorrectable error poisons the
unit that is filled, or a unit of the dirty row that is written back. Whether the L2 reads or writes, which unit of a row written
back the error meets, and how many errors the array corrects, at most one in each 64-B unit of the two rows, are free (log entry 110). -/
def execRowCacheFill (unit : Nat) (bad : Bool) (s : State) : Out :=
  let pa := 64 * unit
  let key := bankKey pa
  let row := rowOf (pa % 2 ^ 32)
  event s (if natBits pa 47 40 != s.devId || !s.sys.layers.getLsbD (natBits pa 39 32) then none
    else
      let ws := Table.getD s.rows key []
      let (n, s1) := s.draw
      match ws.find? (fun w => w.row == row) with
      | some w =>
        if bad then none
        else some { s1 with rows := Table.set s1.rows key (⟨row, w.dirty || natBit n 0⟩ :: ws.filter (fun x => x.row != row)) }
      | none =>
        let (kept, back) := openWay ws
        let corrected := if natBit n 6 then n / 2 ^ 7 % (if back.isSome then 33 else 17) else 0
        let s2 := ({ s1 with rows := Table.set s1.rows key (⟨row, natBit n 0⟩ :: kept) } : State).countCorrected pa corrected
        some (if !bad then s2
          else match back with
            | some r => s2.poisonUnit (if natBit n 1 then unitOfRow key r (n / 4 % 16) else unit)
            | none => s2.poisonUnit unit))

end Sys2Proof.Machine
end

