-- ==== Sys2Proof/Machine/Preempt.lean ====
section
/-!
DEFINITION. Pre-emption (R311 PREQ, R332, R339 to R343): the request, the halt, the contexts that leave the cores, and the
resumption.
-/
namespace Sys2Proof.Machine

namespace State

/-! ## Crews in their clusters -/

/-- The slots of a crew's strands, in slot order of the state's list. -/
def crewSlots (s : State) (k : CrewId) : List Nat :=
  (s.allStrands.filter (fun e => clusterOfSlot e.1 == k.cluster && e.2.status != .free && decide (e.2.launch = k.launch))).map (·.1)

def ownersOf (s : State) (slots : List Nat) : List Owner := slots.map (fun k => ⟨k, (s.strand k).born⟩)

/-- Asks for a crew's pre-emption, unless it is halted or another request is under way. -/
def askHalt (s : State) (k : CrewId) (src : Nat) (cand : Option (Nat × Nat)) : State :=
  s.modPlaced k (fun c => if c.halted || c.halting.isSome then c else { c with halting := some ⟨src, cand, none, false, none⟩ })

/-- Whether a pre-emption request has reached a strand's core and the strand must stop: a REP in mid-iteration and a state instruction in
flight go on (R341), and so do a stage of a chain whose fold January still seeks (R276) and a strand that the pre-emption folded (R348). -/
def mustStop (s : State) (slot : Nat) : Bool :=
  let m := s.strand slot
  match s.placed? ⟨m.launch, clusterOfSlot slot⟩ with
  | none => false
  | some c =>
    (c.halting.any (·.reached.isSome)) && !(m.rep.any (fun r => r.idx != 0)) && m.ticks.isNone &&
    !(m.chain.any (fun r => (s.findChain r.cluster r.id).any (fun x =>
      x.triggers.any (fun t => t.1 == .preempt) || (x.folded && decide (x.sched = some false)))))

/-- A pre-emption under way, or a halted context, keeps a core from taking records (R331). -/
def noDispatch (s : State) (slot : Nat) : Bool :=
  let cl := clusterOfSlot slot
  s.sys.held ||
  s.parts.any (fun p => (p.2.standing ++ p.2.launches.flatMap (·.crews)).any (fun c =>
    c.cluster == cl && !c.gone && !c.out && c.halting.any (·.reached.isSome))) ||
  [0, 1, 2, 3].any (fun j => (s.strand (coreOfSlot slot * 4 + j)).status == .halted)

/-! ## Contexts leaving the cores and coming back (R332, R408 to R412) -/

/-- The commands of a strand, and of exited strands' copies when `all`, taken from the core's queue and engines. -/
def takeCmds (s : State) (core : Nat) (o : Owner) (all : Bool) : List (CmdAt × Cmd) × State :=
  let k := s.core core
  let mine (c : Cmd) : Bool := decide (c.owner = o) || (all && !s.alive c.owner && (match c with
    | .copy _ => true
    | _ => false))
  let out := (k.wide.filter mine).map (fun c => (CmdAt.wide, c)) ++
    (k.copies.filter (fun c => mine (.copy c))).map (fun c => (CmdAt.copies, .copy c)) ++
    (k.gathers.filter (fun g => mine (.gather g))).map (fun g => (CmdAt.gathers, .gather g)) ++
    (k.queue.filter mine).map (fun c => (CmdAt.queue, c))
  (out, s.modCore core (fun k => { k with
    wide := k.wide.filter (fun c => !mine c)
    copies := k.copies.filter (fun c => !mine (.copy c))
    gathers := k.gathers.filter (fun g => !mine (.gather g))
    queue := k.queue.filter (fun c => !mine c) }))

def putCmd (s : State) (core : Nat) (x : CmdAt × Cmd) : State :=
  s.modCore core (fun k => match x with
    | (.copies, .copy c) => { k with copies := k.copies ++ [c] }
    | (.gathers, .gather g) => { k with gathers := k.gathers ++ [g] }
    | (.wide, c) => { k with wide := k.wide ++ [c] }
    | (_, c) => { k with queue := k.queue ++ [c] })

/-- The part of a core that its strands share (R412). -/
def coreSect (s : State) (core : Nat) : CoreSect :=
  let k := s.core core
  ⟨k.tables, k.channels, k.chkn, k.chkt, k.tmmaCount⟩

def setSect (s : State) (core : Nat) (x : CoreSect) : State :=
  s.modCore core (fun k => { k with tables := x.tables, channels := x.channels, chkn := x.chkn, chkt := x.chkt, tmmaCount := x.tmmaCount })

/-- A core whose commands have left with a context: nothing of its channels is outstanding. -/
def restChannels (s : State) (core : Nat) : State :=
  s.modCore core (fun k => { k with channels := k.channels.map (fun c => { c with done := c.next }) })

/-- What the spill ring of a context's cluster holds for the context (R342). -/
def spillsFor (s : State) (o : Owner) : List Spill := (Table.getD s.spills (clusterOfSlot o.slot) []).filter (fun x => decide (x.owner = o))

/-- What left with a context goes before what its cluster's ring caught since (R411). -/
def putSpills (s : State) (cluster : Nat) (l : List Spill) : State :=
  if l.isEmpty then s else { s with spills := Table.modify s.spills cluster [] (fun r => l ++ r) }

/-- One strand's context leaves its slot, which becomes FREE. `last` when no other context of its launch stays on the core. -/
def takeContext (s : State) (slot : Nat) (last : Bool) (token : Nat) : SavedStrand × State :=
  let m := s.strand slot
  let o : Owner := ⟨slot, m.born⟩
  let core := coreOfSlot slot
  let (tiles, s1) := s.liftTiles core (s.heldTiles o 15)
  let sh := (s1.core core).shadow
  let mine := decide (sh.owner = some o)
  let s2 := if mine then s1.modShadow core (fun _ => Shadow.fresh) else s1
  let (cmds, s3) := s2.takeCmds core o last
  let s4 : State := if (s3.spillsFor o).isEmpty then s3
    else { s3 with spills := Table.modify s3.spills (clusterOfSlot slot) [] (fun r => r.filter (fun x => decide (x.owner ≠ o))) }
  (⟨token, m, tiles, if mine then some sh else none, cmds, s.spillsFor o⟩, s4.setStrand slot Strand.fresh)

/-- A context comes back to its slot. -/
def putContext (s : State) (slot : Nat) (x : SavedStrand) : State :=
  let core := coreOfSlot slot
  let s1 := x.tiles.foldl (fun (s : State) e => s.modTile core e.1 (fun _ => e.2)) (s.setStrand slot x.strand)
  let s2 := match x.shadow with
    | some sh => s1.modShadow core (fun _ => sh)
    | none => s1
  (x.cmds.foldl (fun (s : State) c => s.putCmd core c) s2).putSpills (clusterOfSlot slot) x.spills

/-- Every context of a crew leaves, and the crew's section with it: the crew keeps its clock and events, out of reach (R412). -/
def saveCrew (s : State) (k : CrewId) : State :=
  let slots := s.crewSlots k
  let (saved, s1) := slots.foldl (fun (acc : List (Nat × SavedStrand) × State) slot =>
    let last := !(slots.any (fun q => coreOfSlot q == coreOfSlot slot && decide (slots.idxOf slot < slots.idxOf q)))
    let (x, s') := acc.2.takeContext slot last 0
    (acc.1 ++ [(slot, x)], s')) ([], s)
  let cores := (slots.map coreOfSlot).eraseDups
  let sects := cores.map (fun c => (c, s1.coreSect c))
  let s2 := cores.foldl (fun (s : State) c => s.restChannels c) s1
  (s2.modPlaced k (fun c => { c with out := true, saved := saved, cores := sects })).modCrew k (fun c => { c with loaded := false })

/-- The contexts of a crew that is out come back to their slots, still halted. -/
def restoreCrew (s : State) (launch : LaunchId) (index : Nat) : State :=
  match (s.launch? launch).bind (fun l => l.crews.find? (fun c => c.index == index && c.out)) with
  | none => s
  | some c =>
    let s1 := c.cores.foldl (fun (s : State) x => s.setSect x.1 x.2) s
    let s2 := c.saved.foldl (fun (s : State) x => s.putContext x.1 x.2) s1
    (s2.modLaunch launch (fun l => { l with crews := l.crews.map (fun q =>
      if q.index = index then { q with out := false, halted := true, resuming := true, saved := [], cores := [] } else q) })).modCrew
      ⟨launch, c.cluster⟩ (fun c => { c with loaded := true })

/-! ## Halting (R339 to R341) -/

/-- Whether nothing that must complete before the halt is left. -/
def haltReady (s : State) (k : CrewId) (h : Halting) : Bool :=
  let slots := s.crewSlots k
  let owners := s.ownersOf slots
  !((Table.getD s.chains k.cluster []).any (fun c => decide (c.launch = k.launch) && c.triggers.any (fun t => t.1 == .preempt))) &&
  slots.all (fun q =>
    let m := s.strand q
    m.vloads.isEmpty && m.vstates.isEmpty && m.ticks.isNone && m.rep.all (fun r => r.idx == 0)) &&
  (h.drained || (slots.map coreOfSlot).all (fun c =>
    let x := s.core c
    !x.copies.any (fun c => owners.contains c.owner) && !x.gathers.any (fun g => owners.contains g.owner)))

/-- A strand as the halt leaves it: a REP between iterations stops (R189), which a leader has sent down its stream already, and a PARKED
strand stays. -/
def haltStrand (m : Strand) : Strand :=
  let m1 : Strand := match m.rep with
    | some r =>
      { m with
        rep := none
        csr := { m.csr with repi := repiOf { r with idx := 0 } }
        follow := m.follow.map (fun f => { f with again := f.hop == 0 }) }
    | none => m
  if m.status = .parked then m1 else { m1 with status := .halted, prior := m.status, ticks := none, yielded := false }

/-- A TMMA that the halt stops after its first block and before its last: its check is skipped, which is counted (R82, R229). -/
def skipCheck (s : State) (core : Nat) (owners : List Owner) : State := match (s.core core).wide with
  | .tmma t :: rest =>
    if t.ref.isSome && owners.contains t.x.owner then
      let s1 := s.modCore core (fun k => { k with wide := .tmma { t with checked := false, ref := none } :: rest })
      { (s1.count t.x.ctx.part 0x320 1) with checks := Table.erase s1.checks (core / 4) }
    else s
  | _ => s

/-- The halt of every strand of a crew, with the fence and the unpinning that come with it, in every window of the cluster (R122). -/
def haltCrew (s : State) (k : CrewId) : State :=
  let slots := s.crewSlots k
  let s1 := slots.foldl (fun (s : State) q =>
    (s.asSlot q (fun t => (t.settleReds (fun _ => true)).flushCore t.myCore)).modStrand q haltStrand) s
  let asids := (s.spaceOf k.launch).1 :: slots.map (fun q => (s.strand q).csr.asid)
  let owners := s.ownersOf slots
  let s2 := ((slots.map coreOfSlot).eraseDups).foldl (fun (s : State) c => s.skipCheck c owners) s1
  { s2 with cores := s2.cores.map (fun e =>
      (e.1, if e.1 / 32 = k.cluster then { e.2 with
        pages := e.2.pages.map (fun p => if asids.contains p.asid then { p with pinned := false, explicit := false } else p) } else e.2)) }

/-- The record of a completed halt (R340). -/
def haltRecord (s : State) (k : CrewId) (h : Halting) (at' : Nat) : State :=
  let (q, asid) := match s.launch? k.launch with
    | some l => (l.qidx, l.asid)
    | none => (0, (s.spaceOf k.launch).1)
  s.postFault k.launch.part {
    extra := BitVec.ofNat 128 (k.cluster + 2 ^ 64 * (s.nowNat - at'))
    tepc := 0
    addr := BitVec.ofNat 64 q
    time := s.nowNat
    asid := asid
    stg := 0
    cause := 0x11
    src := h.src
    parked := false }

end State

/-- PREEMPT_REQUEST: a request reaches every core of its crew, and January seeks to fold the crew's chains (R276). -/
def execPreemptRequest (part age cluster requester : Nat) (s : State) : Out :=
  let k : CrewId := ⟨⟨part, age⟩, cluster⟩
  event s (match (s.placed? k).bind (·.halting) with
    | some h =>
      if h.reached.isSome || h.src != requester then none
      else
        let s1 := s.modPlaced k (fun c => { c with halting := some { h with reached := some s.nowNat } })
        some (((Table.getD s1.chains cluster []).foldl (fun (s : State) c =>
          if c.launch = k.launch ∧ c.folded = false ∧ c.pinned = false ∧ c.ended = false then s.addTrigger cluster c.id .preempt else s) s1).windowShut k)
    | none => none)

/-- COPY_DRAIN_EXPIRY: the copy drain budget of 1 µs, which follows the chain window, has passed (R339). -/
def execCopyDrainExpiry (part age cluster : Nat) (s : State) : Out :=
  let k : CrewId := ⟨⟨part, age⟩, cluster⟩
  event s (match (s.placed? k).bind (·.halting) with
    | some h =>
      (match h.shut with
       | some t => if t + 1000 ≤ s.nowNat ∧ h.drained = false then some (s.modPlaced k (fun c => { c with halting := some { h with drained := true } })) else none
       | none => none)
    | none => none)

/-- PREEMPT_HALT_COMPLETE: every strand of the crew is HALTED and the record is posted; the launch unit saves the contexts and
frees the cluster (R322). -/
def execPreemptHaltComplete (part age cluster : Nat) (s : State) : Out :=
  let k : CrewId := ⟨⟨part, age⟩, cluster⟩
  event s (match (s.placed? k).bind (·.halting) with
    | some h =>
      (match h.reached with
       | some t =>
         if s.haltReady k h then
           let s1 := ((s.haltCrew k).modPlaced k (fun c => { c with halting := none, halted := true })).haltRecord k h t
           some (if h.src = s.srcNum 5 18 then s1.saveCrew k else s1)
         else none
       | none => none)
    | none => none)

/-! ## Resuming (R343) -/

/-- A halted strand as it goes on: a wait looks at its condition anew (R26). -/
def State.resumeStrand (s : State) (m : Strand) : Strand :=
  if m.status ≠ .halted then m
  else { m with
    status := m.prior
    resumed := true
    held := none
    wait := m.wait.map (fun w => match w.on with
      | .word _ _ _ _ _ _ => { w with hit := s.watchHolds w.on }
      | .barrier _ _ => { w with hit := s.watchHolds w.on }
      | _ => w) }

/-- CREW_RESUME: the strands of a halted crew go on, with an acquire at DEVICE scope. The cores-return trigger of a chain that the
pre-emption folded is raised, and its cut sought once its strand is READY (R349). A crew of the standing launch is known on while a
context of it is saved. -/
def execCrewResume (part age cluster : Nat) (s : State) : Out :=
  let k : CrewId := ⟨⟨part, age⟩, cluster⟩
  event s (match s.placed? k with
    | some c =>
      if !c.resuming || s.sys.held then none
      else
        let slots := s.crewSlots k
        let s1 := slots.foldl (fun (s : State) q => (s.modStrand q s.resumeStrand).dropClean (coreOfSlot q)) s
        let s2 := s1.modPlaced k (fun c => { c with halted := false, resuming := false, since := s.nowNat })
        let s3 := if age = 0 then s2.modPart part (fun p => { p with standing := p.standing.filter (fun c => c.cluster != cluster || !c.saved.isEmpty) }) else s2
        some ((Table.getD s3.chains cluster []).foldl (fun (s : State) x =>
          if x.launch = k.launch ∧ x.sched = some false then
            (s.modChain cluster x.id (fun x => { x with sched := some true, backDue := true })).addTrigger cluster x.id .back
          else s) s3)
    | none => none)

/-! ## The spill ring (R342) -/

/-- SPILL_CATCH: a SENDH for a halted context's mailbox goes to its cluster's spill ring (R342). -/
def execSpillCatch (index : Nat) (s : State) : Out :=
  event s (match s.hmsgs[index]? with
    | none => none
    | some m =>
      match m.body, s.handleIn m.part m.id with
      | .send _, .here _ _ h =>
        (match h.box with
         | some b =>
           let cl := clusterOfSlot b.owner.slot
           let ring := Table.getD s.spills cl []
           if s.msgBlocked index m || h.state != .bound || !s.boxHalted b || !State.spillRoom ring then none
           else some (({ s with hmsgs := listDrop s.hmsgs index, spills := Table.set s.spills cl (ring ++ [⟨b.owner, .handle m⟩]) } : State).expectNext m)
         | none => none)
      | _, _ => none)

/-- Whether what the ring caught may replay: its context runs again, or is gone. -/
def State.replays (s : State) (x : Spill) : Bool := match x.body with
  | .handle m => (match s.handleIn m.part m.id with
    | .here _ _ h => !(h.state == .bound && h.box.any (fun b => s.boxHalted b))
    | _ => true)
  | _ => !s.contextAway x.owner

/-- What an engine did in the window of a context that runs again, at its home: bytes, a credit, a reduction. -/
def State.landSpill (s : State) (b : SpillBody) : Res State := match b with
  | .handle m => .ok (s.landMsg m)
  | .write _ ctx va bs tag taint clear => do
    let (t, s1) ← s.translate ctx .engineWrite false va
    guardTrap (!(taint && ctx.dmode && Pte.dg t.pte)) 0x0F va
    return s1.landAt t.loc bs tag taint clear
  | .credit _ ctx va n taint => do
    let (t, s1) ← s.translate ctx .engineWrite false va
    guardTrap (!(taint && ctx.dmode && Pte.dg t.pte)) 0x0F va
    match s1.readHome t.loc 16 with
    | none => trap 0x13 va
    | some _ => return s1.credit t.loc n taint
  | .red _ r => do
    let (t, s1) ← s.translate r.ctx .amo false r.va
    guardTrap (!(r.ctx.dmode && Pte.dg t.pte)) 0x0F r.va
    match s1.readHome t.loc r.width with
    | none => trap 0x13 r.va
    | some w => return s1.writeHome t.loc (toBytes r.width (redNew r.op (8 * r.width) r.signed w.nat r.operand.toNat)) true

/-- The sender's copy learns of a fault that its caught write has met: a flag or a credit that faults is its last act. -/
def State.failSpill (s : State) (core : Nat) (b : SpillBody) (c : Copy) (index : Nat) (cause : BitVec 8) (addr : Dword) : Option State :=
  let mark := match b with
    | .credit .. => true
    | _ => c.acted
  if c.error.isSome then
    let s1 := s.modChannel core c.chan (fun k => k.record c.id cause addr)
    some (if s1.alive c.owner then s1 else s1.lateRecord c.ctx.part c.ctx c.src cause addr 0)
  else if s.mayFail core c then some (s.failCopy core index c cause addr mark)
  else none

/-- What a spill ring caught is served or lands, and its sender's command goes on: a gather's element finishes with the last of its writes,
and a write that faults ends the copy in error or fails the element. `none` while that cannot be. -/
def State.replay (s : State) (b : SpillBody) : Option State :=
  match b.sender? with
  | none => (s.landSpill b).toOption
  | some (.copy core chan id) =>
    (match s.landSpill b with
     | .ok s1 => some s1
     | .error (.trap cause addr _) =>
       ((s.core core).copies.findIdx? (fun c => c.chan == chan && c.id == id)).bind (fun i =>
         ((s.core core).copies[i]?).bind (fun c => s.failSpill core b c i cause addr))
     | .error _ => none)
  | some (.gather core owner order i) =>
    ((s.core core).gathers.findIdx? (fun g => decide (g.sender i = .gather core owner order i))).bind (fun k =>
      ((s.core core).gathers[k]?).bind (fun g =>
        let put (r : State × Gather) : State := r.1.setGather core k r.2
        if s.statusAway g then none else
        match s.landSpill b with
        | .ok s1 => some (if s1.spilled (g.sender i) then s1 else put (s1.finishElement g i))
        | .error (.trap cause _ _) =>
          let rest (x : Spill) : Bool := decide (x.body.sender? ≠ some (g.sender i))
          some (put (({ s with spills := s.spills.map (fun e => (e.1, e.2.filter rest)) } : State).failElement g i cause (s.elementAddr g i)))
        | .error _ => none))

/-- SPILL_REPLAY: of what the ring caught for each context, the oldest is served once the context runs again (R342). -/
def execSpillReplay (cluster : Nat) (s : State) : Out :=
  let ring := Table.getD s.spills cluster []
  event s ((List.range ring.length).findSome? (fun i => (ring[i]?).bind (fun x =>
    if s.replays x && !(ring.take i).any (fun y => decide (y.owner = x.owner)) then
      ({ s with spills := Table.set s.spills cluster (listDrop ring i) } : State).replay x.body
    else none)))

/-! ## PREQ (R311) -/

/-- The RUNNING launch at a queue index of the strand's partition. -/
def State.launchAt (s : State) (qidx : Nat) : Option Launch :=
  (s.part s.myPart).launches.find? (fun l => l.qidx == qidx && l.state == .running)

/-- Whether a section of a crew's context has been saved and not loaded yet (R412). -/
def State.sectionAway (s : State) (k : CrewId) : Bool :=
  !(s.crew k).loaded || (List.range 32).any (fun j => (s.core (32 * k.cluster + j)).away.contains k.launch)

def execPreq (a b : GIdx) (s : State) : Out :=
  fallOrWait 4 s (do
    s.needSys
    let t := s.t2 a b
    match s.me.wait with
    | some w =>
      if w.hit then return (s.setP7 false t, none) else waitFor w.on
    | none =>
      match s.launchAt ((s.x a).extractLsb' 0 32).toNat with
      | none => return (s.setP7 true t, none)
      | some l =>
        let here := l.crews.filter (fun c => !c.gone && !c.out)
        if (s.x b).getLsbD 0 then
          let halted := here.filter (fun c => c.halted || (s.crewSlots ⟨l.id, c.cluster⟩).any (fun q => (s.strand q).status == .halted))
          if halted.any (fun c => s.sectionAway ⟨l.id, c.cluster⟩) then return (s.setP7 true t, none)
          else
            let s1 := halted.foldl (fun (s : State) c => s.modPlaced ⟨l.id, c.cluster⟩ (fun c => { c with resuming := true })) s
            return (s1, some (.preempt l.id false))
        else
          let s1 := here.foldl (fun (s : State) c => s.askHalt ⟨l.id, c.cluster⟩ (s.strandSrc s.cur) none) s
          return (s1, some (.preempt l.id true)))

end Sys2Proof.Machine
end

