-- ==== Sys2Proof/Machine/Schedule.lean ====
section
/-!
DEFINITION. The free schedule, and the free parts of a context that the machine does not know.
-/
namespace Sys2Proof.Config

/-- What the n-th turn does once the agenda is empty, and how many nanoseconds pass before it; `none` for an idle turn. The manual
orders the turns of strands, engines and units only by the rules the meanings keep: log entry 1. -/
opaque schedule (n : Nat) : Option Sys2Proof.Machine.Turn

/-! What LCTX restores of an image that the state does not know, from the bytes of the parts that have no layout: the streams, the wait, and
the queued entries of the context as its owner's (log entry 53). -/

opaque savedStreams : List Byte → List (Option Sys2Proof.Machine.Stream)
opaque savedWait : List Byte → Option Sys2Proof.Machine.WaitRec
opaque savedQueue : List Byte → Sys2Proof.Machine.Owner → List (Sys2Proof.Machine.CmdAt × Sys2Proof.Machine.Cmd)

end Sys2Proof.Config
end

