-- ==== Sys2Proof/Machine/Context.lean ====
section
/-!
DEFINITION. SCTX and LCTX (R408 to R412). What the manual lays out is written to and read from memory; what it gives a place but
no layout (the wait record, the stream states, the queued entries, the spill records) is written as free bytes and kept in the
state under those bytes, by which LCTX knows it again (log entry 53).
-/
namespace Sys2Proof.Machine

/-! ## The image of a context -/

/-- A run of bytes of a save area, with its taint; sixteen bytes may carry a tag. -/
structure CtxPart where
  off : Nat
  bytes : List Byte
  tag : Option Bool
  taint : Bool
deriving DecidableEq, Repr

def ctxBytes (off n v : Nat) (taint : Bool) : CtxPart := ⟨off, toBytes n v, none, taint⟩
def ctxCap (off : Nat) (g : GReg) : CtxPart := ⟨off, toBytes 16 g.bits.toNat, some g.tag, g.taint⟩

/-- The control registers of the save area after PCC, in order, but for ASID, PTBR, CNTS and SRCN. -/
def ctxCsrs : List Nat := [0x60, 0x61, 0x62, 0x63, 0x64, 0x65, 0x20, 0x21, 0x10, 0x11, 0x12, 0x13, 0x14, 0x15, 0x40]

/-- A tile's 64 KiB, row by row. -/
def tileBytes (t : Tile) : List Byte := (List.range 128).flatMap (fun m => (List.range 128).flatMap (fun n => toBytes 4 (tileGet t m n).toNat))
def tileOfBytes (bs : List Byte) : Tile :=
  tabulate 128 (fun m => tabulate 128 (fun n => BitVec.ofNat 32 (ofBytes ((bs.drop (512 * m + 4 * n)).take 4))))

/-- Bits 0 to n - 1 from a test. -/
def bitsOf (n : Nat) (f : Nat → Bool) : Nat := ((List.range n).filter f).foldl (fun v i => v + 2 ^ i) 0

/-- The taint bitmap of the registers (R408). -/
def taintMap (r : Regs) : Nat :=
  bitsOf 64 (fun i => (r.rg (BitVec.ofNat 6 i)).taint) + 2 ^ 64 * bitsOf 32 (fun i => (r.rv (BitVec.ofNat 5 i)).taint) +
  2 ^ 96 * bitsOf 8 (fun i => (r.rp (BitVec.ofNat 3 i)).taint) + 2 ^ 104 * bitsOf 8 (fun i => (r.re (BitVec.ofNat 3 i)).taint)

def priorCode : Status → Nat
  | .waiting => 2
  | .parked => 3
  | _ => 1

/-- Everything of a context's image but its header: registers, control registers, tiles, and the bytes left free. -/
def State.ctxParts (s : State) (slot : Nat) (tiles : List Tile) (free : Nat) : List CtxPart :=
  let f := s.focus slot
  let m := s.strand slot
  let csr (k : Nat) (v : Dword) : CtxPart := ctxBytes (0x40 + 16 * k) 16 v.toNat false
  [ctxCap 0x40 ⟨m.pcc.bits, m.pcc.tag, false⟩] ++
  ctxCsrs.mapIdx (fun k i => csr (k + 1) ((f.csrLow i).getD 0)) ++
  [csr 16 ((f.csrHigh 0).getD 0), csr 17 ((f.csrHigh 1).getD 0), csr 18 f.cnts, csr 19 (BitVec.ofNat 64 (s.strandSrc slot)),
   ctxBytes 0x180 128 free false] ++
  tabulate 8 (fun i => ctxBytes (0x200 + 4 * i) 4 (m.regs.re (BitVec.ofNat 3 i)).bits.toNat (m.regs.re (BitVec.ofNat 3 i)).taint) ++
  tabulate 8 (fun i => ctxBytes (0x220 + 8 * i) 8 (m.regs.rp (BitVec.ofNat 3 i)).bits.toNat (m.regs.rp (BitVec.ofNat 3 i)).taint) ++
  [ctxBytes 0x260 16 (taintMap m.regs) false] ++
  tabulate 64 (fun i => ctxCap (0x400 + 16 * i) (m.regs.rg (BitVec.ofNat 6 i))) ++
  tabulate 32 (fun i => ctxBytes (0x800 + 256 * i) 256 (m.regs.rv (BitVec.ofNat 5 i)).bits.toNat (m.regs.rv (BitVec.ofNat 5 i)).taint) ++
  [ctxBytes 0x2800 256 (free / 2 ^ 1024) false, ctxBytes 0x2900 1792 (free / 2 ^ 3072) false] ++
  tiles.mapIdx (fun k t => ⟨0x3000 + 0x10000 * k, tileBytes t, none, false⟩)

/-- The core section (R412). -/
def State.sectParts (s : State) (core off : Nat) : List CtxPart :=
  let k := s.core core
  k.tables.toList.mapIdx (fun i t => ⟨off + 1088 * i, t.image, none, t.taint⟩) ++
  k.tables.toList.mapIdx (fun i t => ctxBytes (off + 0x1100 + 8 * i) 8 (t.valid.toNat + 2 * t.taint.toNat) false) ++
  k.channels.toList.mapIdx (fun i c => ctxBytes (off + 0x1120 + 16 * i) 16 c.cpdone.toNat false) ++
  k.channels.toList.mapIdx (fun i c => ctxBytes (off + 0x11A0 + 16 * i) 16 c.errBits.toNat false) ++
  [ctxBytes (off + 0x1220) 8 k.chkn.toNat false, ctxBytes (off + 0x1228) 8 k.chkt.toNat false,
   ctxBytes (off + 0x1230) 8 k.tmmaCount.toNat false, ctxBytes (off + 0x1238) 3528 0 false]

/-- The crew section (R412). -/
def crewParts (c : Crew) (off : Nat) : List CtxPart :=
  [ctxBytes off 32 (c.lclk.toNat + 2 ^ 64 * c.lawb.toNat + 2 ^ 128 * c.stick.toNat + 2 ^ 192 * c.events.length) false,
   ctxBytes (off + 32) 4064 0 false] ++
  c.events.mapIdx (fun i e => ⟨off + 0x1000 + 32 * i, e.bytes, none, e.taint⟩)

namespace State

/-- Stores the parts of an image at a checked address, as the strand's own stores: every translation before any of them. -/
def storeParts (s : State) (va : Dword) (l : List CtxPart) : Res State := do
  let pieces := l.flatMap (fun p =>
    if p.tag.isSome then [(va + BitVec.ofNat 64 p.off, p)]
    else (piecesOf (va + BitVec.ofNat 64 p.off) p.bytes.length).map (fun q =>
      (q.1, ({ p with bytes := (p.bytes.drop q.2.1).take q.2.2 } : CtxPart))))
  let (places, s1) ← pieces.foldlM (fun (acc : List (Trans × CtxPart) × State) (q : Dword × CtxPart) => do
    let (t, s1) ← acc.2.translate s.ctx .store false q.1
    s1.guardTaint t.pte q.2.taint q.1
    return (acc.1 ++ [(t, q.2)], s1)) ([], s)
  return places.foldl (fun (s : State) q =>
    let s1 := s.settleOver q.1.loc q.2.bytes.length
    (match q.2.tag with
     | some b => s1.writeCapLoc s.ctx q.1.loc (BitVec.ofNat 128 (ofBytes q.2.bytes)) b q.2.taint
     | none => s1.writeLoc s.ctx q.1.loc q.2.bytes q.2.taint).noteLost q.1.loc q.2.taint) s1

/-- A HALTED context, or a PARKED one of a halted crew. -/
def savable (s : State) (slot : Nat) : Bool :=
  let m := s.strand slot
  (m.status == .halted || m.status == .parked) && decide (m.launch.part = s.myPart) &&
  (s.placed? ⟨m.launch, clusterOfSlot slot⟩).any (fun c => c.halted || m.status == .halted)

/-- Whether a core still runs a copy that SCTX of a slot takes along: one of a strand of the slot that has exited or, with the core section,
of any strand that has (R410). The slot's own strand is halted, and its copies have stopped. -/
def copyRuns (s : State) (slot : Nat) (csec : Bool) : Bool :=
  let core := coreOfSlot slot
  (s.core core).copies.any (fun c => !s.alive c.owner && (csec || c.owner.slot == slot) && c.error.isNone && c.broken.isNone &&
    decide (c.pos < c.total) && (c.kind != .copyb || s.channelHead core c))

end State

/-- The image of a context: its bytes, its parts, and whether it carries the core section and the crew section (R408 to R412). -/
structure CtxImage where
  size : Nat
  parts : List CtxPart
  csec : Bool
  wsec : Bool
deriving DecidableEq, Repr

/-- What SCTX writes for a slot, the bytes without a layout from a free value (log entry 53). -/
def State.ctxImage (s : State) (slot free : Nat) : CtxImage :=
  let m := s.strand slot
  let core := coreOfSlot slot
  let k : CrewId := ⟨m.launch, clusterOfSlot slot⟩
  let others := (s.crewSlots k).filter (· != slot)
  let csec := !others.any (fun q => coreOfSlot q == core)
  let wsec := others.isEmpty
  let o : Owner := ⟨slot, m.born⟩
  let tiles := s.heldTiles o 15
  let sh := (s.core core).shadow
  let shd := decide (sh.owner = some o)
  let spills := (s.spillsFor o).length
  let cur := (s.core core).wide.any (fun c => match c with
    | .tmma t => decide (t.x.owner = o) && t.next != 0
    | _ => false)
  let at1 := 0x3000 + 0x10000 * (tiles.length + shd.toNat)
  let at2 := at1 + (if csec then 0x2000 else 0)
  let at3 := at2 + (if wsec then 0x9000 else 0)
  let size := at3 + 64 * spills
  let header := 0x5343 + 2 ^ 16 * csec.toNat + 2 ^ 17 * wsec.toNat + 2 ^ 20 * slot +
    2 ^ 33 * priorCode (if m.status = .halted then m.prior else m.status) + bitsOf 4 (fun i => tiles.contains i) * 2 ^ 36 + 2 ^ 40 * cur.toNat + 2 ^ 41 * shd.toNat +
    2 ^ 42 * (if shd then sh.acc else 0) + 2 ^ 44 * bitsOf 4 (fun i => tiles.contains i && (s.tile core i).taint) + 2 ^ 64 * size + 2 ^ 128 * spills
  { size := size
    parts := [ctxBytes 0 64 header false] ++
      s.ctxParts slot (tiles.map (fun i => (s.tile core i).data) ++ (if shd then [sh.data] else [])) free ++
      (if csec then s.sectParts core at1 else []) ++ (if wsec then crewParts (s.crew k) at2 else []) ++
      [ctxBytes at3 (64 * spills) (free / 2 ^ 17408) false]
    csec := csec
    wsec := wsec }

/-- The context has been written: its slot becomes FREE, and what left with it is kept under the free bytes of its image. -/
def State.sendAway (s : State) (slot : Nat) (image : CtxImage) (free : Nat) : State :=
  let core := coreOfSlot slot
  let k : CrewId := s.crewOf slot
  let (x, s1) := s.takeContext slot image.csec (free / 2 ^ 3072 % 2 ^ 14336)
  let s2 := s1.modPlaced k (fun c => { c with saved := c.saved ++ [(slot, x)] })
  let s3 := if image.csec then (s2.restChannels core).modCore core (fun q => { q with away := q.away ++ [k.launch] }) else s2
  if image.wsec then s3.modCrew k (fun c => { c with loaded := false, events := [] }) else s3

/-- SCTX (R408, R410, R412): it waits for the copies that it takes along and that still run. -/
def execSctx (a b : GIdx) (s : State) : Out :=
  fallThrough 4 s (do
    s.needSys
    let t := s.t2 a b
    let slot := ((s.x b).extractLsb' 0 13).toNat
    if !s.savable slot then return s.setP7 true t
    else
      let (free, s0) := s.draw
      let image := s.ctxImage slot free
      if s.copyRuns slot image.csec then stall
      let va ← capCheckAt (s.cap a) [0] { w := true } (s.cap a).addr.toNat image.size 4096
      let s1 ← s0.storeParts va image.parts
      return (s1.sendAway slot image free).setP7 false t)

/-! ## Loading -/

/-- A channel from its CPDONE value and its error record. -/
def Channel.ofBits (cp : Nat) (err : Nat) : Channel :=
  ⟨BitVec.ofNat 32 (cp / 2 ^ 32), BitVec.ofNat 32 cp,
   if natBit err 64 then some (BitVec.ofNat 32 (err / 2 ^ 96), BitVec.ofNat 8 (err / 2 ^ 88), BitVec.ofNat 8 (err / 2 ^ 80), BitVec.ofNat 64 err) else none⟩

/-- An event record from its 32 bytes (R266). -/
def EventRec.ofNat (v : Nat) (taint : Bool) : EventRec :=
  ⟨BitVec.ofNat 48 v, BitVec.ofNat 48 (v / 2 ^ 64), BitVec.ofNat 8 (v / 2 ^ 48), BitVec.ofNat 32 (v / 2 ^ 128), BitVec.ofNat 32 (v / 2 ^ 160),
   natBit v 57, natBit v 56, natBits v 215 192, taint⟩

namespace State

/-- A granule of the area with its tag, under R50's filter, and its taint. -/
def loadGranule (s : State) (va : Dword) : Res (Cap × Bool × State) :=
  (s.loadAt .load va 16).map (fun (g, s1) =>
    let b : Qword := BitVec.ofNat 128 g.nat
    (⟨b, g.tag && !(Cap.malformed ⟨b, true⟩)⟩, g.taint, s1))

/-- The saved part of a context that LCTX knows by the free bytes of its image, with its launch. -/
def findSaved (s : State) (slot token : Nat) : Option (CrewId × SavedStrand) :=
  let p := s.part s.myPart
  let crews := p.standing.map (fun c => ((⟨⟨s.myPart, 0⟩, c.cluster⟩ : CrewId), c)) ++ p.launches.flatMap (fun l => l.crews.map (fun c => (⟨l.id, c.cluster⟩, c)))
  crews.findSome? (fun c =>
    (c.2.saved.find? (fun x => x.1 == slot && x.2.token == token && !c.2.out && !c.2.gone)).map (fun x => (c.1, x.2)))

/-- Registers from their part of an image: the g granules and the low 0x2800 bytes. -/
def regsOfImage (gs : List Cap) (low : List Byte) : Regs :=
  let at' (off n : Nat) : Nat := ofBytes ((low.drop off).take n)
  let tm := at' 0x260 16
  let r1 := (List.range 64).foldl (fun (r : Regs) i =>
    let c := gs.getD i Cap.null
    r.wg (BitVec.ofNat 6 i) ⟨c.bits, c.tag, natBit tm i⟩) Regs.fresh
  let r2 := (List.range 32).foldl (fun (r : Regs) i => r.wv (BitVec.ofNat 5 i) ⟨BitVec.ofNat 2048 (at' (0x800 + 256 * i) 256), natBit tm (64 + i)⟩) r1
  let r3 := (List.range 8).foldl (fun (r : Regs) i => r.wp (BitVec.ofNat 3 i) ⟨BitVec.ofNat 64 (at' (0x220 + 8 * i) 8), natBit tm (96 + i)⟩) r2
  (List.range 8).foldl (fun (r : Regs) i => r.we (BitVec.ofNat 3 i) ⟨BitVec.ofNat 32 (at' (0x200 + 4 * i) 4), natBit tm (104 + i)⟩) r3

/-- Restores a core section. -/
def loadSect (s : State) (core : Nat) (launch : LaunchId) (bs : List Byte) : State :=
  let at' (off n : Nat) : Nat := ofBytes ((bs.drop off).take n)
  let table (i : Nat) : TableSlot :=
    let t := TableSlot.load (BitVec.ofNat 512 (at' (1088 * i) 64)) (tabulate 256 (fun k => BitVec.ofNat 32 (at' (1088 * i + 64 + 4 * k) 4))) (natBit (at' (0x1100 + 8 * i) 8) 1)
    { t with valid := natBit (at' (0x1100 + 8 * i) 8) 0 }
  s.modCore core (fun k => { k with
    tables := Vector.ofFn (fun i => table i.val)
    channels := Vector.ofFn (fun i => Channel.ofBits (at' (0x1120 + 16 * i.val) 8) (at' (0x11A0 + 16 * i.val) 16))
    chkn := BitVec.ofNat 17 (at' 0x1220 8)
    chkt := BitVec.ofNat 32 (at' 0x1228 8)
    tmmaCount := BitVec.ofNat 64 (at' 0x1230 8)
    away := k.away.filter (fun l => decide (l ≠ launch)) })

/-- Restores a crew section; each record's taint is that of the bytes it was read from. -/
def loadCrew (s : State) (k : CrewId) (bs : List Byte) (events : List EventRec) : State :=
  let at' (off n : Nat) : Nat := ofBytes ((bs.drop off).take n)
  s.modCrew k (fun c => { c with
    lclk := BitVec.ofNat 48 (at' 0 8)
    lawb := csrAddr 6 (BitVec.ofNat 64 (at' 8 8))
    stick := BitVec.ofNat 5 (min 20 (at' 16 8 % 32))
    events := events
    loaded := true })

end State

/-- The header of a save area as LCTX uses it (R408). -/
structure CtxHead where
  bits : Nat
  tiles : List Nat
  shd : Bool
  csec : Bool
  wsec : Bool
deriving DecidableEq, Repr

def CtxHead.ofNat (h : Nat) : CtxHead :=
  ⟨h, (List.range 4).filter (BitVec.ofNat 4 (natBits h 39 36)).getLsbD, natBit h 41, natBit h 16, natBit h 17⟩

/-- Where the core section and the crew section of an image begin, and where the latter ends. -/
def CtxHead.at1 (h : CtxHead) : Nat := 0x3000 + 0x10000 * (h.tiles.length + h.shd.toNat)
def CtxHead.at2 (h : CtxHead) : Nat := h.at1 + (if h.csec then 0x2000 else 0)
def CtxHead.at3 (h : CtxHead) : Nat := h.at2 + (if h.wsec then 0x9000 else 0)

/-- What LCTX reads beyond the low bytes, and the taint of all of it. -/
structure CtxRead where
  pcc : Cap
  gs : List Cap
  data : List Tile
  sect : List Byte
  crew : List Byte
  events : List EventRec
  taint : Bool
deriving DecidableEq, Repr

namespace State

/-- Reads the rest of an image whose header is known. -/
def readImage (s : State) (va : Dword) (h : CtxHead) : Res (CtxRead × State) := do
  let off (n : Nat) : Dword := va + BitVec.ofNat 64 n
  let (pcc, t1, s2) ← s.loadGranule (off 0x40)
  let (gs, t2, s3) ← (List.range 64).foldlM (fun (acc : List Cap × Bool × State) i =>
    (acc.2.2.loadGranule (off (0x400 + 16 * i))).map (fun (c, t, s') => (acc.1 ++ [c], acc.2.1 || t, s'))) ([], t1, s2)
  let (data, t3, s4) ← (List.range (h.tiles.length + h.shd.toNat)).foldlM (fun (acc : List Tile × Bool × State) i =>
    (acc.2.2.readThrough (off (0x3000 + 0x10000 * i)) 0x10000).map (fun r => (acc.1 ++ [tileOfBytes r.1], acc.2.1 || r.2.1, r.2.2))) ([], t2, s3)
  let (sect, t4, s5) ← s4.readThrough (off h.at1) (if h.csec then 0x2000 else 0)
  let (crew, t5, s6) ← s5.readThrough (off h.at2) (if h.wsec then 0x20 else 0)
  let events := if h.wsec then min 1024 (ofBytes (crew.drop 24)) else 0
  let (evs, s7) ← (List.range events).foldlM (fun (acc : List EventRec × State) i =>
    (acc.2.readThrough (off (h.at2 + 0x1000 + 32 * i)) 32).map (fun r => (acc.1 ++ [EventRec.ofNat (ofBytes r.1) r.2.1], r.2.2))) ([], s6)
  return (⟨pcc, gs, data, sect, crew, evs, t3 || t4 || t5 || evs.any (·.taint)⟩, s7)

/-- The strand of an image, HALTED, over what the state kept of it. -/
def strandOfImage (base : Strand) (launch : LaunchId) (h : CtxHead) (low : List Byte) (x : CtxRead) : Strand :=
  let cn := ofBytes ((low.drop 0x160).take 8)
  { base with
    status := .halted
    prior := match natBits h.bits 35 33 with
      | 2 => if base.wait.isSome then .waiting else .ready
      | 3 => .parked
      | _ => .ready
    launch := launch
    pcc := x.pcc
    pccFar := if base.pcc = x.pcc then base.pccFar else none
    regs := regsOfImage x.gs low
    ctr := { base.ctr with l := natBits cn 7 0, s := natBits cn 15 8, c := natBits cn 23 16, t := natBits cn 31 24, mj := natBits cn 47 32 } }

/-- The control registers of an image, written to a slot's strand. -/
def putCsrs (s : State) (slot : Nat) (low : List Byte) : State :=
  s.asSlot slot (fun t =>
    ((ctxCsrs.mapIdx (fun k i => (i, k + 1))) ++ [(0x4000, 16), (0x4001, 17)]).foldl (fun (t : State) (x : Nat × Nat) =>
      (t.csrWrite x.1 (BitVec.ofNat 64 (ofBytes ((low.drop (0x40 + 16 * x.2)).take 8)))).getD t) t)

/-- The tiles and the shadow of an image, for their new owner. -/
def putTiles (s : State) (core : Nat) (o : Owner) (h : CtxHead) (data : List Tile) (kept : Option SavedStrand) : State :=
  let s1 := (h.tiles.zip data).foldl (fun (s : State) x =>
    let tn := natBit h.bits (44 + x.1)
    let due := match kept.bind (fun f => Table.find? f.tiles x.1) with
      | some q => q.due
      | none => tn
    s.modTile core x.1 (fun _ => ⟨some o, x.2, tn, due, (kept.bind (fun f => Table.find? f.tiles x.1)).any (·.leave)⟩)) s
  if h.shd then s1.modShadow core (fun _ =>
      let q := (kept.bind (·.shadow)).getD Shadow.fresh
      { q with owner := some o, acc := natBits h.bits 43 42, data := data.getD h.tiles.length [] }) else s1

/-- Puts a context that has been read into its slot. One that the state does not know takes the place of any that was saved from the slot. -/
def install (s : State) (slot : Nat) (h : CtxHead) (low : List Byte) (x : CtxRead) : State :=
  let core := coreOfSlot slot
  let cl := clusterOfSlot slot
  let found := s.findSaved slot (ofBytes ((low.drop 0x2900).take 1792))
  let launch := (found.map (·.1.launch)).getD ((s.holder s.myPart cl).getD ⟨s.myPart, 0⟩)
  let (serial, s1) := s.nextSerial
  let o : Owner := ⟨slot, (found.map (·.2.strand.born)).getD serial⟩
  let streams := Config.savedStreams ((low.drop 0x2800).take 256)
  let base : Strand := (found.map (·.2.strand)).getD { Strand.fresh with
    born := serial
    streams := Vector.ofFn (fun i => streams.getD i.val none)
    wait := Config.savedWait ((low.drop 0x180).take 128) }
  let s2 := (s1.setStrand slot (strandOfImage base launch h low x)).putCsrs slot low
  let s3 := s2.putTiles core o h x.data (found.map (·.2))
  let s4 := match found with
    | some (k, y) => ((y.cmds.foldl (fun (s : State) c => s.putCmd core c) s3).putSpills cl y.spills).modPlaced k (fun c => { c with
        saved := c.saved.filter (fun z => decide (z ≠ (slot, y))) })
    | none =>
      (((Config.savedQueue ((low.drop 0x2900).take 1792) o).filter (fun c => decide (c.2.owner = o))).foldl (fun (s : State) c => s.putCmd core c) s3).modPlaced
        ⟨launch, cl⟩ (fun c => { c with saved := c.saved.filter (fun z => z.1 != slot) })
  let s5 := if h.csec then s4.loadSect core launch x.sect else s4
  if h.wsec then s5.loadCrew ⟨launch, cl⟩ x.crew x.events else s5

/-- Whether a tile or the shadow that an image needs is taken. -/
def ctxHeld (s : State) (core : Nat) (h : CtxHead) : Bool :=
  h.tiles.any (fun i => (s.tile core i).owner.isSome) || (h.shd && (s.core core).shadow.owner.isSome)

end State

/-- LCTX (R410 to R412). -/
def execLctx (a b : GIdx) (s : State) : Out :=
  fallThrough 4 s (do
    s.needSys
    let t := s.t2 a b
    let slot := ((s.x b).extractLsb' 0 13).toNat
    if (s.strand slot).status ≠ .free ∨ (s.part s.myPart).hasCluster (clusterOfSlot slot) = false then return s.setP7 true t
    else
      let va ← capCheckAt (s.cap a) [0] { r := true } (s.cap a).addr.toNat 0x3000 4096
      let (low, tl, s1) ← s.readThrough va 0x3000
      let h := CtxHead.ofNat (ofBytes (low.take 64))
      if natBits h.bits 15 0 ≠ 0x5343 ∨ natBits h.bits 32 20 ≠ slot ∨ s.ctxHeld (coreOfSlot slot) h = true then return s.setP7 true (t || tl)
      else
        let _ ← capCheckAt (s.cap a) [0] { r := true } (s.cap a).addr.toNat h.at3 4096
        let (x, s2) ← s1.readImage va h
        return (s2.install slot h low x).setP7 false (t || tl || x.taint))

end Sys2Proof.Machine
end

