-- ==== Sys2Proof/Machine/Launch.lean ====
section
/-!
DEFINITION. The launch unit (R312 to R325), the fault and telemetry writers (R337, R401, R417, R418), interrupt vectors (R386,
R389), and dispatch (R29, R329 to R331).
-/
namespace Sys2Proof.Machine

/-! ## Vectors (R386, R389) -/

/-- An event of a vector of a partition: to its VF, held while INTMASK masks it, or to the PF when PVF is 0. Function 0 is the
PF. -/
def State.raiseVec (s : State) (part vec : Nat) : State :=
  let p := s.part part
  let vf := ((p.reg 0x030).extractLsb' 0 7).toNat
  if vf ≠ 0 ∧ (p.reg 0x0A0).getLsbD vec = true then
    s.modPart part (fun p => { p with pendingVec := p.pendingVec ||| BitVec.ofNat 4 (2 ^ vec) })
  else { s with sys := { s.sys with irqs := Table.modify s.sys.irqs (vf, vec) 0 (· + 1) } }

/-- A PF vector. -/
def State.raisePf (s : State) (vec : Nat) : State :=
  { s with sys := { s.sys with irqs := Table.modify s.sys.irqs (0, vec) 0 (· + 1) } }

/-! ## The writers of the two queues (R337, R401, R417, R418) -/

/-- The record of least (TIME, SRC), with its place. -/
def leastOf {α : Type} (key : α → Nat × Nat) : List α → Option (Nat × α)
  | [] => none
  | x :: rest => match leastOf key rest with
    | none => some (0, x)
    | some (i, y) =>
      let a := key x
      let b := key y
      if b.1 < a.1 ∨ (b.1 = a.1 ∧ b.2 < a.2) then some (i + 1, y) else some (0, x)

/-- The 64 bytes of a fault record (R336). -/
def FaultRec.bytes (r : FaultRec) (part seq : Nat) : List Byte :=
  toBytes 8 seq ++ toBytes 8 (1 + 2 * r.parked.toNat + 4 * part) ++
  toBytes 8 (r.asid.toNat * 2 ^ 48 + r.stg.toNat * 2 ^ 32 + r.cause.toNat * 2 ^ 24 + r.src) ++
  toBytes 8 r.time ++ toBytes 8 r.addr.toNat ++ toBytes 8 r.tepc.toNat ++ toBytes 16 r.extra.toNat

/-- Places a record in a queue of 2^(n+6) slots, its VALID as a release at SYSTEM scope; `none` while the slot is occupied. -/
def State.placeRecordAt (s : State) (queue : Dword) (part : Nat) (seq : Dword) (r : FaultRec) : Option State :=
  let base := (queue.extractLsb' 12 36).toNat * 4096
  let slot := base + 64 * (seq.toNat % 2 ^ ((queue.extractLsb' 0 4).toNat + 6))
  if (s.mem.byte (slot + 8)).getLsbD 0 then none
  else some ((s.writeHome (.mem slot) (r.bytes part seq.toNat) false).unitSync 6 .system (.mem (slot + 8)))

/-- Whether the hold of a record that has waited at its writer since a time has ended: 2 µs, in which one of a lesser key can overtake
it (R337, R418, R428). -/
def State.holdOver (s : State) (since : Nat) : Bool := decide (since + 2000 ≤ s.nowNat)

/-- FAULT_RECORD_PLACE: once the hold of a waiting record has ended, the least waiting record is placed; partition 64 names the system
fault queue (R388). -/
def execFaultRecordPlace (part : Nat) (s : State) : Out :=
  event s (
    if part = 64 then
      let q := s.sys.regs.getD 0x0060 0
      match leastOf (fun (x : FaultRec × Nat × Nat) => (x.1.time, x.1.src)) s.sys.faults with
      | some (i, r, _, p) =>
        if q.extractLsb' 12 36 = 0 ∨ s.sys.faults.any (fun x => s.holdOver x.2.1) = false then none
        else (s.placeRecordAt q p s.sys.faultSeq r).map (fun s1 =>
          State.raisePf { s1 with sys := { s1.sys with faults := listDrop s1.sys.faults i, faultSeq := s1.sys.faultSeq + 1 } } 0)
      | none => none
    else
      let p := s.part part
      match leastOf (fun (x : FaultRec × Nat) => (x.1.time, x.1.src)) p.faults with
      | some (i, r, _) =>
        if p.state = 0 ∨ p.faults.any (fun x => s.holdOver x.2) = false then none
        else (s.placeRecordAt (p.reg 0x088) part p.faultSeq r).map (fun s1 =>
          (s1.modPart part (fun p => { p with faults := listDrop p.faults i, faultSeq := p.faultSeq + 1 })).raiseVec part 0)
      | none => none)

/-- TELEMETRY_RECORD_PLACE: once the hold of an accepted record has ended, the least accepted record goes to the slot reserved for it, its VALID as a release at SYSTEM scope. -/
def execTelemetryRecordPlace (part : Nat) (s : State) : Out :=
  let p := s.part part
  event s (match leastOf (fun (x : TelRec) => (x.time, x.src)) p.tel with
    | some (i, r) =>
      if !p.tel.any (fun r => s.holdOver r.time) then none else
      let slot := s.telSlot part p.telSeq.toNat
      let s1 := s.writeHome (.mem slot) (toBytes 32 r.bits.toNat) r.taint
      let s2 := s1.writeHome (.mem (slot + 32)) (toBytes 32 (p.telSeq.toNat * 2 ^ 32 + 256 + r.type.toNat)) false |>.unitSync 6 .system (.mem (slot + 32))
      some (s2.modPart part (fun p => { p with tel := listDrop p.tel i, telSeq := p.telSeq + 1 }))
    | none => none)

/-! ## Launch records (R312, R313) -/

/-- A kind-0 capability with exact bounds and an address, with the least exponent that holds them (R51). -/
def exactCap (base len addr : Nat) (perms : BitVec 12) : Option Cap :=
  let top := base + len
  if 2 ^ 64 < top then none
  else
    ((List.range 48).find? (fun e =>
      let g := 2 ^ e
      let k := addr / g
      base % g == 0 && top % g == 0 && decide (-(2 ^ 15) ≤ (k : Int) - (base / g : Nat)) && decide ((k : Int) - (base / g : Nat) < 2 ^ 15) &&
      decide (-(2 ^ 15) ≤ ((top / g : Nat) : Int) - k) && decide (((top / g : Nat) : Int) - k < 2 ^ 15))).map (fun e =>
      let g := 2 ^ e
      let k := addr / g
      ⟨Cap.make (BitVec.ofNat 6 e) (BitVec.ofInt 16 ((k : Int) - (base / g : Nat))) (BitVec.ofInt 16 (((top / g : Nat) : Int) - k)) 0 0 perms
        (BitVec.ofNat 64 addr), true⟩)

/-- A field of a launch record. -/
def recField (v hi lo : Nat) : Nat := natBits v hi lo

namespace State

/-- Whether an ASID and a root are a registered pair (R389 ATAB). -/
def registered (s : State) (part : Nat) (asid : Nat) (root : Nat) : Bool :=
  let a := (s.part part).reg 0x070
  let base := (a.extractLsb' 12 36).toNat * 4096
  (List.range (a.extractLsb' 0 8).toNat).any (fun i => s.mem.nat (base + 16 * i) 2 == asid && s.mem.nat (base + 16 * i + 8) 8 == root)

/-- The place a unit of the device reaches under an address space, with supervisor privilege, past the TLBs; `none` while the
leaf migrates (R144). -/
def unitPlace (s : State) (c : Ctx) (a : Acc) (va : Dword) (align : Nat) : Except (BitVec 8) (Option Loc) :=
  if va.toNat % align ≠ 0 then .error 0x08
  else if inScratchRange va.toNat then .error 0x07
  else
    match s.walk c (va.toNat % 2 ^ 48) with
    | .error (cause, _) => .error cause
    | .ok (size, pte) =>
      if leafAllows c a false pte = false then .error 0x07
      else
        match s.placeOf c a va (leafAddr size pte (va.toNat % 2 ^ 48)) pte with
        | .error (.trap cause _ _) => .error cause
        | .error _ => .ok none
        | .ok loc => if a.writes = true ∧ Pte.m pte = true then .ok none else .ok (some loc)

/-- n bytes that a unit reads through a translation, one 64-B piece at a time. -/
def unitRead (s : State) (c : Ctx) (va : Dword) (n : Nat) : Option (List Byte) :=
  (List.range (n / 64)).foldlM (fun (acc : List Byte) i =>
    match s.unitPlace c .engineRead (va + BitVec.ofNat 64 (64 * i)) 64 with
    | .ok (some loc) => (s.readHome loc 64).map (fun g => acc ++ g.bytes)
    | _ => none) []

/-- Writes a launch's status word, a release at SYSTEM scope, and raises vector 1; a write that faults leaves a record instead (R315, R316). `none`: the write
has to wait for a migrating leaf. -/
def writeLaunchStatus (s : State) (part : Nat) (asid : BitVec 16) (root : Nat) (va : Dword) (qidx ringer word : Nat) : Option State :=
  if va = 0 then some s
  else
    let p := s.part part
    let c := if s.registered part asid.toNat root then unitCtx part asid (BitVec.ofNat 36 (root / 4096))
      else unitCtx part ((p.reg 0x060).extractLsb' 0 16) ((p.reg 0x068).extractLsb' 12 36)
    match s.unitPlace c .engineWrite va 8 with
    | .ok none => none
    | .ok (some loc) => some (((s.writeHome loc (toBytes 8 word) false).unitSync 6 .system loc).raiseVec part 1)
    | .error cause =>
      some ((s.postFault part {
        extra := BitVec.ofNat 128 (word + 2 ^ 64 * qidx)
        tepc := 0
        addr := va
        time := s.nowNat
        asid := c.asid
        stg := 0
        cause := cause
        src := ringer
        parked := false }).raiseVec part 1)

def launchStatus (s : State) (l : Launch) (word : Nat) : Option State :=
  s.writeLaunchStatus l.id.part l.asid (l.root.toNat * 4096) l.doneVa l.qidx l.ringer word

/-- The descriptor of a CHN launch, valid or not. -/
def launchDesc (s : State) (part : Nat) (asid : BitVec 16) (root : BitVec 36) (va : Dword) : Option ChainDesc :=
  (s.unitRead (unitCtx part asid root) va 256).map (fun bs => ChainDesc.ofNat (ofBytes bs))

/-- The least reason of R313 that rejects a record, or none. -/
def rejectReason (s : State) (part qidx v : Nat) : Option Nat :=
  let f := recField v
  let ndep := f 47 44
  let code := exactCap (f 191 128) (f 255 192) (f 127 64) 0x005
  let frame := if f 383 320 = 0 then some Cap.null else exactCap (f 319 256) (f 383 320) (f 319 256) 0x09B
  let asid : BitVec 16 := BitVec.ofNat 16 (f 399 384)
  let root := f 511 448
  if f 1023 960 ≠ 0 ∨ f 447 400 ≠ 0 ∨ f 63 48 ≠ 0 ∨ f 35 35 ≠ 0 ∨ root % 4096 ≠ 0 ∨ 2 ^ 48 ≤ root ∨ f 31 0 = 0 ∨ 4 < ndep ∨
      (List.range 4).any (fun i => decide (ndep ≤ i) && f (703 + 64 * i) (640 + 64 * i) != 0) = true then some 1
  else if s.registered part asid.toNat root = false then some 2
  else if code.isNone = true ∨ frame.isNone = true ∨ f 127 64 < f 191 128 ∨ f 191 128 + f 255 192 ≤ f 127 64 ∨ f 127 64 % 2 ≠ 0 then some 3
  else if natBit v 43 = true ∧ (f 34 32 ≠ 0 ∨ f 39 36 ≠ 0 ∨
      (s.launchDesc part asid (BitVec.ofNat 36 (root / 4096)) (BitVec.ofNat 64 (f 575 512))).any (·.valid) = false) then some 4
  else if (s.part part).launches.any (fun l => l.qidx == qidx && l.state != .ended) then some 6
  else if f 959 896 % 8 ≠ 0 then some 7
  else none

/-- The launch an accepted record makes. -/
def launchOf (part age qidx source v : Nat) : Launch :=
  let f := recField v
  { id := ⟨part, age⟩
    qidx := qidx
    ringer := source
    state := if f 47 44 = 0 then .ready else .waitDep
    ncrew := f 31 0
    tm1 := f 34 32
    sm1 := f 39 36
    pri := f 41 40
    dmode := natBit v 42
    chn := natBit v 43
    asid := BitVec.ofNat 16 (f 399 384)
    root := BitVec.ofNat 36 (f 511 448 / 4096)
    code := (exactCap (f 191 128) (f 255 192) (f 127 64) 0x005).getD Cap.null
    frame := if f 383 320 = 0 then Cap.null else (exactCap (f 319 256) (f 383 320) (f 319 256) 0x09B).getD Cap.null
    deps := tabulate (f 47 44) (fun i => BitVec.ofNat 64 (f (703 + 64 * i) (640 + 64 * i)))
    seen := List.replicate (f 47 44) none
    chdesc := BitVec.ofNat 64 (f 575 512)
    chsave := BitVec.ofNat 64 (f 639 576)
    doneVa := BitVec.ofNat 64 (f 959 896)
    crews := [] }

/-- A doorbell (R314): the record is read, an acquire at SYSTEM scope, and validated, and its launch made or refused. `none`: a status write has to wait. -/
def ringDoorbell (s : State) (part qidx source : Nat) : Option State :=
  let p := s.part part
  let lqb := p.reg 0x038
  if p.state = 0 ∨ 2 ^ ((lqb.extractLsb' 0 4).toNat + 4) ≤ qidx then some (s.count part 0x338 1)
  else
    let at' := (lqb.extractLsb' 12 36).toNat * 4096 + 128 * qidx
    match s.homeFault part (.mem at') 128 with
    | some cause =>
      some ((s.count part 0x338 1).postFault part {
        extra := BitVec.ofNat 128 (2 ^ 64 * qidx)
        tepc := 0
        addr := BitVec.ofNat 64 at'
        time := s.nowNat
        asid := 0
        stg := 0
        cause := cause
        src := source
        parked := false })
    | none =>
      let v := s.mem.nat at' 128
      let s1 := (s.unitSync 6 .system (.mem at')).modPart part (fun p => { p with ages := p.ages + 1 })
      match s.rejectReason part qidx v with
      | some reason =>
        s1.writeLaunchStatus part (BitVec.ofNat 16 (recField v 399 384)) (recField v 511 448) (BitVec.ofNat 64 (recField v 959 896)) qidx source (4 + 256 * reason)
      | none =>
        let l := launchOf part p.ages qidx source v
        (s1.modPart part (fun p => { p with launches := p.launches ++ [l] })).launchStatus l 1

end State

/-- DOORBELL. -/
def execDoorbell (part qidx source : Nat) (s : State) : Out := event s (s.ringDoorbell part qidx source)

/-- The state as a strand of a partition's standing launch would see it: for the units that look handles up. -/
def State.asPart (s : State) (part : Nat) : State := s.modMe (fun m => { m with launch := ⟨part, 0⟩ })

/-- How the launch unit finds a dependence: unresolved, or fulfilled or not; an entry of another device answers freely (log
entry 51). -/
def State.depState (s : State) (part : Nat) (id : Dword) (free : Nat) : Option Bool :=
  match (s.asPart part).handleView id with
  | .stale => some false
  | .remote => if free % 3 = 0 then none else some (decide (free % 3 = 1))
  | .here _ _ h => match h.state with
    | .fulfilled => some true
    | .broken => some false
    | _ => none

/-- DEPENDENCE_RESOLVED: the launch unit observes some of the dependences, which is free, and keeps what it finds; once every one has
resolved the launch is READY or rejected (R318). -/
def execDependenceResolved (part age : Nat) (s : State) : Out :=
  event s (match s.launch? ⟨part, age⟩ with
    | none => none
    | some l =>
      if l.state ≠ .waitDep then none
      else
        let (n, s0) := s.draw
        let seen := l.deps.mapIdx (fun i id => match (l.seen.getD i none) with
          | some b => some b
          | none => if natBit n i then s.depState part id (n / (16 * 3 ^ i)) else none)
        let s1 := s0.modLaunch l.id (fun l => { l with seen := seen })
        if seen.any (·.isNone) then some s1
        else if seen.any (· == some false) then
          (s1.launchStatus l (4 + 256 * 5)).map (fun s2 => s2.modPart part (fun p => { p with launches := p.launches.filter (fun q => decide (q.id ≠ l.id)) }))
        else some (s1.modLaunch l.id (fun l => { l with state := .ready })))

/-! ## Placement (R319, R320, R323) -/

/-- A crew that waits to be placed: one of a launch, halted or not yet placed, with its ordering key (R320). -/
structure Candidate where
  launch : LaunchId
  index : Nat
  out : Bool
  pri : Nat
deriving DecidableEq, Repr

def Candidate.before (a b : Candidate) : Bool :=
  decide (a.pri < b.pri) || (a.pri == b.pri && (decide (a.launch.age < b.launch.age) || (a.launch.age == b.launch.age &&
    ((a.out && !b.out) || (a.out == b.out && decide (a.index < b.index))))))

/-- The clusters of a partition by mesh number: row-major order of the rectangle (R18). -/
def Part.rowMajor (p : Part) : List Nat :=
  (List.range 64).filterMap (fun k => if p.bitmap.getLsbD k then (List.range 64).find? (fun c => meshOf c == k) else none)

/-- The membership bitmap of a rectangle (R389). -/
def rectMap (r : Nat) : Dword :=
  BitVec.ofNat 64 (((List.range 64).filter (fun k =>
    decide (natBits r 2 0 ≤ k % 8) && decide (k % 8 ≤ natBits r 18 16) && decide (natBits r 10 8 ≤ k / 8) && decide (k / 8 ≤ natBits r 26 24))).foldl
    (fun n k => n + 2 ^ k) 0)

/-- A cluster that a resize is taking away (R392). -/
def Part.leaving (p : Part) (cluster : Nat) : Bool := match p.resize with
  | some r => p.hasCluster cluster && !(rectMap r.rect).getLsbD (meshOf cluster)
  | none => false

/-- The least unplaced crew index from a first one, by steps. -/
def Launch.unplaced (l : Launch) (first step : Nat) : Option Nat :=
  ((List.range (l.crews.length + 1)).map (fun i => first + step * i)).find? (fun c => decide (c < l.ncrew) && !l.crews.any (fun q => q.index == c))

namespace State

/-- The clusters that no launch holds and that may take a placement, by mesh number. -/
def freeClusters (s : State) (part : Nat) : List Nat :=
  let p := s.part part
  p.rowMajor.filter (fun cl => (s.holder part cl).isNone && !p.leaving cl)

/-- The candidates that suit a cluster, were it free and, for DMODE = 0, the lowest free one. -/
def candidatesFor (s : State) (part cl : Nat) : List Candidate :=
  let p := s.part part
  let order := p.rowMajor
  p.launches.flatMap (fun l =>
    if l.state = .ready ∨ l.state = .running then
      (l.crews.filter (fun c => c.out && c.cluster == cl)).map (fun c => ⟨l.id, c.index, true, l.pri⟩) ++
      (match if l.dmode then l.unplaced (order.idxOf cl) order.length else l.unplaced 0 1 with
       | some c => [⟨l.id, c, false, l.pri⟩]
       | none => [])
    else [])

/-- The slots a candidate needs on a cluster (R23, R319). -/
def candidateSlots (s : State) (c : Candidate) (cl : Nat) : List Nat :=
  match s.launch? c.launch with
  | none => []
  | some l =>
    if c.out then (l.crews.filter (fun q => q.index == c.index && q.out)).flatMap (fun q => q.saved.map (·.1))
    else if l.chn then
      let n := ((s.launchDesc c.launch.part l.asid l.root l.chdesc).map (·.stages.length)).getD 0
      tabulate n (fun j => 4 * (32 * cl + j))
    else (List.range (l.tm1 + 1)).flatMap (fun t => tabulate (l.sm1 + 1) (fun k => 4 * (32 * cl + 4 * t + k % 4) + k / 4))

/-- The candidate that a free cluster goes to. A crew of a DMODE = 0 launch that has not been placed suits only the lowest free
cluster. -/
def bestFor (s : State) (part cl : Nat) : Option Candidate :=
  let lowest := (s.freeClusters part).head? == some cl
  let l := (s.candidatesFor part cl).filter (fun c => c.out || lowest || s.dmode c.launch)
  l.foldl (fun best c => match best with
    | some b => if c.before b then some c else best
    | none => some c) none

/-- Slots that a waiting placement keeps a cluster's dispatchers from (R319). -/
def claimed (s : State) (part slot : Nat) : Bool :=
  let cl := clusterOfSlot slot
  (s.freeClusters part).contains cl && (match s.bestFor part cl with
    | some c => (s.candidateSlots c cl).contains slot
    | none => false)

/-- The launch coordinates of g4 (R23). -/
def coords (crew team strand : Nat) : GReg := ⟨BitVec.ofNat 128 (crew * 2 ^ 16 + team * 16 + strand), false, false⟩

/-- A strand of launch expansion (R27, R28). -/
def launchStrand (s : State) (l : Launch) (pcc : Cap) (g4 : GReg) : Strand :=
  { Strand.fresh with
    regs := (Regs.fresh.wg 3 ⟨l.frame.bits, l.frame.tag, false⟩).wg 4 g4
    pcc := pcc
    csr := s.freshCsr l.id
    launch := l.id }

/-- Places a candidate's crew on a cluster: held, then its strands made together; `none` when a chain does not bind. The calendar entries, arming
records and regions that an earlier crew of the launch left on the cluster are this crew's (log entry 133). -/
def placeCrew (s : State) (c : Candidate) (cl : Nat) : Option State :=
  match s.launch? c.launch with
  | none => none
  | some l =>
    if c.out then some (s.restoreCrew c.launch c.index)
    else
      let new : Placed := ⟨c.index, cl, s.nowNat, none, false, false, false, false, [], []⟩
      let s1 := (s.modLaunch l.id (fun l => { l with crews := l.crews ++ [new], state := .running })).modCrew ⟨l.id, cl⟩ (fun _ => Crew.fresh)
      let made : Option State :=
        if l.chn then
          match s1.launchDesc l.id.part l.asid l.root l.chdesc with
          | none => none
          | some d =>
            let mk (j : Nat) : Strand :=
              let entry := (d.stages.getD j ⟨0, false, 0, 0, 0, 0, 0⟩).entry
              (s1.launchStrand l l.code (coords c.index 0 j)).setPc (BitVec.ofNat 64 (l.code.base + entry))
            (s1.bindChain cl d 2 0 l.chdesc.toNat (l.chsave + BitVec.ofNat 64 (c.index * d.saveSize))
              ⟨l.asid, l.root, false, 128 * cl, l.id.part, l.dmode, 0⟩ l.id true mk).toOption
        else
          some ((List.range (l.tm1 + 1)).foldl (fun (s : State) t =>
            (List.range (l.sm1 + 1)).foldl (fun (s : State) k =>
              s.createStrand (4 * (32 * cl + 4 * t + k % 4) + k / 4) (s.launchStrand l l.code (coords c.index t k))) s) s1)
      if l.state = .ready then made.bind (fun s2 => s2.launchStatus l 2) else made

end State

/-- CREW_PLACE: the first free cluster whose candidate's slots are FREE takes its crew. A halted crew that comes back takes its
records' channels only when no exited strand's copy is left on its cores. -/
def execCrewPlace (part : Nat) (s : State) : Out :=
  event s ((s.freeClusters part).findSome? (fun cl =>
    match s.bestFor part cl with
    | none => none
    | some c =>
      let slots := s.candidateSlots c cl
      let quiet := !c.out || slots.all (fun q =>
        let k := s.core (coreOfSlot q)
        k.copies.isEmpty && !k.queue.any (fun x => match x with
          | .copy _ => true
          | _ => false))
      if slots.all (fun q => (s.strand q).status == .free) && quiet then s.placeCrew c cl else none))

/-! ## Pre-emption by the launch unit (R322) -/

namespace State

/-- The candidates of a partition that no free cluster suits, in their order, with the clusters that would suit them. -/
def waitingCandidates (s : State) (part : Nat) : List (Candidate × List Nat) :=
  let p := s.part part
  let free := s.freeClusters part
  let cls := p.rowMajor.filter (fun cl => !p.leaving cl)
  let all := (cls.flatMap (fun cl => s.candidatesFor part cl)).eraseDups
  let suits (c : Candidate) : List Nat := cls.filter (fun cl => (s.candidatesFor part cl).contains c)
  (all.filter (fun c => !(suits c).any free.contains)).map (fun c => (c, suits c))

/-- The crews that stand on some clusters and that nothing halts, with their launches. -/
def runningOn (s : State) (part : Nat) (cls : List Nat) : List (Launch × Placed) :=
  (s.part part).launches.flatMap (fun l => (l.crews.filter (fun c =>
    cls.contains c.cluster && !c.gone && !c.out && !c.halted && c.halting.isNone)).map (fun c => (l, c)))

/-- Whether a pre-emption for a candidate is under way. -/
def beingServed (s : State) (part : Nat) (c : Candidate) : Bool :=
  (s.part part).launches.any (fun l => l.crews.any (fun q => q.halting.any (fun h => h.cand == some (c.launch.age, c.index))))

/-- The youngest launch's highest-numbered crew. -/
def youngest (l : List (Launch × Placed)) : Option (Launch × Placed) :=
  l.foldl (fun best x => match best with
    | none => some x
    | some b => if b.1.id.age < x.1.id.age ∨ (b.1.id.age = x.1.id.age ∧ b.2.index < x.2.index) then some x else best) none

def haltFor (s : State) (c : Candidate) (x : Launch × Placed) : State :=
  s.askHalt ⟨x.1.id, x.2.cluster⟩ (s.srcNum 5 18) (some (c.launch.age, c.index))

end State

/-- PRIORITY_PREEMPT: a waiting candidate of priority 0 pre-empts a crew of priority 3. -/
def execPriorityPreempt (part : Nat) (s : State) : Out :=
  event s ((s.waitingCandidates part).findSome? (fun (c, cls) =>
    if c.pri ≠ 0 ∨ s.beingServed part c = true then none
    else (State.youngest ((s.runningOn part cls).filter (fun x => x.1.pri == 3))).map (s.haltFor c)))

/-- QUANTUM_EXPIRY: a crew that has held its cluster for a quantum goes, for a waiting candidate of equal or lower PRI. -/
def execQuantumExpiry (part : Nat) (s : State) : Out :=
  let q := (((s.part part).reg 0x058).extractLsb' 0 32).toNat * 1000
  event s (if q = 0 then none
    else (s.waitingCandidates part).findSome? (fun (c, cls) =>
      if s.beingServed part c then none
      else
        let due := (s.runningOn part cls).filter (fun x => decide (x.2.since + q ≤ s.nowNat) && decide (c.pri ≤ x.1.pri))
        let first := due.foldl (fun m x => min m x.2.since) s.nowNat
        (State.youngest (due.filter (fun x => x.2.since == first))).map (s.haltFor c)))

/-! ## The end of a launch (R324) -/

namespace State

/-- Whether everything of a launch has exited. -/
def launchOver (s : State) (l : Launch) : Bool :=
  l.state == .running && l.crews.length == l.ncrew && l.crews.all (·.gone) &&
  !s.allStrands.any (fun e => e.2.status != .free && decide (e.2.launch = l.id)) &&
  !s.cores.any (fun c => c.2.ring.any (fun r => decide (r.launch = some l.id)))

/-- DROP on every handle whose invoker belonged to a launch (R298): a resolved entry becomes FREE at once. -/
def dropHandles (s : State) (k : LaunchId) : State :=
  (s.part k.part).entries.foldl (fun (s : State) e =>
    if e.2.invkLaunch ≠ k ∨ e.2.state = .free then s else s.dropAt k.part e.1 e.2) s

/-- What leaves with a launch: its chains, its regions, the pins of its pages (log entry 56). -/
def clearLaunch (s : State) (l : Launch) : State :=
  { s with
    chains := s.chains.map (fun e => (e.1, e.2.filter (fun c => decide (c.launch ≠ l.id))))
    regions := s.regions.map (fun e => (e.1, e.2.filter (fun r => decide (r.arm.crew.launch ≠ l.id))))
    cores := s.cores.map (fun e =>
      if l.crews.any (fun c => c.cluster == clusterOfCore e.1) then
        (e.1, { e.2 with pages := e.2.pages.map (fun p => if p.asid = l.asid then { p with pinned := false, explicit := false } else p) })
      else e) }

/-- Ends a launch; `none` while its status write has to wait. -/
def endLaunch (s : State) (l : Launch) : Option State :=
  let s1 := ((s.modLaunch l.id (fun l => { l with state := .ended })).dropHandles l.id).clearLaunch l
  s1.launchStatus l 3

end State

/-- LAUNCH_END. -/
def execLaunchEnd (part age : Nat) (s : State) : Out :=
  event s (match s.launch? ⟨part, age⟩ with
    | some l => if s.launchOver l then s.endLaunch l else none
    | none => none)

/-! ## Dispatch (R29, R329 to R331) -/

namespace State

/-- Whether a record's hint counts as present at the probe: its line may or may not be in its home slice (log entry 20). -/
def hintPresent (s : State) (part : Nat) (k : LaunchId) (r : TaskRec) (free : Bool) : Bool :=
  if r.hint = 0 then false
  else
    let (asid, root) := s.spaceOf k
    match s.walk (unitCtx part asid root) (r.hint.toNat % 2 ^ 48) with
    | .error _ => false
    | .ok (size, pte) =>
      let pa := leafAddr size pte (r.hint.toNat % 2 ^ 48)
      free && s.layerPresent part pa

/-- Which record of a segment residency order takes, and the segment after the take (R330). -/
def residencyTake (q : List TaskRec) (present : Nat → TaskRec → Bool) : Option (TaskRec × List TaskRec) :=
  match q with
  | [] => none
  | first :: _ =>
    let head := q.take 8
    let i := if first.byp = 8 then 0 else (((List.range head.length).find? (fun i => match head[i]? with
      | some r => present i r
      | none => false)).getD 0)
    (q[i]?).map (fun r => (r, (q.take i).map (fun x => { x with byp := x.byp + 1 }) ++ q.drop (i + 1)))

/-- Takes the oldest record that a test allows. -/
def takeFirst (q : List TaskRec) (ok : TaskRec → Bool) : Option (TaskRec × List TaskRec) :=
  (q.findIdx? ok).bind (fun i => (q[i]?).map (fun r => (r, listDrop q i)))

def setSegment (s : State) (part k : Nat) (q : List TaskRec) : State :=
  s.modPart part (fun p => { p with segments := Table.set p.segments k q })

/-- The first record that the sources of R329 yield to a slot. -/
def takeRecord (s : State) (part slot : Nat) : Option (TaskRec × State) :=
  let core := coreOfSlot slot
  let cl := clusterOfCore core
  match s.popRing core with
  | some x => some x
  | none =>
    let p := s.part part
    let (n, s1) := s.draw
    let k : LaunchId := (s.holder part cl).getD ⟨part, 0⟩
    let home := 2 * cl + ringOfCore core % 2
    let other := 2 * cl + 1 - ringOfCore core % 2
    let near (sl : Nat) : Option (TaskRec × State) :=
      (residencyTake (p.segments.getD sl []) (fun i r => s.hintPresent part k r (natBit n i))).map (fun (r, q) => (r, s1.setSegment part sl q))
    let far (sl : Nat) : Option (TaskRec × State) :=
      (takeFirst (p.segments.getD sl []) (fun r => !(decide (r.key.toNat < 64) && p.hasCluster r.key.toNat && r.key.toNat != cl))).map
        (fun (r, q) => (r, s1.setSegment part sl q))
    let rest := p.slices.filter (fun sl => decide (sl / 2 ≠ cl))
    (near home).orElse (fun _ => (near other).orElse (fun _ => (rest.filter (home < ·) ++ rest.filter (· < home)).findSome? far))

/-- Starts a record's strand in a slot, or posts the record of a code capability that fails its check (R27, R29, R293). -/
def startRecord (s : State) (part slot : Nat) (r : TaskRec) : State :=
  let cl := clusterOfSlot slot
  let k : LaunchId := match r.launch with
    | some k => k
    | none => (s.holder part cl).getD ⟨part, 0⟩
  match r.check with
  | .error cause =>
    s.postFault part {
      extra := if cause = 0x01 then 0 else (r.code.bits.extractLsb' 64 64).setWidth 128
      tepc := r.code.addr
      addr := r.code.addr
      time := s.nowNat
      asid := (s.spaceOf k).1
      stg := 0
      cause := cause
      src := s.strandSrc slot
      parked := false }
  | .ok code =>
    let regs := Regs.fresh.wg 3 ⟨r.frame.bits, r.frame.tag, r.frameTaint⟩
    let regs := match r.callee with
      | none => regs.wg 4 ⟨BitVec.ofNat 128 (r.jaddr.toNat + 2 ^ 64 * r.key.toNat), false, false⟩
      | some c =>
        let h := calleeCap c.handle
        (c.args.zipIdx).foldl (fun (g : Regs) (x : GReg × Nat) => g.wg (BitVec.ofNat 6 (8 + x.2)) (x.1.arrive c.fromCluster (coreOfSlot slot)))
          (regs.wg 4 ⟨h.bits, h.tag, false⟩)
    let s1 := s.createStrand slot { Strand.fresh with regs := regs, pcc := code, csr := s.freshCsr k, launch := k }
    match r.callee with
    | none => s1
    | some c =>
      match (s1.asPart part).handleView c.handle with
      | .here pi serial h => if h.unresolved then s1.setEntry pi serial { h with resp := some (⟨slot, (s1.strand slot).born⟩, 0) } else s1
      | _ => s1

/-- A FREE slot looks for a record. -/
def dispatchTo (s : State) (slot : Nat) : Option State :=
  if (s.strand slot).status ≠ .free ∨ 8192 ≤ slot then none
  else
    match s.partOfCluster (clusterOfSlot slot) with
    | none => none
    | some part =>
      let p := s.part part
      if s.noDispatch slot || s.claimed part slot || (p.resize.any (·.cleared) && p.leaving (clusterOfSlot slot)) then none
      else (s.takeRecord part slot).map (fun (r, s1) => s1.startRecord part slot r)

end State

/-- DISPATCH. -/
def execDispatch (slot : Nat) (s : State) : Out := event s (s.dispatchTo slot)

/-- DISPATCH_RETRY: the try that comes every 64 cycles; cycles are not counted (log entry 1). -/
def execDispatchRetry (slot : Nat) (s : State) : Out := event s (s.dispatchTo slot)

end Sys2Proof.Machine
end

