-- ==== Sys2Proof/Machine/Boot.lean ====
section
/-!
DEFINITION. Boot, attestation and firmware update (R379 to R385, R423, R424).
-/
namespace Sys2Proof.Machine

/-! ## Images (R379 to R382) -/

/-- What an erased byte of the flash reads as (log entry 24). -/
def flashErased : Byte := 0xFF

def Sys.flashBytes (y : Sys) (off n : Nat) : List Byte := bytesGet flashErased y.flash off n

/-- An accepted image: its kind, its version, its payload, and all of it with its signatures (R380). -/
structure Image where
  kind : Nat
  version : Nat
  payload : List Byte
  whole : List Byte
deriving DecidableEq, Repr

/-- The minimum version of a kind (R381). -/
def Sys.minimum (y : Sys) (kind : Nat) : Nat := Table.getD y.rpmc kind 0

/-- An image in a place of `size` bytes (R380, R381): accepted, or the reason of R383 that keeps it out. The checks run in the
order header, ECDSA, LMS, rollback (log entry 58). -/
def verifyImage (read : Nat → Nat → List Byte) (size : Nat) (kinds : List Nat) (pairs : List Config.KeyPair) (least : Nat → Nat) :
    Except Nat Image :=
  let h := ofBytes (read 0 64)
  let kind := natBits h 95 64
  let len := natBits h 127 96
  let sig := ceilDiv (64 + len) 16 * 16
  if size < 64 ∨ natBits h 31 0 ≠ 0x534B494D ∨ kinds.contains kind = false ∨ natBits h 511 256 ≠ 0 ∨ len ≤ natBits h 255 192 ∨
      size < sig + 1716 then .error 4
  else
    let msg := read 0 (64 + len)
    let ec := read sig 96
    let lms := read (sig + 96) 1620
    if pairs.any (fun k => Config.ecdsaVerifies k.1 msg ec && Config.lmsVerifies k.2 msg lms) then
      if natBits h 63 32 < least kind then .error 3 else .ok ⟨kind, natBits h 63 32, msg.drop 64, read 0 (sig + 1716)⟩
    else if pairs.any (fun k => Config.ecdsaVerifies k.1 msg ec) then .error 2
    else .error 1

/-- The same in the flash; a read of the flash may fail (reason 5). -/
def Sys.flashImage (y : Sys) (off size : Nat) (kinds : List Nat) (pairs : List Config.KeyPair) (unreadable : Bool) : Except Nat Image :=
  if unreadable then .error 5 else verifyImage (fun o n => y.flashBytes (off + o) n) size kinds pairs y.minimum

/-! ## The three stages (R382) -/

/-- What a module reset leaves in place: the flash and its counters, memory, and the model's own counters (log entry 59). -/
def State.restarted (s : State) : State :=
  { State.reset with
    agenda := s.agenda
    turn := s.turn
    draws := s.draws
    serial := s.serial
    mem := s.mem
    hostMem := s.hostMem
    sys := { Sys.fresh with flash := s.sys.flash, rpmc := s.sys.rpmc, replaced := s.sys.replaced } }

/-- An LMS state record (R384): the next unused index, the RPMC counter's value, and the identity key's ECDSA signature of the two. The manual
gives it no layout and no place (log entry 122). -/
def lmsRecordBytes (index counter : Nat) : List Byte :=
  let m := toBytes 4 index ++ toBytes 8 counter
  m ++ toBytes 96 (Config.identitySignature m)

/-- What bytes say as an LMS state record, if they are a valid one. -/
def lmsRecordRead (bs : List Byte) : Option (Nat × Nat) :=
  let m := bs.take 12
  let sig := (bs.drop 12).take 96
  if sig = toBytes 96 (Config.identitySignature m) ∨ Config.identityVerifies m sig = true then some (ofBytes (m.take 4), ofBytes (m.drop 4)) else none

/-- Where an LMS state record stands in the flash, within the identity data (R379). -/
def lmsRecordAt (second : Bool) : Nat := 0x820000 + Config.lmsRecordOffset % 0x1FF00 + 128 * second.toNat

/-- The valid LMS state record whose counter equals the RPMC value, with its index (R384). -/
def Sys.lmsRecord (y : Sys) : Option (Bool × Nat) :=
  [false, true].findSome? (fun b =>
    (lmsRecordRead (y.flashBytes (lmsRecordAt b) 108)).bind (fun r => if r.2 = Table.getD y.rpmc 0 0 then some (b, r.1) else none))

/-- Uses up an index: the RPMC counter rises, and the other record takes the next index and the new counter (R384). -/
def Sys.lmsAdvance (y : Sys) : Sys :=
  let c := Table.getD y.rpmc 0 0 + 1
  { y with
    rpmc := Table.set y.rpmc 0 c
    flash := bytesSet flashErased y.flash (lmsRecordAt (!y.lmsSecond)) (lmsRecordBytes (y.lmsIndex + 1) c)
    lmsSecond := !y.lmsSecond
    lmsIndex := y.lmsIndex + 1 }

/-- RESET: the machine is as after reset, and stage 0 reads copy A of the first stage, then copy B, keeps the hash of the copy it loads
(R385), and takes the LMS state (R384). -/
def execReset (s : State) : Out :=
  let (n, s1) := s.restarted.draw
  let y := s1.sys
  let stop (reason : Nat) : Sys := { y with result := 2, reason := reason, detail := 1 }
  let ready (copy : Nat) (im : Image) : Sys :=
    let y1 := { y with bootCopy := copy, hashes := [Config.sha384 im.whole] }
    match y.lmsRecord with
    | some (b, q) => { y1 with lmsOk := true, lmsSecond := b, lmsIndex := q }
    | none => y1
  let booted : Sys := match y.flashImage 0 0x400000 [1] [Config.vendorRoot] (natBit n 0) with
    | .ok im => ready 1 im
    | .error _ => match y.flashImage 0x400000 0x400000 [1] [Config.vendorRoot] (natBit n 1) with
      | .ok im => ready 2 im
      | .error reason => stop reason
  event s (some { s1 with sys := booted })

/-- An image of a list in flash order (R385). -/
def inFlashOrder (e : Nat × Nat) : List (Nat × Nat) → List (Nat × Nat)
  | [] => [e]
  | x :: rest => if e.1 < x.1 then e :: x :: rest else x :: inFlashOrder e rest

/-- BOOT_STAGE1: the owner block, then every image it lists; a failing image is skipped, and without device firmware boot stops. -/
def execBootStage1 (s : State) : Out :=
  let (n, s1) := s.draw
  let y := s1.sys
  event s (
    if y.stage ≠ 0 ∨ y.result ≠ 0 ∨ y.bootCopy = 0 then none
    else
      match y.flashImage 0x800000 0x10000 [4] (Config.vendorRoot :: (if y.replaced.isEmpty then [] else Config.ownerPairs y.replaced)) (natBit n 0) with
      | .error reason => some { s1 with sys := { y with stage := 1, result := 2, reason := reason, detail := 4 } }
      | .ok block =>
        let pairs := Config.ownerPairs block.payload
        let seen := ((Config.ownerImages block.payload).foldr inFlashOrder []).mapIdx (fun i e =>
          (e.2, y.flashImage e.1 (0x40000000 - e.1) (if e.2 = 2 ∨ e.2 = 3 then [e.2] else []) pairs (natBit n (i + 1))))
        let hashes := seen.filterMap (fun e => match e.2 with
          | .ok im => some (Config.sha384 im.whole)
          | .error _ => none)
        let y1 := { y with stage := 1, owner := block.payload, ownerHash := Config.sha384 block.whole, hashes := y.hashes ++ hashes }
        let bad := seen.findSome? (fun e => match e.2 with
          | .error reason => if e.1 = 2 then some reason else none
          | .ok _ => none)
        match bad, seen.any (fun e => e.1 == 2) with
        | some reason, _ => some { s1 with sys := { y1 with result := 2, reason := reason, detail := 2 } }
        | none, false => some { s1 with sys := { y1 with result := 2, reason := 4, detail := 2 } }
        | none, true => some { s1 with sys := y1 })

/-- The largest number of one-time keys (R384). -/
def lmsKeys : Nat := 2 ^ 15

/-- DOMST's PORTUP (R393, R442): the ports that have trained with the peers the domain block gives them. Its table of DSET numbers has no rule that
reads it (log entry 140). -/
def portsUp (payload : List Byte) (peers : List (Option (BitVec 8))) : Nat :=
  ((List.range 36).filter (fun p => (peers.getD p none).any (fun id => id == Config.domainPeer payload p && id != 255))).foldl (fun v p => v + 2 ^ p) 0

/-- BOOT_STAGE2: the layers that train, the device id that the peer of each trained port reports, and whether TIME is within its bound; a
domain block that is not accepted leaves the ports down and the device without an id. -/
def execBootStage2 (layers : BitVec 144) (peers : List (Option (BitVec 8))) (lock : Bool) (s : State) : Out :=
  let (n, s1) := s.draw
  let y := s1.sys
  event s (
    if y.stage ≠ 1 ∨ y.result ≠ 0 then none
    else
      let (devid, domst) := match y.flashImage 0x810000 0x10000 [5] (Config.ownerPairs y.owner) (natBit n 0) with
        | .ok im => ((Config.domainDevice im.payload).val + 256, portsUp im.payload peers + 2 ^ 48 * (Config.domainMaster im.payload).toNat + 2 ^ 49 * lock.toNat)
        | .error _ => (0, 0)
      let warn := if !y.lmsOk then 6 else if lmsKeys ≤ y.lmsIndex then 7 else 0
      some { s1 with sys := { y with
        stage := 2
        layers := layers
        result := if warn = 0 then 1 else 3
        reason := warn
        regs := Table.set (Table.set y.regs 0x0008 (BitVec.ofNat 64 devid)) 0x0010 (BitVec.ofNat 64 domst) } })

/-! ## Attestation (R384, R385) -/

/-- The first 48 bytes of a report. -/
def State.reportHead (s : State) (part status : Nat) : List Byte :=
  let p := s.part part
  let pvf := (p.reg 0x030).toNat
  toBytes 4 1 ++ toBytes 4 status ++ toBytes 8 (part + 2 ^ 8 * natBits pvf 6 0 + 2 ^ 16 * natBits pvf 15 8 + 2 ^ 24 * s.devId) ++
  (List.range 4).flatMap (fun i => toBytes 8 (p.reg (0x0C0 + 8 * i)).toNat)

/-- A write of AREQ by a partition's VF, the PF or a supervisor strand: the nonce is taken, and DONE is clear until the report is
complete. -/
def State.requestReport (s : State) (part : Nat) (value : Dword) : State :=
  let p := s.part part
  if p.areqBusy ∨ value.getLsbD 0 = false then s
  else s.modPart part (fun p => { p with areqBusy := true, areqDone := false, report := s.reportHead part 0 })

/-- ATTEST_REQUEST. -/
def execAttestRequest (part : Nat) (value : Dword) (s : State) : Out := event s (some (s.requestReport part value))

/-- ATTEST_DONE: the report, signed unless the LMS tree is invalid or exhausted; the RPMC counter and the index move on first. The
signatures are values the manual does not give. -/
def execAttestDone (part : Nat) (s : State) : Out :=
  let p := s.part part
  event s (
    if !p.areqBusy then none
    else
      let (n, s1) := s.draw
      let y := s.sys
      let status := if !y.lmsOk then 6 else if lmsKeys ≤ y.lmsIndex then 7 else 0
      let nonce := (p.report.drop 16).take 32
      let q := if status = 0 then y.lmsIndex else 0
      let body := (s.reportHead part status).take 16 ++ nonce ++ toBytes 48 Config.identityKeyHash.toNat ++ toBytes 48 y.ownerHash.toNat ++
        toBytes 384 ((y.hashes.take 8).foldr (fun h v => h.toNat + 2 ^ 384 * v) 0) ++ toBytes 4 q ++ toBytes 12 0
      let report := if status = 0 then body ++ toBytes 1716 n else body
      let y1 := if status = 0 then y.lmsAdvance else y
      some ((({ s1 with sys := y1 }).modPart part (fun p => { p with areqBusy := false, areqDone := true, report := report })).raiseVec part 3))

/-! ## Firmware update (R423, R424) -/

/-- What a place of the flash may hold, and the pairs its images verify under, as the owner block that this boot accepted says (R379, R382,
R424). -/
def Sys.expects (y : Sys) (off : Nat) : List Nat × List Config.KeyPair :=
  let named := Config.ownerPairs y.owner
  if off = 0 ∨ off = 0x400000 then ([1], [Config.vendorRoot])
  else if off = 0x800000 then ([4], Config.vendorRoot :: named)
  else if off = 0x810000 then ([5], named)
  else if 0x1000000 ≤ off then
    match (Config.ownerImages y.owner).find? (fun e => e.1 == off) with
    | some e => ([e.2], named)
    | none => ([2, 3], named)
  else ([], [])

/-- Whether [a, a + n) and [b, b + m) overlap. -/
def rangesMeet (a n b m : Nat) : Bool := decide (a < b + m) && decide (b < a + n)

def Sys.setReg (y : Sys) (off v : Nat) : Sys := { y with regs := Table.set y.regs off (BitVec.ofNat 64 v) }

/-- An FWCTL write with GO: the staged image is verified; what is accepted is written when the update is done. -/
def State.firmwareGo (s : State) (value : Dword) : State :=
  let y := s.sys
  if y.update.isSome then s
  else
    let v := value.toNat
    let dest := natBits v 13 0 * 0x10000
    let size := natBits v 29 16 * 0x10000
    let y1 := y.setReg 0x0048 (natBits v 13 0 + 2 ^ 16 * natBits v 29 16 + 2 ^ 32 * natBits v 32 32)
    let base := natBits (y.regs.getD 0x0040 0).toNat 47 12 * 4096
    let booted := if y.bootCopy = 2 then 0x400000 else 0
    let done (result : Nat) : State := { s with sys := y1.setReg 0x0050 (result * 256) }
    let there := natBits base 47 40 == s.devId && (List.range (size / 0x10000)).all (fun i => y.layers.getLsbD (natBits (base + 0x10000 * i) 39 32)) &&
      (size == 0 || y.layers.getLsbD (natBits (base + size - 1) 39 32)) && !s.mem.anyPoison base size
    if (y.bootCopy ≠ 0 ∧ rangesMeet dest size booted 0x400000 = true) ∨ rangesMeet dest size 0x820000 0x20000 = true ∨ 0x40000000 < dest + size then done 8
    else if !there then done 5
    else
      let (kinds, pairs) := y.expects dest
      match verifyImage (fun o n => s.mem.bytes (base + o) n) size kinds pairs y.minimum with
      | .error reason => done reason
      | .ok im =>
        { s with sys := { y1.setReg 0x0050 (2 ^ 63) with
          update := some ⟨dest, s.mem.bytes base size, if natBit v 32 then some (im.kind, im.version) else none⟩ } }

/-- FIRMWARE_UPDATE: a GO write without COMMIT. -/
def execFirmwareUpdate (value : Dword) (s : State) : Out :=
  event s (if value.getLsbD 63 ∧ value.getLsbD 32 = false then some (s.firmwareGo value) else none)

/-- FIRMWARE_UPDATE_COMMIT: a GO write with COMMIT. -/
def execFirmwareUpdateCommit (value : Dword) (s : State) : Out :=
  event s (if value.getLsbD 63 ∧ value.getLsbD 32 = true then some (s.firmwareGo value) else none)

/-- FIRMWARE_UPDATE_DONE: the image is in flash and the minimum raised; an owner block keeps in mind the one it replaces (R382), which is
the one in force (log entry 67). -/
def execFirmwareUpdateDone (s : State) : Out :=
  let y := s.sys
  event s (y.update.map (fun u =>
    let rpmc := match u.commit with
      | some (kind, version) => Table.modify y.rpmc kind 0 (max version)
      | none => y.rpmc
    let replaced := if u.dest = 0x800000 ∧ y.owner.isEmpty = false then y.owner else y.replaced
    { s with sys := { y.setReg 0x0050 0 with replaced := replaced, flash := bytesSet flashErased y.flash u.dest u.bytes, rpmc := rpmc, update := none } }))

end Sys2Proof.Machine
end

