-- ==== Sys2Proof/Machine/CapInsns.lean ====
section
/-!
DEFINITION. Majors 0x10 and 0x11: the capability instructions (R175 to R179).
-/
namespace Sys2Proof.Machine

/-- A derivation from a sealed capability gives its result with the tag clear (R175). -/
def unsealedOnly (c r : Cap) : Cap := if c.otype = 0 then r else r.untag

def execCadd (d a b : GIdx) (s : State) : Out :=
  let c := s.cap a
  fallThrough 4 s (.ok (s.setCap d (unsealedOnly c (c.move (c.addr + s.x b))) (s.t2 a b)))
def execCaddi (d a : GIdx) (i : BitVec 9) (s : State) : Out :=
  let c := s.cap a
  fallThrough 4 s (.ok (s.setCap d (unsealedOnly c (c.move (c.addr + i.signExtend 64))) (s.g a).taint))

/-- A seal key (R178): tagged, unsealed, kind 0, E = 63. -/
def Cap.isKey (c : Cap) : Bool := c.expo == 63
def Cap.keyFirst (c : Cap) : Nat := (c.loCount.extractLsb' 0 8).toNat
def Cap.keyLast (c : Cap) : Nat := (c.hiCount.extractLsb' 0 8).toNat

/-- The least E in 0..47 that holds the bounds, from `e` on (R176). -/
def leastExp (b t : Nat) : Nat → Nat → Option Nat
  | 0, _ => none
  | fuel + 1, e => if ceilDiv t (2 ^ e) - b / 2 ^ e ≤ 2 ^ 15 - 1 then some e else leastExp b t fuel (e + 1)

/-- CSETB of R176: the result and whether the bounds were widened. -/
def setBounds (c : Cap) (len : Dword) : Cap × Bool :=
  let b := c.addr.toNat
  let t := b + len.toNat
  let (e, hi, nb, nt) : Nat × Nat × Nat × Nat := match leastExp b t 48 0 with
    | none => (48, 0, 0, 2 ^ 64)
    | some e =>
      let nb := b / 2 ^ e * 2 ^ e
      let nt := ceilDiv t (2 ^ e) * 2 ^ e
      (e, (nt - nb) / 2 ^ e, nb, nt)
  let r : Qword := c.rsv ++ BitVec.ofNat 6 e ++ (0#16) ++ BitVec.ofNat 16 hi ++ c.bits.extractLsb' 0 88
  (⟨r, c.tag && c.otype == 0 && decide (c.base ≤ nb) && decide (nt ≤ c.top)⟩, decide ((nb, nt) ≠ (b, t)))

/-- CSETB on a seal key narrows its type range (R178). -/
def setKeyRange (c : Cap) (len : Dword) : Cap :=
  let f := c.addr.toNat % 256
  let last : Int := (f : Int) + len.toNat - 1
  let ok := decide (c.addr.toNat < 256) && decide (1 ≤ len.toNat) && decide (c.keyFirst ≤ f) && decide (last ≤ c.keyLast)
  { c.withCounts (BitVec.ofNat 16 f) ((BitVec.ofInt 8 last).setWidth 16) with tag := c.tag && ok && c.otype == 0 }

def execCsetb (d a b : GIdx) (s : State) : Out :=
  let c := s.cap a
  let t := s.t2 a b
  if c.tag = true ∧ c.otype = 0 ∧ c.kind = 0 ∧ c.isKey = true then
    fallThrough 4 s (.ok ((s.setCap d (setKeyRange c (s.x b)) t).setP7 false t))
  else
    let r := setBounds c (s.x b)
    fallThrough 4 s (.ok ((s.setCap d r.1 t).setP7 r.2 t))

def execCandp (d a b : GIdx) (s : State) : Out :=
  let c := s.cap a
  fallThrough 4 s (.ok (s.setCap d (unsealedOnly c (c.withPerms (c.perms &&& (s.x b).extractLsb' 0 12))) (s.t2 a b)))

/-- A bound as a doubleword, 2^64 reading as all ones (R177). -/
def satDword (n : Nat) : Dword := if 2 ^ 64 ≤ n then BitVec.allOnes 64 else BitVec.ofNat 64 n

/-- CGET's property (R177). -/
def capProp (c : Cap) (sel : Nat) : Dword :=
  match sel with
  | 0 => satDword c.base
  | 1 => satDword c.top
  | 2 => satDword (c.top - c.base)
  | 3 => c.perms.setWidth 64
  | 4 => c.kind.setWidth 64
  | 5 => c.otype.setWidth 64
  | 6 => BitVec.ofNat 64 c.tag.toNat
  | 7 => c.addr
  | 8 => c.expo.setWidth 64
  | _ => if c.isKey then BitVec.ofNat 64 (c.keyFirst + 256 * c.keyLast) else 0

def execCget (d a : GIdx) (sel : GIdx) (s : State) : Out :=
  fallThrough 4 s (.ok (s.setX d (capProp (s.cap a) sel.toNat) (s.g a).taint))

/-- The rows of R178's table, in order: CSEAL when `sealing`. The cause of the first check that fails. -/
def sealCheck (sealing : Bool) (a b : Cap) : Option (BitVec 8) :=
  let o := if sealing then b.addr.toNat else a.otype.toNat
  if !a.tag then some 0x04
  else if sealing && a.otype != 0 then some 0x05
  else if !sealing && a.otype == 0 then some 0x03
  else if !b.tag then some 0x04
  else if b.otype ≠ 0 then some 0x05
  else if !(b.kind == 0 && b.isKey && decide (1 ≤ b.keyFirst) && decide (b.keyFirst ≤ b.keyLast) &&
      (if sealing then b.permSeal else b.permUnseal)) then some 0x03
  else if !(decide (b.keyFirst ≤ o) && decide (o ≤ b.keyLast) && (!sealing || (decide (1 ≤ o) && decide (o ≤ 255)))) then some 0x02
  else if sealing && a.kind == 0 && a.isKey then some 0x03
  else none

/-- CSEAL (R178): EXTRA shows gA's bits whichever operand fails (log entry 137), and CUNSEAL's does. -/
def execCseal (d a b : GIdx) (s : State) : Out :=
  let c := s.cap a
  let k := s.cap b
  fallThrough 4 s (match sealCheck true c k with
    | some cause => trapX cause 0 ((c.bits.extractLsb' 64 64).setWidth 128)
    | none => .ok (s.setCap d (c.withOtype (k.addr.setWidth 8)) (s.t2 a b)))

def execCunseal (d a b : GIdx) (s : State) : Out :=
  let c := s.cap a
  let k := s.cap b
  fallThrough 4 s (match sealCheck false c k with
    | some cause => trapX cause 0 ((c.bits.extractLsb' 64 64).setWidth 128)
    | none =>
      let r := c.withOtype 0
      .ok (s.setCap d (if k.permGlobal then r else r.withPerms (r.perms &&& 0xF7F)) (s.t2 a b)))

/-- CTAG's conditions (R179). -/
def mayTag (a b : Cap) : Bool :=
  b.tag && b.otype == 0 && b.kind == 0 && (b.perms &&& a.perms) == a.perms &&
  a.rsv == 0 && (a.kind == 0 || a.kind == 5) && decide (a.expo.toNat ≤ 48) &&
  decide (b.base ≤ a.base) && decide (a.top ≤ b.top)

def execCtag (d a b : GIdx) (s : State) : Out :=
  let c := s.cap a
  let ok := mayTag c (s.cap b)
  let t := s.t2 a b
  fallThrough 4 s (.ok ((s.setCap d { c with tag := ok } t).setP7 (!ok) t))

def execCclr (d a : GIdx) (s : State) : Out :=
  fallThrough 4 s (.ok (s.setCap d (s.cap a).untag (s.g a).taint))

end Sys2Proof.Machine
end

