-- ==== Sys2Proof/Machine/Compressed.lean ====
section
/-!
DEFINITION. The 16-bit instructions (R161): each is a 32-bit instruction over g0 to g31, two bytes long.
-/
namespace Sys2Proof.Machine

/-- A five-bit register number as a g register. -/
def g5 (i : VIdx) : GIdx := i.setWidth 6

/-- gD := f gD gA. -/
def shortOp (f : Dword → Dword → Dword) (d a : VIdx) (s : State) : Out :=
  fallThrough 2 s (.ok (s.setX (g5 d) (f (s.x (g5 d)) (s.x (g5 a))) (s.t2 (g5 d) (g5 a))))

/-- gD := f gD. -/
def shortImm (f : Dword → Dword) (d : VIdx) (s : State) : Out :=
  fallThrough 2 s (.ok (s.setX (g5 d) (f (s.x (g5 d))) (s.g (g5 d)).taint))

/-- A 64-bit comparison of gD and gA into p7. -/
def shortCmp (c : BitVec 3) (d a : VIdx) (s : State) : Out :=
  fallThrough 2 s (.ok (s.setP 7 (ones64 (intCond c (s.x (g5 d)) (s.x (g5 a)))) (s.t2 (g5 d) (g5 a))))

def execCMov (d a : VIdx) (s : State) : Out := fallThrough 2 s (.ok (s.setG (g5 d) (s.g (g5 a))))
def execCAdd (d a : VIdx) (s : State) : Out := shortOp (· + ·) d a s
def execCSub (d a : VIdx) (s : State) : Out := shortOp (· - ·) d a s
def execCAddi (d i : VIdx) (s : State) : Out := shortImm (· + i.signExtend 64) d s
def execCLi (d i : VIdx) (s : State) : Out := fallThrough 2 s (.ok (s.setX (g5 d) (i.signExtend 64) false))
def execCShli (d i : VIdx) (s : State) : Out := shortImm (fun x => shl64 x (i.setWidth 64)) d s
def execCShri (d i : VIdx) (s : State) : Out := shortImm (fun x => shr64 x (i.setWidth 64)) d s
def execCAnd (d a : VIdx) (s : State) : Out := shortOp (· &&& ·) d a s
def execCOr (d a : VIdx) (s : State) : Out := shortOp (· ||| ·) d a s
def execCXor (d a : VIdx) (s : State) : Out := shortOp (· ^^^ ·) d a s
def execCLd (d a : VIdx) (s : State) : Out :=
  fallThrough 2 s (s.loadTo (g5 d) (g5 a) (s.cap (g5 a)).addr.toNat 8 false (s.g (g5 a)).taint)
def execCSt (d a : VIdx) (s : State) : Out :=
  fallThrough 2 s (s.storeFrom (g5 d) (g5 a) (s.cap (g5 a)).addr.toNat 8)
def execCBr (i : BitVec 10) (s : State) : Out := finish s (.ok (s.branchTo i.toInt))
def execCBrc (p : PIdx) (n : Bool) (i : GIdx) (s : State) : Out := brcInsn 2 p n i.toInt s
def execCRet (s : State) : Out := jumpInsn 1 none s
def execCExit (s : State) : Out := exitInsn 2 s
def execCNop (s : State) : Out := fallThrough 2 s (.ok s)
def execCWait0 (s : State) : Out := waitInsn 2 0 0 0 0 s
def execCGet (d : VIdx) (p : PIdx) (s : State) : Out := getInsn 2 (g5 d) p s
def execCPut (d : VIdx) (p : PIdx) (s : State) : Out := putInsn 2 (g5 d) p s
def execCCheq (d a : VIdx) (s : State) : Out := cheqInsn 2 (g5 d) (g5 a) s
def execCCmpeq (d a : VIdx) (s : State) : Out := shortCmp 0 d a s
def execCCmplt (d a : VIdx) (s : State) : Out := shortCmp 2 d a s
def execCYield (s : State) : Out := fallThrough 2 s (.ok (s.modMe (fun m => { m with yielded := true })))

end Sys2Proof.Machine
end

