-- ==== Sys2Proof/Machine/Power.lean ====
section
/-!
DEFINITION. Power and temperature (R15, R16, R421), frames of other devices (R393, R394), and the host's accesses to device memory
(R118, R386).
-/
namespace Sys2Proof.Machine

namespace State

/-! ## Power and temperature (R15, R16, R421) -/

/-- The greatest of the five temperatures, read as signed, with its index: the lowest of equals. -/
def hottest (t : List (BitVec 16)) : Nat × BitVec 16 :=
  (t.zipIdx).foldl (fun best x => if best.2.slt x.1 then (x.2, x.1) else best) (0, t.headD 0)

/-- A change of CLK or HELD: every partition's ring gets a type-3 record with what the sensors read. -/
def thermalRecord (s : State) : State :=
  let (idx, hot) := hottest (tabulate 5 (fun i => (s.sensorRead i).setWidth 16))
  let bits := s.nowNat + 2 ^ 64 * s.sys.mhz + 2 ^ 80 * (s.sensorRead 5).toNat + 2 ^ 96 * hot.toNat + 2 ^ 112 * idx + 2 ^ 120 * s.sys.held.toNat
  (s.parts.filter (fun e => decide (e.2.state ≠ 0))).foldl (fun (s : State) e =>
    s.postTel e.1 ⟨BitVec.ofNat 256 bits, false, 3, s.nowNat, s.srcNum 5 19⟩) s

def setMhz (s : State) (mhz : Nat) : State := ({ s with sys := { s.sys with mhz := mhz } }).thermalRecord

/-- The crews that stand on the dies: those of launches, and those of the standing launch that have strands. -/
def standingCrews (s : State) : List CrewId :=
  s.parts.flatMap (fun e =>
    let placed := e.2.launches.flatMap (fun l => (l.crews.filter (fun c => !c.gone && !c.out)).map (fun c => (⟨l.id, c.cluster⟩ : CrewId)))
    let free := (e.2.clusters.filter (fun cl => !(s.crewSlots ⟨⟨e.1, 0⟩, cl⟩).isEmpty)).map (fun cl => (⟨⟨e.1, 0⟩, cl⟩ : CrewId))
    placed ++ free)

/-- The standing launch's crew of a cluster, as one that can be halted (log entry 60). -/
def holdable (s : State) (k : CrewId) : State :=
  if k.launch.age ≠ 0 ∨ (s.placed? k).isSome then s
  else s.modPart k.launch.part (fun p => { p with
    standing := p.standing ++ [⟨0, k.cluster, s.nowNat, none, false, false, false, false, [], []⟩] })

end State

/-- THERMAL_CLOCK_STEP: the arithmetic clock goes down, no lower than 600 MHz. -/
def execThermalClockStep (mhz : Nat) (s : State) : Out :=
  event s (if 600 ≤ mhz ∧ mhz < s.sys.mhz then some (s.setMhz mhz) else none)

/-- THERMAL_CLOCK_RAISE: it goes up again, no higher than 1,400 MHz. -/
def execThermalClockRaise (mhz : Nat) (s : State) : Out :=
  event s (if s.sys.mhz < mhz ∧ mhz ≤ 1400 then some (s.setMhz mhz) else none)

/-- THERMAL_HOLD: every crew that runs is pre-empted, and the dies are held idle. HELD and its record come with the request, before the crews
have halted (log entry 123). -/
def execThermalHold (s : State) : Out :=
  event s (
    if s.sys.mhz ≠ 600 ∨ s.sys.held then none
    else
      let crews := s.standingCrews.filter (fun k => !(s.placed? k).any (fun c => c.halted || c.halting.isSome))
      let s1 := crews.foldl (fun (s : State) k => (s.holdable k).askHalt k (s.srcNum 5 19) none) s
      some ({ s1 with sys := { s1.sys with held := true, heldCrews := crews } }).thermalRecord)

/-- THERMAL_RELEASE: once every crew has halted, the hold ends and the crews it halted resume. -/
def execThermalRelease (s : State) : Out :=
  let y := s.sys
  event s (
    if !y.held || y.heldCrews.any (fun k => (s.placed? k).any (fun c => c.halting.any (fun h => h.src == s.srcNum 5 19))) then none
    else
      let s1 := y.heldCrews.foldl (fun (s : State) k => s.modPlaced k (fun c => if c.halted then { c with resuming := true } else c)) s
      some ({ s1 with sys := { s1.sys with held := false, heldCrews := [] } }).thermalRecord)

/-- INPUT_OUT_OF_RANGE: the compute dies are unpowered (log entry 61). -/
def execInputOutOfRange (s : State) : Out :=
  event s (if s.sys.powered then some { s with sys := { s.sys with powered := false } } else none)

/-- INPUT_BACK_IN_RANGE. -/
def execInputBackInRange (s : State) : Out :=
  event s (if s.sys.powered then none else some { s with sys := { s.sys with powered := true } })

/-! ## Accesses from outside (R118, R386, R393, R394) -/

/-- The doubleword of a partition's memory that a frame's operation acts on is left as it gives it (R202): a taint of the word stays in it,
and a floating-point sum is tainted (R150). A poisoned word, and one outside the partition's layers, is left alone. -/
def State.frameAmo (s : State) (part addr : Nat) (op : FrameAmo) (n : Nat) (operand : Dword) (taint : Bool) : State :=
  if s.layerPresent part addr = false ∨ addr % n ≠ 0 then s
  else match s.readHome (.mem addr) n with
    | none => s
    | some g =>
      let old := g.nat
      match op with
      | .red code signed =>
        let r : RedOp := [RedOp.add, .and', .or', .xor', .min', .max', .fadd64, .fadd32].getD code.toNat .add
        s.writeHome (.mem addr) (toBytes n (redNew r (8 * n) signed old operand.toNat)) (taint || r.float)
      | .swap => s.writeHome (.mem addr) (toBytes n operand.toNat) taint
      | .cas expected => if expected.toNat % 2 ^ (8 * n) = old then s.writeHome (.mem addr) (toBytes n operand.toNat) taint else s

/-- Bytes written at their home by an agent outside the device, if every one lies where a test allows. -/
def State.writeFrom (s : State) (allowed : Nat → Bool) (pa : Nat) (bs : List Byte) (taint : Bool) : State :=
  if bs.isEmpty || !allowed pa || !allowed (pa + bs.length - 1) then s else s.writeHome (.mem pa) bs taint

/-- A value as a link brings it: it has no tag that a load could not set (R50). -/
def frameReg (v : FrameVal) : GReg := ⟨v.bits, v.tag && !(Cap.malformed ⟨v.bits, true⟩), v.taint⟩
def frameCap (v : FrameVal) : Cap := ⟨(frameReg v).bits, (frameReg v).tag⟩

/-- What a handle message from another device does here: it travels on to its home, its core or the device-wide queue (R288, R299,
R394). Its sender is in no cluster of this device, so a capability without GLOBAL arrives untagged (R293). -/
def frameMsgBody (id : Dword) : FrameMsg → HBody
  | .invoke key code frame args =>
    .record 4 0 ⟨frameCap code, frameCap frame, code.taint, frame.taint, false, 0, key, 0, 0, 0, false, none, some ⟨id, args.map frameReg, 256⟩⟩
  | .start core v code args => .start core (frameReg v) (frameCap code) (args.map frameReg) id
  | .send v => .send (frameReg v)
  | .invon code args k => .invon (frameCap code) (args.map frameReg) k
  | .bind => .bind
  | .fulfil v => .fulfil (frameReg v)
  | .brk user => .broke 7 0 user id
  | .drop => .drop
  | .lost reason cause user origin => .broke reason cause user origin

/-- What an access of another device's strand does to the memory of a partition here. A read leaves nothing. -/
def State.frameAccess (s : State) (part addr : Nat) (op : FrameOp) : State := match op with
  | .read _ => s
  | .write bs taint => s.writeFrom (s.layerPresent part) addr bs taint
  | .writeCap v =>
    if s.layerPresent part addr = false ∨ addr % 16 ≠ 0 then s
    else let g := frameReg v; s.writeCapHome (.mem addr) g.bits g.tag g.taint
  | .amo op wide operand taint => s.frameAmo part addr op (if wide then 8 else 4) operand taint
  | .state w taint => if addr % 16 ≠ 0 then s else s.writeFrom (s.layerPresent part) addr (toBytes 16 w.toNat) taint

/-- DZIAC_FRAME_RECEIVE: a frame that fails its CRC is retried and counted, and dropped and counted if it fails again; what a frame
carries is admitted only into the partition with the sender's DSET. -/
def execDziacFrameReceive (port : Nat) (crcOk retryOk : Bool) (frame : Frame) (s : State) : Out :=
  let bump (s : State) (off : Nat) : State := { s with sys := { s.sys with regs := Table.modify s.sys.regs off 0 (satAdd64 1) } }
  event s (
    if 36 ≤ port ∨ (s.sys.regs.getD 0x0010 0).getLsbD port = false ∨ frame.device = s.devId then none
    else
      let s1 := if crcOk then s else bump s (0x3000 + 16 * port)
      if !crcOk && !retryOk then some (bump s1 (0x3008 + 16 * port))
      else
        match List.find? (fun (e : Nat × Part) => decide (e.2.state ≠ 0) && frame.dset != 0 && (((e.2.reg 0x030).extractLsb' 8 8).toNat == frame.dset)) s1.parts, frame.body with
        | some (part, _), .access addr op => some (s1.frameAccess part addr op)
        | some (part, _), .handle src seq id msg =>
          some { s1 with hmsgs := s1.hmsgs ++ [⟨id, part, frame.device * 65536 + src % 65536, seq, 256, frameMsgBody id msg, 0⟩] }
        | none, _ => some s1)

/-- HOST_ACCESS: the PF reaches the present layers, a VF the 1 GiB window of its partition from APB. -/
def execHostAccess (access : HostAccess) (s : State) : Out :=
  event s (match access.data with
    | none => none
    | some bs =>
      if access.fn = 0 then
        some (s.writeFrom (fun pa => decide (natBits pa 47 40 = s.devId) && decide (pa < 2 ^ 48) && decide (natBits pa 39 32 < 144) &&
          s.sys.layers.getLsbD (natBits pa 39 32)) access.addr bs false)
      else
        match List.find? (fun (e : Nat × Part) => decide (e.2.state ≠ 0) && (((e.2.reg 0x030).extractLsb' 0 7).toNat == access.fn)) s.parts with
        | none => none
        | some (part, p) =>
          if 2 ^ 30 < access.addr + bs.length then none
          else some (s.writeFrom (s.layerPresent part) (((p.reg 0x098).extractLsb' 30 18).toNat * 2 ^ 30 + access.addr) bs false))

end Sys2Proof.Machine
end

