-- ==== Sys2Proof/Machine/Partition.lean ====
section
/-!
DEFINITION. Partitions (R386 to R392, R442, R404 to R407, R419, R420): activation and deactivation, resizing, layers, the reset of a
function, and the registers that software outside a strand writes.
-/
namespace Sys2Proof.Machine

/-- A register's base, bits 47:12 (R389). -/
def baseOf (r : Dword) : Nat := natBits r.toNat 47 12 * 4096

/-- The structures of a partition with so many clusters: base and bytes (R390). -/
def Part.extents (p : Part) (clusters : Nat) : List (Nat × Nat) :=
  let lg (off hi : Nat) : Nat := natBits (p.reg off).toNat hi 0
  [(baseOf (p.reg 0x038), 128 * 2 ^ (lg 0x038 3 + 4)), (baseOf (p.reg 0x088), 64 * 2 ^ (lg 0x088 3 + 6)),
   (baseOf (p.reg 0x090), 64 * 2 ^ (lg 0x090 3 + 6)), (baseOf (p.reg 0x050), 64 * 2 ^ lg 0x050 4),
   (baseOf (p.reg 0x048), 64 * 2 ^ lg 0x048 4 * (2 * clusters))]

/-- The layers that n bytes at a physical address touch; none when they do not lie in this device's layers. -/
def layersOf (dev base n : Nat) : Option (List Nat) :=
  let first := natBits base 39 32
  let last := first + (base % 2 ^ 32 + n - 1) / 2 ^ 32
  if natBits base 47 40 ≠ dev ∨ 144 ≤ last then none else some ((List.range (last - first + 1)).map (· + first))

def Part.holdsExtent (p : Part) (dev : Nat) (e : Nat × Nat) : Bool := (layersOf dev e.1 e.2).any (fun l => l.all p.layers.getLsbD)

/-- How many clusters a bitmap has. -/
def mapCount (m : Dword) : Nat := ((List.range 64).filter m.getLsbD).length

/-- A well-formed rectangle (R390). -/
def rectOk (r : Nat) : Bool := decide (natBits r 2 0 ≤ natBits r 18 16) && decide (natBits r 10 8 ≤ natBits r 26 24)

/-- The clusters a partition has or is about to have. -/
def Part.claims (p : Part) : Dword := p.bitmap ||| (match p.resize with
  | some r => rectMap r.rect
  | none => 0)

namespace State

/-- Whether another partition that is not FREE satisfies a test. -/
def otherPart (s : State) (part : Nat) (f : Part → Bool) : Bool := s.parts.any (fun e => e.1 != part && decide (e.2.state ≠ 0) && f e.2)

/-- The conditions of R390. -/
def mayActivate (s : State) (part : Nat) : Bool :=
  let p := s.part part
  let rect := (p.reg 0x008).toNat
  let map := rectMap rect
  let vf := natBits (p.reg 0x030).toNat 6 0
  let lgc := natBits (p.reg 0x048).toNat 4 0
  let lgh := natBits (p.reg 0x050).toNat 4 0
  decide (s.sys.stage = 2) && rectOk rect &&
  !s.otherPart part (fun q => q.claims &&& map != 0 || q.layers &&& p.layers != 0) &&
  (vf == 0 || (decide (vf ≤ 64) && !s.otherPart part (fun q => natBits (q.reg 0x030).toNat 6 0 == vf))) &&
  decide (10 ≤ lgc) && decide (lgc ≤ 20) && decide (12 ≤ lgh) && decide (lgh ≤ 20) &&
  (p.extents (mapCount map)).all (p.holdsExtent s.devId)

/-! ## Killing (R26, R280, R291, R386) -/

/-- Kills the strands of a partition that a test of slot and strand picks. -/
def killWhere (s : State) (part : Nat) (pick : Nat → Strand → Bool) (reason : Nat) : State :=
  (s.allStrands.filter (fun e => e.2.status != .free && decide (e.2.launch.part = part) && pick e.1 e.2)).foldl
    (fun (s : State) e => s.killRunning e.1 reason) s

/-- A saved crew that will not come back: the handles its strands answer for break. -/
def dropSaved (s : State) (c : Placed) (reason : Nat) : State :=
  c.saved.foldl (fun (s : State) x => s.breakHandlesOf ⟨x.1, x.2.strand.born⟩ reason 0) s

/-- Kills every launch of a partition, with the strands of the standing one, and forgets the queue (R386). -/
def killLaunches (s : State) (part reason : Nat) : State :=
  let s1 := s.killWhere part (fun _ _ => true) reason
  let s2 := ((s.part part).launches).foldl (fun (s : State) l =>
    ((l.crews.foldl (fun (s : State) c => s.dropSaved c reason) s).dropHandles l.id).clearLaunch l) s1
  let mine (r : TaskRec) : Bool := r.launch.any (fun k => k.part == part)
  let s2 := s2.cores.foldl (fun (s : State) e => s.filterRing e.1 (fun r => !mine r)) s2
  let s3 : State := { s2 with
    chains := s2.chains.map (fun e => (e.1, e.2.filter (fun c => decide (c.launch.part ≠ part)))) }
  s3.modPart part
    (fun p => { p with launches := [], standing := [] })

/-! ## Leaving clusters and partitions -/

/-- Cores that leave a partition: reductions and dirty lines go home, pages drain, and nothing translated or cached stays. -/
def quitCores (s : State) (part : Nat) (cores : List Nat) : State :=
  let s1 := cores.foldl (fun (s : State) c => (s.flushCore c).dropPages c (fun _ => true)) (s.settlePart part)
  { s1 with
    cores := s1.cores.map (fun e => if cores.contains e.1 then (e.1, { e.2 with lines := [], ilines := [], tlb := [] }) else e)
    l2tlb := s1.l2tlb.filter (fun e => !cores.contains (32 * e.1)) }

/-- Frees every entry of a partition's handle table that a test picks. -/
def freeEntries (s : State) (part : Nat) (pick : HEntry → Bool) : State :=
  (s.part part).entries.foldl (fun (s : State) e => if e.2.state != .free && pick e.2 then s.freeEntry part e.1 e.2 else s) s

/-- Deactivation (R390): the standing launch goes, and what waits on chip for the fault queue is dropped and counted (log entry 62). -/
def deactivate (s : State) (part : Nat) : State :=
  let s1 := s.killWhere part (fun _ _ => true) 2
  let cores := s1.partCores part
  let s2 := (s1.quitCores part cores).freeEntries part (fun _ => true)
  let s3 : State := { s2 with
    cores := s2.cores.map (fun e => if cores.contains e.1 then (e.1, { e.2 with ring := [], ringHead := 0, ringBytes := Memory.empty }) else e)
    chains := s2.chains.map (fun e => (e.1, e.2.filter (fun c => decide (c.launch.part ≠ part))))
    regions := s2.regions.map (fun e => (e.1, e.2.filter (fun r => decide (r.arm.crew.launch.part ≠ part)))) }
  (s3.count part 0x348 (s3.part part).faults.length).modPart part (fun p => { p with
    state := 0
    segments := []
    heldRecs := []
    standing := []
    faults := []
    resize := none
    pendingMap := none
    rszBusy := false })

/-- A PCTL write that sets one of the two bits clears the outcome bits first (R389). -/
def clearOutcome (s : State) (part : Nat) : State := s.modPart part (fun p => { p with outcome := 0 })

end State

/-- PARTITION_ACTIVATE: a write of PCTL bit 8. -/
def execPartitionActivate (part : Nat) (s : State) : Out :=
  let s1 := s.clearOutcome part
  event s (
    if 64 ≤ part then none
    else if (s.part part).state ≠ 0 then some s1
    else if s1.mayActivate part then
      some (s1.modPart part (fun p => { p with
        state := 1, bitmap := rectMap (p.reg 0x008).toNat, nextSerial := 0, freed := [], launches := [], resize := none }))
    else some (s1.modPart part (fun p => { p with outcome := 1 })))

/-- PARTITION_DEACTIVATE: a write of PCTL bit 9. -/
def execPartitionDeactivate (part : Nat) (s : State) : Out :=
  let s1 := s.clearOutcome part
  let p := s.part part
  event s (
    if 64 ≤ part then none
    else if p.state = 0 then some s1
    else if p.launches.all (fun l => l.state == .ended) = true then
      some ((s1.deactivate part).modPart part (fun p => { p with launches := [] }))
    else some (s1.modPart part (fun p => { p with outcome := 2 })))

/-- FUNCTION_LEVEL_RESET. -/
def execFunctionLevelReset (vf : Nat) (s : State) : Out :=
  event s (match List.find? (fun (e : Nat × Part) => decide (e.2.state ≠ 0) && vf != 0 && (natBits (e.2.reg 0x030).toNat 6 0 == vf)) s.parts with
    | none => none
    | some (part, _) => some (s.killLaunches part 2))

/-! ## Resizing (R392) -/

/-- Whether two rectangles differ by one row or column at an edge. -/
def rectStep (a b : Nat) : Bool :=
  let d (hi lo : Nat) : Nat := ((natBits a hi lo : Int) - natBits b hi lo).natAbs
  d 2 0 + d 10 8 + d 18 16 + d 26 24 == 1

/-- RESIZE_REQUEST: an RSZ write. -/
def execResizeRequest (part : Nat) (value : Dword) (s : State) : Out :=
  let p := s.part part
  let rect := value.toNat &&& 0x07070707
  let map := rectMap rect
  let added := map &&& ~~~p.bitmap
  let ok := p.state == 1 && rectOk rect && rectStep (p.reg 0x008).toNat rect && !s.otherPart part (fun q => q.claims &&& added != 0) &&
    (added == 0 || ((p.extents (mapCount map)).getLast?).all (p.holdsExtent s.devId))
  event s (
    if p.rszBusy || decide (64 ≤ part) then none
    else if !ok then some (s.modPart part (fun p => { p with rszResult := 1 }))
    else
      let force := value.getLsbD 32
      let s1 := s.modPart part (fun p => { p with
        state := 2
        rszBusy := true
        regs := Table.set p.regs 0x0B0 (BitVec.ofNat 64 (rect + 2 ^ 32 * force.toNat))
        resize := some ⟨rect, force, false⟩ })
      let q := s1.part part
      some (if force then
          (q.launches.flatMap (fun l => (l.crews.filter (fun c => !c.gone && !c.out && q.leaving c.cluster)).map (fun c => (⟨l.id, c.cluster⟩ : CrewId)))).foldl
            (fun (s : State) k => s.askHalt k (s.srcNum 6 0) none) s1
        else s1))

namespace State

/-- The records of the leaving cores' rings and of the leaving slices' segments go to the segments that stay, in order. -/
def moveRecords (s : State) (part : Nat) (map : Dword) : State :=
  let p := s.part part
  let out (cl : Nat) : Bool := p.hasCluster cl && !map.getLsbD (meshOf cl)
  let cores := (p.clusters.filter out).flatMap (fun cl => tabulate 32 (32 * cl + ·))
  let slices := p.slices.filter (fun sl => out (sl / 2))
  let recs := cores.flatMap (fun c => (s.ringRecs c).map (fun r => { r with launch := none })) ++
    slices.flatMap (fun sl => p.segments.getD sl [] ++ p.heldRecs.getD sl [])
  let s1 : State := { s with cores := s.cores.map (fun e => if cores.contains e.1 then (e.1, { e.2 with ring := [], ringHead := 0, ringBytes := Memory.empty }) else e) }
  let s2 := s1.modPart part (fun p => { p with
    segments := slices.foldl (fun t sl => Table.erase t sl) p.segments
    heldRecs := slices.foldl (fun t sl => Table.erase t sl) p.heldRecs
    bitmap := map })
  (recs.foldl (fun (s : State) r => s.pushOrHold part r) s2).modPart part (fun q => { q with bitmap := p.bitmap })

/-- The cores that a resize takes away. -/
def leavingCores (s : State) (part : Nat) : List Nat :=
  let p := s.part part
  (p.clusters.filter p.leaving).flatMap (fun cl => tabulate 32 (32 * cl + ·))

end State

/-- RESIZE_LEAVE_CLEAR: steps 1 to 3 of R392 for the leaving clusters. -/
def execResizeLeaveClear (part : Nat) (s : State) : Out :=
  let p := s.part part
  event s (match p.resize with
    | none => none
    | some r =>
      let here := p.launches.flatMap (fun l => (l.crews.filter (fun c => !c.gone && p.leaving c.cluster)).map (fun c => (l.id, c)))
      if r.cleared || (if r.force then here.any (fun x => !x.2.halted && !x.2.out) else !here.isEmpty) then none
      else
        let s1 := s.killWhere part (fun slot _ => p.leaving (clusterOfSlot slot)) 4
        let s2 := here.foldl (fun (s : State) x => (s.dropSaved x.2 4).modLaunch x.1 (fun l => { l with crews := l.crews.map (fun c =>
          if c.index = x.2.index then { c with gone := true, out := false, halted := false, halting := none, resuming := false, saved := [], cores := [] } else c) })) s1
        let s3 := s2.quitCores part (s2.leavingCores part)
        let s4 := s3.moveRecords part (rectMap r.rect)
        let s5 := s4.breakHandles (fun pi _ h => pi == part && p.leaving (h.slice / 2)) 4 0
        some ((s5.freeEntries part (fun h => p.leaving (h.slice / 2))).modPart part (fun q => { q with
          standing := q.standing.filter (fun c => !p.leaving c.cluster)
          pendingMap := some (rectMap r.rect)
          resize := some { r with cleared := true } })))

/-- RESIZE_COMMIT: the new bitmap becomes current, once the leaving cores have nothing under way. -/
def execResizeCommit (part : Nat) (s : State) : Out :=
  let p := s.part part
  event s (match p.resize, p.pendingMap with
    | some r, some map =>
      let cores := s.leavingCores part
      let busy := cores.any (fun c =>
        let k := s.core c
        !(k.queue.isEmpty && k.wide.isEmpty && k.copies.isEmpty && k.gathers.isEmpty)) ||
        s.allStrands.any (fun e => e.2.status != .free && cores.contains (coreOfSlot e.1))
      if !r.cleared || busy then none
      else
        some (((((s.quitCores part cores).moveRecords part map).modPart part (fun q => { q with
          bitmap := map
          pendingMap := none
          resize := none
          state := 1
          rszBusy := false
          rszResult := 0
          regs := Table.set q.regs 0x008 (BitVec.ofNat 64 r.rect) }))).raiseVec part 2)
    | _, _ => none)

/-! ## Layers (R404 to R407) -/

namespace State

/-- A memory event (R406): its record, VF vector 2 and PF vector 2. -/
def memoryEvent (s : State) (part layer kind grace src : Nat) : State :=
  let s1 := s.postFault part {
    extra := BitVec.ofNat 128 (kind + 2 ^ 8 * layer + 2 ^ 32 * grace)
    tepc := 0
    addr := BitVec.ofNat 64 (s.devId * 2 ^ 40 + layer * 2 ^ 32)
    time := s.nowNat
    asid := 0
    stg := 0
    cause := 0x12
    src := src
    parked := false }
  let s2 := if natBits (s1.part part |>.reg 0x030).toNat 6 0 = 0 then s1 else s1.raiseVec part 2
  s2.raisePf 2

/-- Sets or clears a layer's PLAY bit. -/
def setLayer (s : State) (part layer : Nat) (b : Bool) : State :=
  s.modPart part (fun p =>
    let off := 0x018 + 8 * (layer / 64)
    let bit : Dword := 1#64 <<< (layer % 64)
    { p with regs := Table.modify p.regs off 0 (fun v => if b then v ||| bit else v &&& ~~~bit) })

/-- How many bytes of a line are dirty. -/
def dirtyCount (l : Line) : Nat := ((List.range 128).filter l.dirty.getLsbD).length

/-- Of the line that a free value picks in the 4 GiB from a base, the bytes it picks are lost: what the array has in their place, with its taint
and tags, is free (log entry 129). -/
def loseLine (base n : Nat) (m : Memory) : Memory :=
  let at' := base + 128 * (n % 2 ^ 25)
  let gone : BitVec 128 := BitVec.ofNat 128 (n / 2 ^ 25)
  let hit (first k : Nat) : Bool := (List.range k).any (fun i => gone.getLsbD (first + i))
  let m := (List.range 128).foldl (fun (m : Memory) i => if gone.getLsbD i then m.putByte (at' + i) (BitVec.ofNat 8 (n / 2 ^ (153 + 8 * i))) else m) m
  let m := (List.range 4).foldl (fun (m : Memory) k => if hit (32 * k) 32 then m.putTaint (at' / 32 + k) (natBit n (1177 + k)) else m) m
  (List.range 8).foldl (fun (m : Memory) k => if hit (16 * k) 16 then m.putTag (at' / 16 + k) (natBit n (1181 + k)) else m) m

/-- The dirty bytes that L2s and row caches held of a layer are lost: how many there were, and what memory is left. Which lines they lie in is free
(log entry 129). -/
def loseLines (base n : Nat) (m : Memory) : Nat × Memory :=
  (List.range (n % (2 ^ 25 + 1))).foldl (fun (x : Nat × Memory) i =>
    let c := n / 2 ^ (32 + 1200 * i)
    (x.1 + ((List.range 128).filter (fun k => natBit c (25 + k))).length, loseLine base c x.2)) (0, m)

/-- The commit of a layer's removal from a partition (R407): what L1s, L2s and row caches hold of the layer is dropped, the dirty bytes counted,
and its scope records go with its lines (R139). -/
def commitRemove (s : State) (part layer : Nat) : State :=
  let cores := s.partCores part
  let mine (line : Nat) : Bool := natBits (128 * line) 47 32 == s.devId * 256 + layer
  let page (p : Page) : Bool := natBits p.frame 47 32 == s.devId * 256 + layer
  let lost := (s.cores.filter (fun e => cores.contains e.1)).foldl (fun n e =>
    n + ((e.2.lines.filter (fun x => mine x.1)).map (fun x => dirtyCount x.2)).sum +
    ((e.2.pages.filter page).map (fun p => ((List.range 4096).filter p.dirty.getLsbD).length)).sum) 0
  let s1 : State := { s with
    cores := s.cores.map (fun e => if cores.contains e.1 then (e.1, { e.2 with
      lines := e.2.lines.filter (fun x => !mine x.1)
      ilines := e.2.ilines.filter (fun x => !mine x.1)
      pages := e.2.pages.filter (fun p => !page p) }) else e)
    rows := s.rows.filter (fun e => e.1 / 512 != layer)
    scopes := s.scopes.filter (fun e => match e.1 with
      | .mem pa => !mine (pa / 128)
      | .scratch _ _ frame _ => !mine (frame / 128)
      | _ => true) }
  let (k, s2) := s1.draw
  let (n, m) := loseLines (s.devId * 2 ^ 40 + layer * 2 ^ 32) k s2.mem
  ((State.notice { s2 with mem := m }).setLayer part layer false).count part 0x330 (lost + n)

/-- A final remove (R407): a layer with one of the partition's structures takes the partition with it. -/
def removeLayer (s : State) (part layer src : Nat) : State :=
  let p := s.part part
  let holds := decide (p.state ≠ 0) && (p.extents (mapCount p.bitmap)).any (fun e => (layersOf s.devId e.1 e.2).any (·.contains layer))
  let s1 := if holds then ((s.killLaunches part 4).modPart part (fun p => { p with outcome := p.outcome ||| 4 })) else s
  let s2 := s1.commitRemove part layer
  let s3 := if holds then s2.deactivate part else s2
  s3.memoryEvent part layer 2 0 src

/-- LAYCMD takes a command and shows its result. The command's effect is one step; how long BUSY stands after it is free (log entry 66). -/
def layWrite (s : State) (part : Nat) (cmd : Dword) (result : BitVec 7) : State :=
  let (n, s1) := s.draw
  s1.modPart part (fun p => { p with layCmd := cmd &&& 0x0000FFFF000003FF, layResult := result, layBusy := natBit n 0 })

/-- A LAYCMD write with an operation: `none` while a command is in progress. -/
def layCommand (s : State) (part : Nat) (value : Dword) (op : Nat) (ok : Nat → Bool) (f : State → Nat → State) : Option State :=
  let p := s.part part
  let layer := natBits value.toNat 7 0
  if p.layBusy || decide (natBits value.toNat 9 8 ≠ op) || decide (64 ≤ part) then none
  else
    let s1 := s.layWrite part value (if ok layer then 0 else 1)
    some (if ok layer then f s1 layer else s1)

def inPlay (s : State) (part layer : Nat) : Bool := decide (layer < 144) && (s.part part).layers.getLsbD layer

end State

/-- LAYER_ADD: LAYCMD op 1. -/
def execLayerAdd (part : Nat) (value : Dword) (s : State) : Out :=
  event s (s.layCommand part value 1 (fun l => decide (l < 144) && s.sys.layers.getLsbD l && (s.partOfLayer l).isNone)
    (fun t l => (t.setLayer part l true).memoryEvent part l 3 0 (s.srcNum 6 0)))

/-- LAYER_PREDICTIVE_REMOVE: LAYCMD op 2; the layer stays. -/
def execLayerPredictiveRemove (part : Nat) (value : Dword) (s : State) : Out :=
  event s (s.layCommand part value 2 (s.inPlay part) (fun t l => t.memoryEvent part l 1 (natBits value.toNat 47 32) (s.srcNum 6 0)))

/-- LAYER_FINAL_REMOVE: LAYCMD op 3. -/
def execLayerFinalRemove (part : Nat) (value : Dword) (s : State) : Out :=
  event s (s.layCommand part value 3 (s.inPlay part) (fun t l => t.removeLayer part l (s.srcNum 6 0)))

/-- LAYCMD_NOP: LAYCMD op 0. -/
def execLaycmdNop (part : Nat) (value : Dword) (s : State) : Out :=
  event s (s.layCommand part value 0 (fun _ => true) (fun t _ => t))

/-- LAYER_ERROR_LIMIT: the firmware's own op 2 or op 3, written to LAYCMD of every partition that holds the layer once none has a command in
progress; which application core acts and the grace period are free. A layer finally removed stays absent until the next boot. -/
def execLayerErrorLimit (layer : Nat) (final : Bool) (s : State) : Out :=
  let (n, s1) := s.draw
  let src := s.srcNum 5 (n % 16)
  let parts := (s.parts.filter (fun e => e.2.layers.getLsbD layer)).map (·.1)
  event s (
    if 144 ≤ layer ∨ s.sys.layers.getLsbD layer = false ∨ parts.any (fun p => (s.part p).layBusy) = true then none
    else if final then
      let s2 := parts.foldl (fun (s : State) p => (s.layWrite p (BitVec.ofNat 64 (layer + 3 * 2 ^ 8)) 0).removeLayer p layer src) s1
      some { s2 with sys := { s2.sys with layers := s2.sys.layers &&& ~~~((1#144) <<< layer) } }
    else
      let grace := n / 16 % 2 ^ 16
      some (parts.foldl (fun (s : State) p =>
        (s.layWrite p (BitVec.ofNat 64 (layer + 2 * 2 ^ 8 + grace * 2 ^ 32)) 0).memoryEvent p layer 1 grace src) s1))

/-! ## SYSRES (R388) -/

/-- A SYSRES write acts on a PARKED strand of any partition, once the strand's record has been placed (R337), or is counted. -/
def State.sysres (s : State) (value : Dword) (f : State → Nat → State) : Option State :=
  let slot := natBits value.toNat 12 0
  if (s.strand slot).status = .parked then (if s.recordWaits slot then none else some (f s slot))
  else some { s with sys := { s.sys with regs := Table.modify s.sys.regs 0x0070 0 (satAdd64 1) } }

/-- SYSRES_RESUME: GO with KILL = 0. -/
def execSysresResume (value : Dword) (s : State) : Out :=
  event s (if value.getLsbD 63 ∧ value.getLsbD 32 = false then s.sysres value (fun t slot => t.resumeParked slot) else none)

/-- SYSRES_KILL: GO with KILL = 1; ALL kills every stage of a folded chain. -/
def execSysresKill (value : Dword) (s : State) : Out :=
  event s (if value.getLsbD 63 ∧ value.getLsbD 32 = true then
    s.sysres value (fun t slot => t.killStrand slot (value.getLsbD 33)) else none)

/-! ## Registers and counters that the host writes (R389, R419, R420, R442) -/

/-- INTMASK_WRITE: the pending events of cleared bits are delivered. -/
def execIntmaskWrite (part : Nat) (value : Dword) (s : State) : Out :=
  let s1 := s.modPart part (fun p => { p with regs := Table.set p.regs 0x0A0 (value &&& 0xF) })
  event s (if 64 ≤ part then none
    else some ((List.range 4).foldl (fun (s : State) v =>
      if (s.part part).pendingVec.getLsbD v ∧ value.getLsbD v = false then
        (s.modPart part (fun p => { p with pendingVec := p.pendingVec &&& ~~~((1#4) <<< v) })).raiseVec part v
      else s) s1))

/-- COUNTER_CLEAR: a PF write of any value. -/
def execCounterClear (part offset : Nat) (s : State) : Out :=
  event s (if 64 ≤ part ∨ offset < 0x300 ∨ 0x368 ≤ offset ∨ offset % 8 ≠ 0 then none
    else some (s.modPart part (fun p => { p with counters := Table.set p.counters offset 0 })))

/-- The device-wide counters (R420). -/
def globalCounter (off : Nat) : Bool :=
  off % 8 == 0 && ((decide (0x2000 ≤ off) && decide (off < 0x2000 + 16 * 144)) || (decide (0x3000 ≤ off) && decide (off < 0x3000 + 16 * 36)))

def execGlobalCounterClear (offset : Nat) (s : State) : Out :=
  event s (if globalCounter offset then some { s with sys := s.sys.setReg offset 0 } else none)

def execSyserrClear (s : State) : Out := event s (some { s with sys := s.sys.setReg 0x0070 0 })

/-- The bits that a write of a partition register takes, but for PCTL and the registers whose writes have events of their own: RW
fields of R389. `none` at any other offset. -/
def partMask (off : Nat) : Option Dword :=
  if off = 0x008 then some 0x07070707
  else if off = 0x018 ∨ off = 0x020 then some (BitVec.allOnes 64)
  else if off = 0x028 then some 0xFFFF
  else if off = 0x030 then some 0xFF7F
  else if off = 0x038 ∨ off = 0x088 ∨ off = 0x090 then some 0x0000FFFFFFFFF00F
  else if off = 0x048 ∨ off = 0x050 then some 0x0000FFFFFFFFF01F
  else if off = 0x058 then some 0xFFFFFFFF
  else if off = 0x060 then some 0xFFFF
  else if off = 0x068 then some 0x0000FFFFFFFFF000
  else if off = 0x070 then some 0x0000FFFFFFFFF0FF
  else if off = 0x078 ∨ off = 0x080 then some 0x7F
  else if off = 0x098 then some 0x0000FFFFC0000000
  else if 0x0C0 ≤ off ∧ off < 0x0E0 ∧ off % 8 = 0 then some (BitVec.allOnes 64)
  else if 0x100 ≤ off ∧ off < 0x280 ∧ off % 8 = 0 then some 0xFFFFFFFF00000003
  else none

namespace State

/-- A write of a partition register by the PF. -/
def writePart (s : State) (part off : Nat) (v : Dword) : Option State :=
  let p := s.part part
  if off = 0x000 then
    if v.getLsbD 8 ∧ v.getLsbD 9 then some (s.modPart part (fun p => { p with outcome := 3 })) else none
  else
    match partMask off with
    | none => none
    | some m =>
      if p.state ≠ 0 ∧ (off = 0x008 ∨ (0x018 ≤ off ∧ off ≤ 0x030)) then none
      else some (s.modPart part (fun p => { p with
        regs := Table.set p.regs off (v &&& m)
        bitmap := if off = 0x008 then (if rectOk (v &&& m).toNat then rectMap (v &&& m).toNat else 0) else p.bitmap }))

/-- A write of the global block by the PF. -/
def writeGlobal (s : State) (off : Nat) (v : Dword) : Option State :=
  let take (m : Dword) : Option State := some { s with sys := { s.sys with regs := Table.set s.sys.regs off (v &&& m) } }
  if off = 0x0040 then take 0x0000FFFFFFFFF000
  else if off = 0x0060 then take 0x0000FFFFFFFFF00F
  else if off = 0x0048 ∧ v.getLsbD 63 = false then take 0x000000013FFF3FFF
  else none

/-- LAYCMD commands end, each at a time of its own (log entry 66). -/
def endLayCommands (s : State) : State :=
  if s.parts.any (·.2.layBusy) then
    let (n, s1) := s.draw
    { s1 with parts := s1.parts.map (fun e => (e.1, { e.2 with layBusy := e.2.layBusy && natBit n e.1 })) }
  else s

/-- The head of the strands' register writes arrives at the system die (R387): a doorbell, a nonce or an attestation request; any other
is ignored. `none`: a doorbell's status write has to wait. -/
def servePosted (s : State) : Option State :=
  match s.posted with
  | [] => none
  | w :: rest =>
    let s1 := { s with posted := rest }
    let covers (off : Nat) : Bool := decide (w.off ≤ off) && decide (off < w.off + w.bytes.length)
    let s2 : State := (List.range w.bytes.length).foldl (fun (s : State) i =>
      let off := w.off + i
      if 0x0C0 ≤ off ∧ off < 0x0E0 then
        s.modPart w.part (fun p => { p with regs := Table.modify p.regs (off / 8 * 8) 0 (fun v =>
          (v &&& ~~~((255#64) <<< (8 * (off % 8)))) ||| (((w.bytes.getD i 0).setWidth 64) <<< (8 * (off % 8)))) })
      else s) s1
    let s3 := if covers 0x0E0 then s2.requestReport w.part ((w.bytes.getD (0x0E0 - w.off) 0).setWidth 64) else s2
    if covers 0x040 then s3.ringDoorbell w.part (ofBytes ((w.bytes.drop (0x040 - w.off)).take 4)) w.src else some s3

end State

/-- REGISTER_WRITE: by the PF at an offset of its BAR0 (`who` = 0), or by a VF at an offset of its partition's block, where ANONCE is
the only such register it may write. -/
def execRegisterWrite (who addr : Nat) (value : Dword) (s : State) : Out :=
  event s (
    if addr % 8 ≠ 0 then none
    else if who = 0 then
      if addr < 0x10000 then s.writeGlobal addr value
      else if addr < 0x410000 then s.writePart ((addr - 0x10000) / 0x10000) ((addr - 0x10000) % 0x10000) value
      else none
    else
      match List.find? (fun (e : Nat × Part) => natBits (e.2.reg 0x030).toNat 6 0 == who) s.parts with
      | some (part, _) => if 0x0C0 ≤ addr ∧ addr < 0x0E0 then s.writePart part addr value else none
      | none => none)

end Sys2Proof.Machine
end

