-- ==== Sys2Proof/Machine/ScalarFp.lean ====
section
/-!
DEFINITION. Majors 0x13 to 0x16: scalar floating point (R181 to R183).
-/
namespace Sys2Proof.Machine

/-- Writes a binary64 or binary32 result and its flags (R181, R64). -/
def State.setFp {n : Nat} (s : State) (d : GIdx) (r : BitVec n × FFlags) (taint : Bool) : State :=
  (s.setX d (r.1.setWidth 64) taint).raiseFlags r.2

def f32of (x : Dword) : Nat := (x.extractLsb' 0 32).toNat

def dbl2 (op : FpOp) (d a b : GIdx) (s : State) : Out :=
  fallThrough 4 s (.ok (s.setFp d (fpOut 64 (fpBin .b64 s.rm op (s.x a).toNat (s.x b).toNat)) (s.t2 a b)))
def sgl2 (op : FpOp) (d a b : GIdx) (s : State) : Out :=
  fallThrough 4 s (.ok (s.setFp d (fpOut 32 (fpBin .b32 s.rm op (f32of (s.x a)) (f32of (s.x b)))) (s.t2 a b)))

def execDadd (d a b : GIdx) (s : State) : Out := dbl2 .add d a b s
def execDsub (d a b : GIdx) (s : State) : Out := dbl2 .sub d a b s
def execDmul (d a b : GIdx) (s : State) : Out := dbl2 .mul d a b s
def execDdiv (d a b : GIdx) (s : State) : Out := dbl2 .div d a b s
def execDmin (d a b : GIdx) (s : State) : Out := dbl2 .min' d a b s
def execDmax (d a b : GIdx) (s : State) : Out := dbl2 .max' d a b s
def execDsqrt (d a : GIdx) (s : State) : Out :=
  fallThrough 4 s (.ok (s.setFp d (fpOut 64 (fpSqrt .b64 s.rm (s.x a).toNat)) (s.g a).taint))
def execDfma (d a b : GIdx) (s : State) : Out :=
  fallThrough 4 s (.ok (s.setFp d (fpOut 64 (fpFma .b64 s.rm false false (s.x a).toNat (s.x b).toNat (s.x d).toNat))
    (s.t2 a b || (s.g d).taint)))
def execFadd (d a b : GIdx) (s : State) : Out := sgl2 .add d a b s
def execFsub (d a b : GIdx) (s : State) : Out := sgl2 .sub d a b s
def execFmul (d a b : GIdx) (s : State) : Out := sgl2 .mul d a b s
def execFdiv (d a b : GIdx) (s : State) : Out := sgl2 .div d a b s
def execFmin (d a b : GIdx) (s : State) : Out := sgl2 .min' d a b s
def execFmax (d a b : GIdx) (s : State) : Out := sgl2 .max' d a b s
def execFsqrt (d a : GIdx) (s : State) : Out :=
  fallThrough 4 s (.ok (s.setFp d (fpOut 32 (fpSqrt .b32 s.rm (f32of (s.x a)))) (s.g a).taint))
def execFfma (d a b : GIdx) (s : State) : Out :=
  fallThrough 4 s (.ok (s.setFp d (fpOut 32 (fpFma .b32 s.rm false false (f32of (s.x a)) (f32of (s.x b)) (f32of (s.x d))))
    (s.t2 a b || (s.g d).taint)))

/-- A unary conversion (R182). -/
def conv {n : Nat} (f : Rm → Dword → BitVec n × FFlags) (d a : GIdx) (s : State) : Out :=
  fallThrough 4 s (.ok (s.setFp d (f s.rm (s.x a)) (s.g a).taint))

def execD2i (d a : GIdx) (s : State) : Out := conv (fun rm x => fpToInt .b64 rm 64 true x.toNat) d a s
def execI2d (d a : GIdx) (s : State) : Out := conv (fun rm x => fpOut 64 (ofIntFl .b64 rm x.toInt)) d a s
def execF2d (d a : GIdx) (s : State) : Out := conv (fun rm x => fpOut 64 (convFl .b32 .b64 rm (f32of x))) d a s
def execD2f (d a : GIdx) (s : State) : Out := conv (fun rm x => fpOut 32 (convFl .b64 .b32 rm x.toNat)) d a s
def execF2i (d a : GIdx) (s : State) : Out := conv (fun rm x => fpToInt .b32 rm 64 true (f32of x)) d a s
def execI2f (d a : GIdx) (s : State) : Out := conv (fun rm x => fpOut 32 (ofIntFl .b32 rm x.toInt)) d a s
def execD2z (d a : GIdx) (s : State) : Out := conv (fun rm x => fpToInt .b64 rm 64 false x.toNat) d a s
def execZ2d (d a : GIdx) (s : State) : Out := conv (fun rm x => fpOut 64 (ofIntFl .b64 rm (x.toNat : Int))) d a s

def execFcmpD (p c : PIdx) (a b : GIdx) (s : State) : Out :=
  let r := fcmpCode .b64 c (s.x a).toNat (s.x b).toNat
  fallThrough 4 s (.ok ((s.setP p (ones64 r.1) (s.t2 a b)).raiseFlags r.2))
def execFcmpS (p c : PIdx) (a b : GIdx) (s : State) : Out :=
  let r := fcmpCode .b32 c (f32of (s.x a)) (f32of (s.x b))
  fallThrough 4 s (.ok ((s.setP p (ones64 r.1) (s.t2 a b)).raiseFlags r.2))

end Sys2Proof.Machine
end

