-- ==== Sys2Proof/Machine/Dispatch.lean ====
section
/-!
DEFINITION. The dispatcher: one arm for each constructor of Instr, one meaning for each arm.
-/
namespace Sys2Proof.Machine

def exec (i : Instr) (s : State) : Host.Outcome State Fault Refusal :=
  match i with
  | .add d a b => Sys2Proof.Machine.execAdd d a b s
  | .sub d a b => Sys2Proof.Machine.execSub d a b s
  | .mul d a b => Sys2Proof.Machine.execMul d a b s
  | .mulh d a b => Sys2Proof.Machine.execMulh d a b s
  | .mulhz d a b => Sys2Proof.Machine.execMulhz d a b s
  | .addw d a b => Sys2Proof.Machine.execAddw d a b s
  | .subw d a b => Sys2Proof.Machine.execSubw d a b s
  | .neg d a => Sys2Proof.Machine.execNeg d a s
  | .div d a b => Sys2Proof.Machine.execDiv d a b s
  | .divz d a b => Sys2Proof.Machine.execDivz d a b s
  | .rem d a b => Sys2Proof.Machine.execRem d a b s
  | .remz d a b => Sys2Proof.Machine.execRemz d a b s
  | .min d a b => Sys2Proof.Machine.execMin d a b s
  | .max d a b => Sys2Proof.Machine.execMax d a b s
  | .minz d a b => Sys2Proof.Machine.execMinz d a b s
  | .maxz d a b => Sys2Proof.Machine.execMaxz d a b s
  | .and d a b => Sys2Proof.Machine.execAnd d a b s
  | .or d a b => Sys2Proof.Machine.execOr d a b s
  | .xor d a b => Sys2Proof.Machine.execXor d a b s
  | .andn d a b => Sys2Proof.Machine.execAndn d a b s
  | .orn d a b => Sys2Proof.Machine.execOrn d a b s
  | .shl d a b => Sys2Proof.Machine.execShl d a b s
  | .shr d a b => Sys2Proof.Machine.execShr d a b s
  | .sar d a b => Sys2Proof.Machine.execSar d a b s
  | .rol d a b => Sys2Proof.Machine.execRol d a b s
  | .clz d a => Sys2Proof.Machine.execClz d a s
  | .ctz d a => Sys2Proof.Machine.execCtz d a s
  | .popc d a => Sys2Proof.Machine.execPopc d a s
  | .brev d a => Sys2Proof.Machine.execBrev d a s
  | .bswap d a => Sys2Proof.Machine.execBswap d a s
  | .sext d a w => Sys2Proof.Machine.execSext d a w s
  | .zext d a w => Sys2Proof.Machine.execZext d a w s
  | .addi d a k0 => Sys2Proof.Machine.execAddi d a k0 s
  | .andi d a k0 => Sys2Proof.Machine.execAndi d a k0 s
  | .ori d a k0 => Sys2Proof.Machine.execOri d a k0 s
  | .xori d a k0 => Sys2Proof.Machine.execXori d a k0 s
  | .shli d a k0 => Sys2Proof.Machine.execShli d a k0 s
  | .shri d a k0 => Sys2Proof.Machine.execShri d a k0 s
  | .sari d a k0 => Sys2Proof.Machine.execSari d a k0 s
  | .roli d a k0 => Sys2Proof.Machine.execRoli d a k0 s
  | .cmpi p c a k0 => Sys2Proof.Machine.execCmpi p c a k0 s
  | .cmp p c a b => Sys2Proof.Machine.execCmp p c a b s
  | .cmpW p c a b => Sys2Proof.Machine.execCmpW p c a b s
  | .sel d a b p => Sys2Proof.Machine.execSel d a b p s
  | .li d k0 => Sys2Proof.Machine.execLi d k0 s
  | .lie d k0 => Sys2Proof.Machine.execLie d k0 s
  | .bfx d a b => Sys2Proof.Machine.execBfx d a b s
  | .bfxz d a b => Sys2Proof.Machine.execBfxz d a b s
  | .bfi d a b => Sys2Proof.Machine.execBfi d a b s
  | .pand d a b => Sys2Proof.Machine.execPand d a b s
  | .por d a b => Sys2Proof.Machine.execPor d a b s
  | .pxor d a b => Sys2Proof.Machine.execPxor d a b s
  | .pandn d a b => Sys2Proof.Machine.execPandn d a b s
  | .pnot d a => Sys2Proof.Machine.execPnot d a s
  | .pmovg d a => Sys2Proof.Machine.execPmovg d a s
  | .pfromg d a => Sys2Proof.Machine.execPfromg d a s
  | .pcnt d a => Sys2Proof.Machine.execPcnt d a s
  | .cadd d a b => Sys2Proof.Machine.execCadd d a b s
  | .csetb d a b => Sys2Proof.Machine.execCsetb d a b s
  | .candp d a b => Sys2Proof.Machine.execCandp d a b s
  | .cget d a f1 => Sys2Proof.Machine.execCget d a f1 s
  | .cseal d a b => Sys2Proof.Machine.execCseal d a b s
  | .cunseal d a b => Sys2Proof.Machine.execCunseal d a b s
  | .ctag d a b => Sys2Proof.Machine.execCtag d a b s
  | .cclr d a => Sys2Proof.Machine.execCclr d a s
  | .caddi d a k0 => Sys2Proof.Machine.execCaddi d a k0 s
  | .mov d a => Sys2Proof.Machine.execMov d a s
  | .move d a => Sys2Proof.Machine.execMove d a s
  | .movg d a => Sys2Proof.Machine.execMovg d a s
  | .vins d a b => Sys2Proof.Machine.execVins d a b s
  | .vext d a b => Sys2Proof.Machine.execVext d a b s
  | .vbcg d a => Sys2Proof.Machine.execVbcg d a s
  | .dadd d a b => Sys2Proof.Machine.execDadd d a b s
  | .dsub d a b => Sys2Proof.Machine.execDsub d a b s
  | .dmul d a b => Sys2Proof.Machine.execDmul d a b s
  | .ddiv d a b => Sys2Proof.Machine.execDdiv d a b s
  | .dmin d a b => Sys2Proof.Machine.execDmin d a b s
  | .dmax d a b => Sys2Proof.Machine.execDmax d a b s
  | .dsqrt d a => Sys2Proof.Machine.execDsqrt d a s
  | .dfma d a b => Sys2Proof.Machine.execDfma d a b s
  | .fadd d a b => Sys2Proof.Machine.execFadd d a b s
  | .fsub d a b => Sys2Proof.Machine.execFsub d a b s
  | .fmul d a b => Sys2Proof.Machine.execFmul d a b s
  | .fdiv d a b => Sys2Proof.Machine.execFdiv d a b s
  | .fmin d a b => Sys2Proof.Machine.execFmin d a b s
  | .fmax d a b => Sys2Proof.Machine.execFmax d a b s
  | .fsqrt d a => Sys2Proof.Machine.execFsqrt d a s
  | .ffma d a b => Sys2Proof.Machine.execFfma d a b s
  | .d2i d a => Sys2Proof.Machine.execD2i d a s
  | .i2d d a => Sys2Proof.Machine.execI2d d a s
  | .f2d d a => Sys2Proof.Machine.execF2d d a s
  | .d2f d a => Sys2Proof.Machine.execD2f d a s
  | .f2i d a => Sys2Proof.Machine.execF2i d a s
  | .i2f d a => Sys2Proof.Machine.execI2f d a s
  | .d2z d a => Sys2Proof.Machine.execD2z d a s
  | .z2d d a => Sys2Proof.Machine.execZ2d d a s
  | .fcmpD p c a b => Sys2Proof.Machine.execFcmpD p c a b s
  | .fcmpS p c a b => Sys2Proof.Machine.execFcmpS p c a b s
  | .br k0 => Sys2Proof.Machine.execBr k0 s
  | .call k0 => Sys2Proof.Machine.execCall k0 s
  | .brc p n k0 => Sys2Proof.Machine.execBrc p n k0 s
  | .jr a => Sys2Proof.Machine.execJr a s
  | .jalr d a => Sys2Proof.Machine.execJalr d a s
  | .ret => Sys2Proof.Machine.execRet s
  | .loop d k0 => Sys2Proof.Machine.execLoop d k0 s
  | .rep a f1 l => Sys2Proof.Machine.execRep a f1 l s
  | .follow a k0 => Sys2Proof.Machine.execFollow a k0 s
  | .detach => Sys2Proof.Machine.execDetach s
  | .rjoin k0 => Sys2Proof.Machine.execRjoin k0 s
  | .fquit => Sys2Proof.Machine.execFquit s
  | .spawn a b => Sys2Proof.Machine.execSpawn a b s
  | .spawnc a b => Sys2Proof.Machine.execSpawnc a b s
  | .enqg a => Sys2Proof.Machine.execEnqg a s
  | .enql a b => Sys2Proof.Machine.execEnql a b s
  | .jdec d a => Sys2Proof.Machine.execJdec d a s
  | .exit => Sys2Proof.Machine.execExit s
  | .yield => Sys2Proof.Machine.execYield s
  | .nop => Sys2Proof.Machine.execNop s
  | .sleep k => Sys2Proof.Machine.execSleep k s
  | .ld d a z x k0 => Sys2Proof.Machine.execLd d a z x k0 s
  | .st d a z k0 => Sys2Proof.Machine.execSt d a z k0 s
  | .ldq d a b => Sys2Proof.Machine.execLdq d a b s
  | .stq d a b => Sys2Proof.Machine.execStq d a b s
  | .ldc d a b => Sys2Proof.Machine.execLdc d a b s
  | .stc d a b => Sys2Proof.Machine.execStc d a b s
  | .ldx d a b => Sys2Proof.Machine.execLdx d a b s
  | .stx d a b => Sys2Proof.Machine.execStx d a b s
  | .pref l a b => Sys2Proof.Machine.execPref l a b s
  | .lda d a w f => Sys2Proof.Machine.execLda d a w f s
  | .stl d a w f => Sys2Proof.Machine.execStl d a w f s
  | .amoadd d a b f => Sys2Proof.Machine.execAmoadd d a b f s
  | .amoand d a b f => Sys2Proof.Machine.execAmoand d a b f s
  | .amoor d a b f => Sys2Proof.Machine.execAmoor d a b f s
  | .amoxor d a b f => Sys2Proof.Machine.execAmoxor d a b f s
  | .amomin d a b f => Sys2Proof.Machine.execAmomin d a b f s
  | .amomax d a b f => Sys2Proof.Machine.execAmomax d a b f s
  | .amoswap d a b f => Sys2Proof.Machine.execAmoswap d a b f s
  | .amocas d a b f => Sys2Proof.Machine.execAmocas d a b f s
  | .amofadd d a b f => Sys2Proof.Machine.execAmofadd d a b f s
  | .red o a b f => Sys2Proof.Machine.execRed o a b f s
  | .fenceAcq f1 => Sys2Proof.Machine.execFenceAcq f1 s
  | .fenceRel f1 => Sys2Proof.Machine.execFenceRel f1 s
  | .fenceFull f1 => Sys2Proof.Machine.execFenceFull f1 s
  | .fenceClean a f1 => Sys2Proof.Machine.execFenceClean a f1 s
  | .fenceInv a f1 => Sys2Proof.Machine.execFenceInv a f1 s
  | .fenceCleaninv a f1 => Sys2Proof.Machine.execFenceCleaninv a f1 s
  | .wait l f1 c t => Sys2Proof.Machine.execWait l f1 c t s
  | .waita f1 c a b k => Sys2Proof.Machine.execWaita f1 c a b k s
  | .binit a b => Sys2Proof.Machine.execBinit a b s
  | .barr d a => Sys2Proof.Machine.execBarr d a s
  | .barb d a b => Sys2Proof.Machine.execBarb d a b s
  | .bwait a b => Sys2Proof.Machine.execBwait a b s
  | .barw d a => Sys2Proof.Machine.execBarw d a s
  | .bdrop a => Sys2Proof.Machine.execBdrop a s
  | .cpdn d a c => Sys2Proof.Machine.execCpdn d a c s
  | .waitid a c => Sys2Proof.Machine.execWaitid a c s
  | .cperr d c => Sys2Proof.Machine.execCperr d c s
  | .copy d a b => Sys2Proof.Machine.execCopy d a b s
  | .copy2 d a b => Sys2Proof.Machine.execCopy2 d a b s
  | .copyp d a b => Sys2Proof.Machine.execCopyp d a b s
  | .copyz d a b => Sys2Proof.Machine.execCopyz d a b s
  | .copyf d a b => Sys2Proof.Machine.execCopyf d a b s
  | .copyt d a b => Sys2Proof.Machine.execCopyt d a b s
  | .copyb d a b => Sys2Proof.Machine.execCopyb d a b s
  | .stmr d a => Sys2Proof.Machine.execStmr d a s
  | .stmw d a => Sys2Proof.Machine.execStmw d a s
  | .stmx d a => Sys2Proof.Machine.execStmx d a s
  | .stmd a => Sys2Proof.Machine.execStmd a s
  | .gath d a b => Sys2Proof.Machine.execGath d a b s
  | .gaths d a b => Sys2Proof.Machine.execGaths d a b s
  | .scat d a b => Sys2Proof.Machine.execScat d a b s
  | .scata d a b => Sys2Proof.Machine.execScata d a b s
  | .scato d a b => Sys2Proof.Machine.execScato d a b s
  | .logm a => Sys2Proof.Machine.execLogm a s
  | .grest d a b => Sys2Proof.Machine.execGrest d a b s
  | .vfadd d a b m => Sys2Proof.Machine.execVfadd d a b m s
  | .vfsub d a b m => Sys2Proof.Machine.execVfsub d a b m s
  | .vfmul d a b m => Sys2Proof.Machine.execVfmul d a b m s
  | .vfdiv d a b m => Sys2Proof.Machine.execVfdiv d a b m s
  | .vfmin d a b m => Sys2Proof.Machine.execVfmin d a b m s
  | .vfmax d a b m => Sys2Proof.Machine.execVfmax d a b m s
  | .vfabs d a m => Sys2Proof.Machine.execVfabs d a m s
  | .vfneg d a m => Sys2Proof.Machine.execVfneg d a m s
  | .vfma d a b m => Sys2Proof.Machine.execVfma d a b m s
  | .vfms d a b m => Sys2Proof.Machine.execVfms d a b m s
  | .vfnma d a b m => Sys2Proof.Machine.execVfnma d a b m s
  | .vfsqrt d a m => Sys2Proof.Machine.execVfsqrt d a m s
  | .vfrsq d a m => Sys2Proof.Machine.execVfrsq d a m s
  | .vfrcp d a m => Sys2Proof.Machine.execVfrcp d a m s
  | .vfex2 d a m => Sys2Proof.Machine.execVfex2 d a m s
  | .vflg2 d a m => Sys2Proof.Machine.execVflg2 d a m s
  | .vbadd d a b m => Sys2Proof.Machine.execVbadd d a b m s
  | .vbmul d a b m => Sys2Proof.Machine.execVbmul d a b m s
  | .vbfma d a b m => Sys2Proof.Machine.execVbfma d a b m s
  | .vhadd d a b m => Sys2Proof.Machine.execVhadd d a b m s
  | .vhmul d a b m => Sys2Proof.Machine.execVhmul d a b m s
  | .vhfma d a b m => Sys2Proof.Machine.execVhfma d a b m s
  | .vadd d a b m => Sys2Proof.Machine.execVadd d a b m s
  | .vsub d a b m => Sys2Proof.Machine.execVsub d a b m s
  | .vmul d a b m => Sys2Proof.Machine.execVmul d a b m s
  | .vmin d a b m => Sys2Proof.Machine.execVmin d a b m s
  | .vmax d a b m => Sys2Proof.Machine.execVmax d a b m s
  | .vminz d a b m => Sys2Proof.Machine.execVminz d a b m s
  | .vmaxz d a b m => Sys2Proof.Machine.execVmaxz d a b m s
  | .vabs d a m => Sys2Proof.Machine.execVabs d a m s
  | .vand d a b m => Sys2Proof.Machine.execVand d a b m s
  | .vor d a b m => Sys2Proof.Machine.execVor d a b m s
  | .vxor d a b m => Sys2Proof.Machine.execVxor d a b m s
  | .vandn d a b m => Sys2Proof.Machine.execVandn d a b m s
  | .vshl d a b m => Sys2Proof.Machine.execVshl d a b m s
  | .vshr d a b m => Sys2Proof.Machine.execVshr d a b m s
  | .vsar d a b m => Sys2Proof.Machine.execVsar d a b m s
  | .vnot d a m => Sys2Proof.Machine.execVnot d a m s
  | .vfcmp p a b m c => Sys2Proof.Machine.execVfcmp p a b m c s
  | .vicmp p a b m c => Sys2Proof.Machine.execVicmp p a b m c s
  | .vsel d a b m => Sys2Proof.Machine.execVsel d a b m s
  | .vprm d a b m => Sys2Proof.Machine.execVprm d a b m s
  | .vzip d a b m => Sys2Proof.Machine.execVzip d a b m s
  | .vunz d a b m => Sys2Proof.Machine.execVunz d a b m s
  | .vsld d a b m => Sys2Proof.Machine.execVsld d a b m s
  | .vcmpr d a m => Sys2Proof.Machine.execVcmpr d a m s
  | .vexpd d a m => Sys2Proof.Machine.execVexpd d a m s
  | .vmov d a m => Sys2Proof.Machine.execVmov d a m s
  | .vradd d a m => Sys2Proof.Machine.execVradd d a m s
  | .vrmax d a m => Sys2Proof.Machine.execVrmax d a m s
  | .vrmin d a m => Sys2Proof.Machine.execVrmin d a m s
  | .vriadd d a m => Sys2Proof.Machine.execVriadd d a m s
  | .vscan d a m => Sys2Proof.Machine.execVscan d a m s
  | .viscan d a m => Sys2Proof.Machine.execViscan d a m s
  | .vdot d a b m => Sys2Proof.Machine.execVdot d a b m s
  | .vdec d a f1 q m => Sys2Proof.Machine.execVdec d a f1 q m s
  | .venc d a q m => Sys2Proof.Machine.execVenc d a q m s
  | .vf2b d a b m => Sys2Proof.Machine.execVf2b d a b m s
  | .vb2f d a x m => Sys2Proof.Machine.execVb2f d a x m s
  | .vf2h d a b m => Sys2Proof.Machine.execVf2h d a b m s
  | .vh2f d a x m => Sys2Proof.Machine.execVh2f d a x m s
  | .vi2f d a m => Sys2Proof.Machine.execVi2f d a m s
  | .vf2i d a m => Sys2Proof.Machine.execVf2i d a m s
  | .vld d a b => Sys2Proof.Machine.execVld d a b s
  | .vst d a b => Sys2Proof.Machine.execVst d a b s
  | .vlds d a b => Sys2Proof.Machine.execVlds d a b s
  | .vsts d a b => Sys2Proof.Machine.execVsts d a b s
  | .vldx d a b => Sys2Proof.Machine.execVldx d a b s
  | .vstx d a b => Sys2Proof.Machine.execVstx d a b s
  | .vldb d a b => Sys2Proof.Machine.execVldb d a b s
  | .tmma n z hBit c a b => Sys2Proof.Machine.execTmma n z hBit c a b s
  | .tzero n => Sys2Proof.Machine.execTzero n s
  | .tzeroR n => Sys2Proof.Machine.execTzeroR n s
  | .tst n a b => Sys2Proof.Machine.execTst n a b s
  | .tstBf n a b => Sys2Proof.Machine.execTstBf n a b s
  | .tstCd n a b => Sys2Proof.Machine.execTstCd n a b s
  | .tcvt n a => Sys2Proof.Machine.execTcvt n a s
  | .tld n a b => Sys2Proof.Machine.execTld n a b s
  | .tldBf n a b => Sys2Proof.Machine.execTldBf n a b s
  | .tcmt n => Sys2Proof.Machine.execTcmt n s
  | .tdsc n => Sys2Proof.Machine.execTdsc n s
  | .tadd n a b => Sys2Proof.Machine.execTadd n a b s
  | .tbld f1 a => Sys2Proof.Machine.execTbld f1 a s
  | .tbst f1 a => Sys2Proof.Machine.execTbst f1 a s
  | .tbinf d f1 => Sys2Proof.Machine.execTbinf d f1 s
  | .srd d a => Sys2Proof.Machine.execSrd d a s
  | .sadv d a => Sys2Proof.Machine.execSadv d a s
  | .supd d a b => Sys2Proof.Machine.execSupd d a b s
  | .sset a b => Sys2Proof.Machine.execSset a b s
  | .sarm d a => Sys2Proof.Machine.execSarm d a s
  | .sdis d a => Sys2Proof.Machine.execSdis d a s
  | .sswp a b => Sys2Proof.Machine.execSswp a b s
  | .sraw d a m => Sys2Proof.Machine.execSraw d a m s
  | .vsrd d a => Sys2Proof.Machine.execVsrd d a s
  | .vsadv d a => Sys2Proof.Machine.execVsadv d a s
  | .vsupd d a b => Sys2Proof.Machine.execVsupd d a b s
  | .vsrdy d a => Sys2Proof.Machine.execVsrdy d a s
  | .slaw a => Sys2Proof.Machine.execSlaw a s
  | .sclkr d => Sys2Proof.Machine.execSclkr d s
  | .sclkw a => Sys2Proof.Machine.execSclkw a s
  | .sclka d a => Sys2Proof.Machine.execSclka d a s
  | .evpop a => Sys2Proof.Machine.execEvpop a s
  | .evwait => Sys2Proof.Machine.execEvwait s
  | .stime d => Sys2Proof.Machine.execStime d s
  | .chbnd d a b => Sys2Proof.Machine.execChbnd d a b s
  | .chfld a => Sys2Proof.Machine.execChfld a s
  | .chspr a => Sys2Proof.Machine.execChspr a s
  | .cheq d a => Sys2Proof.Machine.execCheq d a s
  | .chst d a b => Sys2Proof.Machine.execChst d a b s
  | .chend a p k => Sys2Proof.Machine.execChend a p k s
  | .chwt d a => Sys2Proof.Machine.execChwt d a s
  | .get d p => Sys2Proof.Machine.execGet d p s
  | .put d p => Sys2Proof.Machine.execPut d p s
  | .gett d p => Sys2Proof.Machine.execGett d p s
  | .putt d p => Sys2Proof.Machine.execPutt d p s
  | .vget d p => Sys2Proof.Machine.execVget d p s
  | .vput d p => Sys2Proof.Machine.execVput d p s
  | .gete d p => Sys2Proof.Machine.execGete d p s
  | .invoke d a => Sys2Proof.Machine.execInvoke d a s
  | .invon d a b => Sys2Proof.Machine.execInvon d a b s
  | .invat d a b => Sys2Proof.Machine.execInvat d a b s
  | .sendh a b => Sys2Proof.Machine.execSendh a b s
  | .await d a => Sys2Proof.Machine.execAwait d a s
  | .awaitt d a => Sys2Proof.Machine.execAwaitt d a s
  | .pollh d a => Sys2Proof.Machine.execPollh d a s
  | .hdrop a => Sys2Proof.Machine.execHdrop a s
  | .hbind a b => Sys2Proof.Machine.execHbind a b s
  | .hful a b => Sys2Proof.Machine.execHful a b s
  | .hbrk a b => Sys2Proof.Machine.execHbrk a b s
  | .hstat d a => Sys2Proof.Machine.execHstat d a s
  | .ext k w k0 => Sys2Proof.Machine.execExt k w k0 s
  | .csrr d k0 => Sys2Proof.Machine.execCsrr d k0 s
  | .csrw d k0 => Sys2Proof.Machine.execCsrw d k0 s
  | .trap a => Sys2Proof.Machine.execTrap a s
  | .eret => Sys2Proof.Machine.execEret s
  | .sret d a => Sys2Proof.Machine.execSret d a s
  | .ecall => Sys2Proof.Machine.execEcall s
  | .tlbir a b => Sys2Proof.Machine.execTlbir a b s
  | .tlbira a b => Sys2Proof.Machine.execTlbira a b s
  | .tlbia => Sys2Proof.Machine.execTlbia s
  | .tlbw => Sys2Proof.Machine.execTlbw s
  | .preq a b => Sys2Proof.Machine.execPreq a b s
  | .sctx a b => Sys2Proof.Machine.execSctx a b s
  | .lctx a b => Sys2Proof.Machine.execLctx a b s
  | .pins a => Sys2Proof.Machine.execPins a s
  | .unpn a => Sys2Proof.Machine.execUnpn a s
  | .migr a b => Sys2Proof.Machine.execMigr a b s
  | .telw a => Sys2Proof.Machine.execTelw a s
  | .cMov d a => Sys2Proof.Machine.execCMov d a s
  | .cAdd d a => Sys2Proof.Machine.execCAdd d a s
  | .cSub d a => Sys2Proof.Machine.execCSub d a s
  | .cAddi d k0 => Sys2Proof.Machine.execCAddi d k0 s
  | .cLi d k0 => Sys2Proof.Machine.execCLi d k0 s
  | .cShli d k0 => Sys2Proof.Machine.execCShli d k0 s
  | .cShri d k0 => Sys2Proof.Machine.execCShri d k0 s
  | .cAnd d a => Sys2Proof.Machine.execCAnd d a s
  | .cOr d a => Sys2Proof.Machine.execCOr d a s
  | .cXor d a => Sys2Proof.Machine.execCXor d a s
  | .cLd d a => Sys2Proof.Machine.execCLd d a s
  | .cSt d a => Sys2Proof.Machine.execCSt d a s
  | .cBr k0 => Sys2Proof.Machine.execCBr k0 s
  | .cBrc p n k0 => Sys2Proof.Machine.execCBrc p n k0 s
  | .cRet => Sys2Proof.Machine.execCRet s
  | .cExit => Sys2Proof.Machine.execCExit s
  | .cNop => Sys2Proof.Machine.execCNop s
  | .cWait0 => Sys2Proof.Machine.execCWait0 s
  | .cGet d p => Sys2Proof.Machine.execCGet d p s
  | .cPut d p => Sys2Proof.Machine.execCPut d p s
  | .cCheq d a => Sys2Proof.Machine.execCCheq d a s
  | .cCmpeq d a => Sys2Proof.Machine.execCCmpeq d a s
  | .cCmplt d a => Sys2Proof.Machine.execCCmplt d a s
  | .cYield => Sys2Proof.Machine.execCYield s
  | .illegalInstruction word half => Sys2Proof.Machine.execIllegalInstruction word half s
  | .wake slot => Sys2Proof.Machine.execWake slot s
  | .waitaTimeout slot => Sys2Proof.Machine.execWaitaTimeout slot s
  | .sleepExpiry slot => Sys2Proof.Machine.execSleepExpiry slot s
  | .rjoinTimeout slot => Sys2Proof.Machine.execRjoinTimeout slot s
  | .followerLagDetach slot => Sys2Proof.Machine.execFollowerLagDetach slot s
  | .followerIssue slot => Sys2Proof.Machine.execFollowerIssue slot s
  | .strandRetire slot => Sys2Proof.Machine.execStrandRetire slot s
  | .engineTake core => Sys2Proof.Machine.execEngineTake core s
  | .tmmaKblock core => Sys2Proof.Machine.execTmmaKblock core s
  | .accumOpComplete core => Sys2Proof.Machine.execAccumOpComplete core s
  | .recheckComplete quad => Sys2Proof.Machine.execRecheckComplete quad s
  | .chknWrite core value => Sys2Proof.Machine.execChknWrite core value s
  | .stickWrite slot value => Sys2Proof.Machine.execStickWrite slot value s
  | .balanceRound cluster => Sys2Proof.Machine.execBalanceRound cluster s
  | .dispatch slot => Sys2Proof.Machine.execDispatch slot s
  | .dispatchRetry slot => Sys2Proof.Machine.execDispatchRetry slot s
  | .heldRecordPush part slice => Sys2Proof.Machine.execHeldRecordPush part slice s
  | .pageFill slot page => Sys2Proof.Machine.execPageFill slot page s
  | .pageDrain core page => Sys2Proof.Machine.execPageDrain core page s
  | .l1Evict core line => Sys2Proof.Machine.execL1Evict core line s
  | .rowCacheFill unit bad => Sys2Proof.Machine.execRowCacheFill unit bad s
  | .homeRequest index => Sys2Proof.Machine.execHomeRequest index s
  | .routerMerge first second => Sys2Proof.Machine.execRouterMerge first second s
  | .combiningFlush core => Sys2Proof.Machine.execCombiningFlush core s
  | .orphanReduction index => Sys2Proof.Machine.execOrphanReduction index s
  | .pageWalk slot va => Sys2Proof.Machine.execPageWalk slot va s
  | .stalledWriteRetry slot => Sys2Proof.Machine.execStalledWriteRetry slot s
  | .tlbInvalidateAck index => Sys2Proof.Machine.execTlbInvalidateAck index s
  | .migrationCommit index => Sys2Proof.Machine.execMigrationCommit index s
  | .copyUnitLand core index => Sys2Proof.Machine.execCopyUnitLand core index s
  | .copyComplete core index => Sys2Proof.Machine.execCopyComplete core index s
  | .copyError core index cause addr => Sys2Proof.Machine.execCopyError core index cause addr s
  | .gatherElement core index element => Sys2Proof.Machine.execGatherElement core index element s
  | .gatherComplete core index => Sys2Proof.Machine.execGatherComplete core index s
  | .vectorLoadComplete slot index lanes => Sys2Proof.Machine.execVectorLoadComplete slot index lanes s
  | .vstateLane slot index lane => Sys2Proof.Machine.execVstateLane slot index lane s
  | .calendarFire cluster index => Sys2Proof.Machine.execCalendarFire cluster index s
  | .fireRequestServe index => Sys2Proof.Machine.execFireRequestServe index s
  | .heldFiringPost cluster index => Sys2Proof.Machine.execHeldFiringPost cluster index s
  | .sweepPass cluster => Sys2Proof.Machine.execSweepPass cluster s
  | .sweepWord cluster => Sys2Proof.Machine.execSweepWord cluster s
  | .chainPolicySample cluster chain => Sys2Proof.Machine.execChainPolicySample cluster chain s
  | .chainFold cluster chain => Sys2Proof.Machine.execChainFold cluster chain s
  | .chainSpread cluster chain => Sys2Proof.Machine.execChainSpread cluster chain s
  | .chainTriggerTimeout cluster chain => Sys2Proof.Machine.execChainTriggerTimeout cluster chain s
  | .chainStateFree cluster chain => Sys2Proof.Machine.execChainStateFree cluster chain s
  | .handleMessage index => Sys2Proof.Machine.execHandleMessage index s
  | .mailboxDeliver part serial => Sys2Proof.Machine.execMailboxDeliver part serial s
  | .handleLinkTimeout part serial => Sys2Proof.Machine.execHandleLinkTimeout part serial s
  | .spillCatch index => Sys2Proof.Machine.execSpillCatch index s
  | .spillReplay cluster => Sys2Proof.Machine.execSpillReplay cluster s
  | .preemptRequest part age cluster requester => Sys2Proof.Machine.execPreemptRequest part age cluster requester s
  | .copyDrainExpiry part age cluster => Sys2Proof.Machine.execCopyDrainExpiry part age cluster s
  | .preemptHaltComplete part age cluster => Sys2Proof.Machine.execPreemptHaltComplete part age cluster s
  | .crewResume part age cluster => Sys2Proof.Machine.execCrewResume part age cluster s
  | .faultRecordPlace part => Sys2Proof.Machine.execFaultRecordPlace part s
  | .telemetryRecordPlace part => Sys2Proof.Machine.execTelemetryRecordPlace part s
  | .doorbell part qidx source => Sys2Proof.Machine.execDoorbell part qidx source s
  | .dependenceResolved part age => Sys2Proof.Machine.execDependenceResolved part age s
  | .crewPlace part => Sys2Proof.Machine.execCrewPlace part s
  | .priorityPreempt part => Sys2Proof.Machine.execPriorityPreempt part s
  | .quantumExpiry part => Sys2Proof.Machine.execQuantumExpiry part s
  | .launchEnd part age => Sys2Proof.Machine.execLaunchEnd part age s
  | .thermalClockStep mhz => Sys2Proof.Machine.execThermalClockStep mhz s
  | .thermalHold => Sys2Proof.Machine.execThermalHold s
  | .thermalRelease => Sys2Proof.Machine.execThermalRelease s
  | .inputOutOfRange => Sys2Proof.Machine.execInputOutOfRange s
  | .reset => Sys2Proof.Machine.execReset s
  | .bootStage1 => Sys2Proof.Machine.execBootStage1 s
  | .bootStage2 layers peers lock => Sys2Proof.Machine.execBootStage2 layers peers lock s
  | .dziacFrameReceive port crcOk retryOk frame => Sys2Proof.Machine.execDziacFrameReceive port crcOk retryOk frame s
  | .hostAccess access => Sys2Proof.Machine.execHostAccess access s
  | .functionLevelReset vf => Sys2Proof.Machine.execFunctionLevelReset vf s
  | .partitionActivate part => Sys2Proof.Machine.execPartitionActivate part s
  | .partitionDeactivate part => Sys2Proof.Machine.execPartitionDeactivate part s
  | .resizeRequest part value => Sys2Proof.Machine.execResizeRequest part value s
  | .resizeLeaveClear part => Sys2Proof.Machine.execResizeLeaveClear part s
  | .resizeCommit part => Sys2Proof.Machine.execResizeCommit part s
  | .layerAdd part value => Sys2Proof.Machine.execLayerAdd part value s
  | .layerPredictiveRemove part value => Sys2Proof.Machine.execLayerPredictiveRemove part value s
  | .layerFinalRemove part value => Sys2Proof.Machine.execLayerFinalRemove part value s
  | .laycmdNop part value => Sys2Proof.Machine.execLaycmdNop part value s
  | .layerErrorLimit layer final => Sys2Proof.Machine.execLayerErrorLimit layer final s
  | .attestRequest part value => Sys2Proof.Machine.execAttestRequest part value s
  | .attestDone part => Sys2Proof.Machine.execAttestDone part s
  | .sysresResume value => Sys2Proof.Machine.execSysresResume value s
  | .sysresKill value => Sys2Proof.Machine.execSysresKill value s
  | .intmaskWrite part value => Sys2Proof.Machine.execIntmaskWrite part value s
  | .counterClear part offset => Sys2Proof.Machine.execCounterClear part offset s
  | .globalCounterClear offset => Sys2Proof.Machine.execGlobalCounterClear offset s
  | .syserrClear => Sys2Proof.Machine.execSyserrClear s
  | .firmwareUpdate value => Sys2Proof.Machine.execFirmwareUpdate value s
  | .firmwareUpdateCommit value => Sys2Proof.Machine.execFirmwareUpdateCommit value s
  | .firmwareUpdateDone => Sys2Proof.Machine.execFirmwareUpdateDone s
  | .registerWrite who addr value => Sys2Proof.Machine.execRegisterWrite who addr value s
  | .storeComplete slot => Sys2Proof.Machine.execStoreComplete slot s
  | .inputBackInRange => Sys2Proof.Machine.execInputBackInRange s
  | .thermalClockRaise mhz => Sys2Proof.Machine.execThermalClockRaise mhz s

end Sys2Proof.Machine
end

