-- ==== Sys2Proof/Machine/Turns.lean ====
section
/-!
DEFINITION. What a turn does: the issue of a strand's next instruction (R43, R153, R188), from its own fetch or from its leader's
stream (R35, R36), or an event of the machine; and the memory image of one instruction for a first step.
-/
namespace Sys2Proof.Machine

namespace State

/-! ## Whether a strand issues (R25, R43) -/

/-- While the dies are held idle, only strands whose crew is still being halted go on (R16). -/
def heldIdle (s : State) (slot : Nat) : Bool :=
  s.sys.held && !(s.placed? ⟨(s.strand slot).launch, clusterOfSlot slot⟩).any (·.halting.isSome)

/-- Whether a strand's slot is offered issue turns. -/
def canIssue (s : State) (slot : Nat) : Bool :=
  let m := s.strand slot
  m.status == .ready && !m.exiting && m.held.isNone && !s.mustStop slot && s.sys.powered && !s.heldIdle slot

/-- A strand takes its turn when the rotation of its core's slots has come to it: no slot between the last one that took a turn and
it is offered one (R43). A stalled strand's turn passes, which leaves only the rotation moved on. -/
def mayIssue (s : State) (slot : Nat) : Bool :=
  let c := coreOfSlot slot
  let last := (s.core c).rot
  s.canIssue slot && ((List.range ((slot + 3 - last % 4) % 4)).all (fun k => !s.canIssue (4 * c + (last + 1 + k) % 4)))

/-- The rotation has come to a slot. -/
def rotated (s : State) (slot : Nat) : State := s.modCore (coreOfSlot slot) (fun k => { k with rot := slot % 4 })

/-! ## Running one instruction -/

/-- A vector instruction that has issued takes a place of its core's dispatch queue, for its turn of the wide engine (R44, log entry 125). -/
def takesPlace (i : Instr) (o : Out) : Out := match o with
  | .next t => .next (if plainVector i && t.retired then t.modCore t.myCore (fun k => { k with queue := k.queue ++ [.vector t.me?] }) else t)
  | o => o

/-- Runs what a pattern decoded to: an illegal pattern takes cause 0x01, and a stage's discipline is looked at before the
instruction's own operand checks (R163, R272). A vector instruction stalls while its core's dispatch queue is full (R44), and all but WAIT
do while a vector state instruction still owes its write stream an element (R246, log entry 130). -/
def runDecoded (s : State) (r : Except Reject Instr) (w : Word) (half : Bool) : Out :=
  if s.me.vstates.any (·.push.isSome) && !(r.toOption.any isWait) then finish s (.error .stall)
  else
    match r with
    | .error _ => execIllegalInstruction w half s
    | .ok i => match s.discipline i with
      | .error e => finish s (.error e)
      | .ok s1 => if plainVector i && decide (8 ≤ (s1.core s1.myCore).queue.length) then finish s (.error .stall) else takesPlace i (exec i s1)

/-- The instruction's word as TVAL and the wait record show it, and nothing retired yet. -/
def atWord (s : State) (w : Word) : State := { s with word := w, retired := false }

/-- What a leader has issued goes to the followers that were attached before it (R35). -/
def forwardFrom (before s : State) (x : Forwarded) : State :=
  { s with others := s.others.map (fun e => match s.followerOf e.1 e.2 with
    | some g =>
      if g.attached && (before.strand e.1).follow.any (·.attached) then (e.1, { e.2 with follow := some { g with stream := g.stream ++ [x] } }) else e
    | none => e) }

/-- Whether an instruction is a conditional branch that the strand takes (R187). -/
def takes (s : State) (r : Except Reject Instr) : Bool := match r with
  | .ok (.brc p n _) | .ok (.cBrc p n _) => (s.p p).bits.getLsbD 0 != n
  | .ok (.loop d _) => s.x d - 1 != 0
  | _ => false

/-- A leader's instruction of n bytes goes down the stream when it issues (R35): as it takes its effect, or as its wait begins, where
its successor is the next instruction. The REP that a halt has interrupted went down it when it began (R189). -/
def lead (before : State) (n : Nat) (taken : Bool) (o : Out) : Out := match o with
  | .next t =>
    if before.me.follow.any (·.again) && t.retired then .next (t.modMe (fun m => { m with follow := m.follow.map (fun f => { f with again := false }) }))
    else if before.me.follow.any (fun f => f.hop == 0) && before.me.wait.isNone && (t.retired || t.me.status == .waiting) then
      .next (forwardFrom before t (.insn before.pc t.word n (if t.retired then t.pc else before.pc + BitVec.ofNat 64 n) taken))
    else .next t
  | o => o

/-- The strand's own next instruction: fetched, or of the body of its REP. -/
noncomputable def issueOwn (s : State) : Out :=
  match s.me.rep with
  | some r =>
    let w := r.body.getD r.idx 0
    (s.atWord w).runDecoded (decodeWord (stagger w (r.iter * r.stride))) w false
  | none =>
    match s.fetchAt s.pc.toNat with
    | .error e => finish s (.error e)
    | .ok (.half h, s1) => s.lead 2 (s.takes (decodeHalf h)) ((s1.atWord (h.setWidth 32)).runDecoded (decodeHalf h) (h.setWidth 32) true)
    | .ok (.word w, s1) => s.lead 4 (s.takes (decodeWord w)) ((s1.atWord w).runDecoded (decodeWord w) w false)

/-- The head of the stream leaves it, a REP when its last iteration is over. -/
def leavesStream (t : State) : State :=
  if t.me.rep.isSome then t else t.modMe (fun m => { m with follow := m.follow.map (fun f => { f with stream := f.stream.drop 1 }) })

/-- A follower's step: one whose branch outcome or successor differs from its leader's detaches, but a REP's count is its own (R36, R187). -/
def followed (t : State) (next : Dword) (same rep : Bool) : State :=
  if !same || (!rep && t.pc != next) then t.leavesStream.modMe Strand.detach else t.leavesStream

def isRep (r : Except Reject Instr) : Bool := match r with
  | .ok (.rep _ _ _) => true
  | _ => false

/-- An attached follower issues the head of its stream (R35). -/
noncomputable def issueStream (s : State) (x : Forwarded) : Out := match x with
  | .detach => .next (s.modMe Strand.detach)
  | .leave n => .next ((s.modMe (fun m => { m with follow := none })).setPc (s.pc + BitVec.ofNat 64 n))
  | .insn _ w n next taken =>
    let r := if n = 2 then decodeHalf (w.setWidth 16) else decodeWord w
    match (s.atWord w).runDecoded r w (n == 2) with
    | .next t => .next (if t.retired then t.followed next (s.takes r == taken) (isRep r) else t)
    | o => o

/-- Whether the strand follows its leader's stream. -/
def attached (s : State) : Bool := s.me.follow.any (fun f => f.hop != 0 && f.attached)

/-- A body instruction of a REP, which leaves a follower's stream with the last of them. -/
noncomputable def issueBody (s : State) : Out := match s.issueOwn with
  | .next t => .next (if t.attached then t.leavesStream else t)
  | o => o

/-- A strand's turn: one forgone after YIELD (R194); an attached follower waits for its stream. -/
noncomputable def issueNow (s : State) (slot : Nat) : Out :=
  let s1 := s.focus slot
  if s1.me.yielded then .next (s1.modMe (fun m => { m with yielded := false }))
  else if s1.me.rep.isSome then s1.issueBody
  else if s1.attached then
    match s1.me.follow.bind (·.stream.head?) with
    | none => .next s1
    | some x => s1.issueStream x
  else s1.issueOwn

/-- A strand's issue turn: nothing where it may not issue. -/
noncomputable def issueTurn (s : State) (slot : Nat) : Out :=
  if s.mayIssue slot = false then .next s else (s.rotated slot).issueNow slot

/-! ## Events -/

end State

/-- Events that the system die, the host, the links and memory bring about: they go on while the compute dies are unpowered (R15). -/
def Instr.offDie : Instr → Bool
  | .faultRecordPlace _ | .telemetryRecordPlace _ | .doorbell _ _ _ | .dependenceResolved _ _ | .launchEnd _ _
  | .thermalClockStep _ | .thermalHold | .thermalRelease | .inputOutOfRange | .reset | .bootStage1 | .bootStage2 _ _ _
  | .dziacFrameReceive _ _ _ _ | .hostAccess _ | .functionLevelReset _ | .partitionActivate _ | .partitionDeactivate _
  | .resizeRequest _ _ | .layerAdd _ _ | .layerPredictiveRemove _ _ | .layerFinalRemove _ _ | .laycmdNop _ _
  | .layerErrorLimit _ _ | .attestRequest _ _ | .attestDone _ | .sysresResume _ | .sysresKill _ | .intmaskWrite _ _
  | .counterClear _ _ | .globalCounterClear _ | .syserrClear | .firmwareUpdate _ | .firmwareUpdateCommit _
  | .firmwareUpdateDone | .registerWrite _ _ _ | .inputBackInRange | .thermalClockRaise _ | .rowCacheFill _ _ => true
  | _ => false

/-- Whether the strand of a slot asks for a page of its core's window: its next instruction would make it resident (R121). -/
noncomputable def State.asksFor (s : State) (slot page : Nat) : Bool :=
  let pages (s : State) : List Page := (s.core (coreOfSlot slot)).pages
  s.canIssue slot && (match s.issueNow slot with
    | .next t => (pages t).any (fun p => p.page == page && !(pages s).any (fun q => q.page == page && q.asid == p.asid && q.frame == p.frame))
    | _ => false)

/-- Whether a turn may bring an event about: an illegal instruction is met only at issue, a write of CHKN or STICK is the CSRW of a
strand (R81, R91), and a page is filled for a strand that asks for it. -/
noncomputable def State.mayHappen (s : State) (e : Instr) : Bool :=
  e.isEvent && (s.sys.powered || Instr.offDie e) && (match e with
    | .illegalInstruction _ _ | .chknWrite _ _ | .stickWrite _ _ => false
    | .pageFill slot page => s.asksFor slot page
    | _ => true)

/-- What the system die does at turns of its own: layer commands end, and the register writes of supervisor strands arrive in order (R387,
R404, log entry 1). -/
def State.systemTurn (s : State) : State :=
  let s := s.endLayCommands
  if s.posted.isEmpty then s
  else
    let (n, s1) := s.draw
    if natBit n 0 then (s1.servePosted).getD s1 else s1

/-- The AMOFADD of the turn before may still meet this one's in a router, and none before it (R128). -/
def State.ageFadd (s : State) : State :=
  if s.fadd.isNone then s else { s with fadd := s.fadd.bind (fun f => if f.fresh then some { f with fresh := false } else none) }

/-- One turn. -/
noncomputable def State.turnOf (s : State) (t : Turn) : Out :=
  let s0 := s.settleBacks.ageFadd
  let s1 := ({ s0 with time := s0.time + BitVec.ofNat 64 t.dt }).systemTurn
  match t.act with
  | .issue slot => s1.issueTurn slot
  | .event e => if s1.mayHappen e then exec e s1 else .next s1

/-! ## A first instruction -/

/-- Where `placeFirst` puts the instruction: one page of layer 0 under the same virtual address. -/
def firstAddr : Nat := 0x10000

/-- A leaf over that page, for every access. -/
def firstLeaf : Dword := 0x1001F

/-- The code capability of the strand: the first MiB, with every permission. -/
def firstCode : Cap := (exactCap 0 0x100000 firstAddr 0xFFF).getD Cap.null

/-- The state with an instruction's bytes where the strand at issue fetches next, that strand READY under a code capability and a
translation that reach them, and its turn next: what a loader and the scheduler leave (log entry 63). -/
def State.placeFirst (s : State) (bytes : List Byte) : State :=
  let m := s.me
  let part := m.launch.part
  let s1 : State := { s with
    agenda := [⟨0, .issue s.cur⟩]
    posted := []
    mem := { s.mem with
      cells := bytesSet Memory.unlisted s.mem.cells firstAddr bytes
      poison := s.mem.poison.filter (fun g => decide (g / 8 ≠ firstAddr / 128)) }
    me := { m with
      status := .ready, pcc := firstCode, pccFar := none, exiting := false, yielded := false, follow := none, rep := none, wait := none, chain := none, held := none }
    sys := { s.sys with powered := true, held := false, layers := s.sys.layers ||| 1 } }
  let s2 := s1.modPart part (fun p => { p with
    regs := Table.modify p.regs 0x018 0 (· ||| 1)
    standing := []
    launches := p.launches.map (fun l => { l with crews := l.crews.map (fun c => { c with halting := none }) }) })
  s2.modCore s.myCore (fun k => { k with
    rot := (s.cur + 3) % 4
    lines := Table.erase k.lines (firstAddr / 128)
    ilines := Table.erase k.ilines (firstAddr / 128)
    tlb := [⟨m.csr.asid, firstAddr, 12, firstLeaf⟩] })

end Sys2Proof.Machine
end

