-- ==== Sys2Proof/Machine/Step.lean ====
section
/-!
DEFINITION. One step of the machine: the next turn of the agenda, or of the free schedule when the agenda is empty.
-/
namespace Sys2Proof.Machine

/-- One step (R11, R43, R426): a turn that the agenda fixes in advance, else one that the schedule gives, else nothing. -/
noncomputable def step (s : State) : Host.Outcome State Fault Refusal :=
  match s.agenda with
  | t :: rest => ({ s with agenda := rest } : State).turnOf t
  | [] =>
    match Config.schedule s.turn with
    | some t => ({ s with turn := s.turn + 1 } : State).turnOf t
    | none => .next { s with turn := s.turn + 1 }

/-- The state with an instruction placed so that the next step fetches and runs it: its bits, bit 0 the least significant of the first
halfword, those above `nbits` zero, as the four bytes of the longest instruction. -/
def State.withFetchWord (s : State) (nbits w : Nat) : State := s.placeFirst (toBytes 4 (w % 2 ^ nbits))

end Sys2Proof.Machine
end

