-- ==== Sys2Proof/Safety.lean ====
section
/-!
DEFINITION. The terms claims use: what it is for an instruction to run, to trap or to wait, what a core sees of memory, and which
parts of the state an instruction may leave alone.
-/
namespace Sys2Proof.Machine

/-- The state after an instruction of n bytes that falls through has taken its effect: the PC past it, no wait, no resumption. -/
def State.past (s : State) (n : Nat) : State := (s.advance n).retire

/-- The instruction runs to its end and leaves t. -/
abbrev Runs (i : Instr) (s t : State) : Prop := exec i s = .next t

/-- The instruction takes the exception of a cause (R307): nothing of its own effect happens. -/
abbrev Traps (i : Instr) (s : State) (cause : BitVec 8) (tval : Dword) (extra : Qword) : Prop :=
  exec i s = .next (s.spent.takeTrap cause tval extra)

/-- The instruction waits (R32). -/
abbrev Waits (i : Instr) (s : State) (on : WaitOn) : Prop := exec i s = .next (s.spent.beginWait on)

/-- The instruction waits with what it has done so far kept (R206, R310). -/
abbrev Pauses (i : Instr) (s t : State) (on : WaitOn) : Prop := exec i s = .next (t.beginWait on)

/-- The instruction stalls: it has no effect yet, and the strand stays READY to issue it again (R43). -/
abbrev Stalls (i : Instr) (s : State) : Prop := exec i s = .next s.spent

/-- The byte of device memory at a physical address as a load of that byte by a core sees it: its L1's, where it has one, else the
home's (R124). -/
def State.seenByte (s : State) (core pa : Nat) : Byte :=
  let l := s.lineOf core (pa / 128)
  if (l.have' ||| l.dirty).getLsbD (pa % 128) then l.byte (pa % 128) else s.mem.byte pa

/-- The n bytes at a physical address, within one line, as one load of a core sees them: all of the line where it has every one of them,
else its dirty bytes over the home's (R124). -/
def State.seenBytes (s : State) (core pa n : Nat) : List Byte :=
  let l := s.lineOf core (pa / 128)
  tabulate n (fun k => if l.hasAll (pa % 128) n || l.dirty.getLsbD (pa % 128 + k) then l.byte (pa % 128 + k) else s.mem.byte (pa + k))

/-- Everything but the strand at issue, its place, the model's own counters and the turn it takes is the same. -/
def State.onlyMe (s t : State) : Prop :=
  t = { s with me := t.me, retired := t.retired, draws := t.draws }

/-- The same registers but for a set of g registers, v registers, predicates and e registers. -/
def Regs.sameBut (r q : Regs) (gs : List GIdx) (vs : List VIdx) (ps : List PIdx) (es : List (BitVec 3)) : Prop :=
  (∀ i, i ∉ gs → q.rg i = r.rg i) ∧ (∀ i, i ∉ vs → q.rv i = r.rv i) ∧ (∀ i, i ∉ ps → q.rp i = r.rp i) ∧ (∀ i, i ∉ es → q.re i = r.re i)

/-- A safe run of one step: the machine goes on (R307: every exception is taken, none stops it). -/
def Safe (s : State) : Prop := ∃ t, step s = .next t

end Sys2Proof.Machine
end

