-- ==== Sys2Proof/Certificates/Slice0/Obligations.lean ====
section
/-!
DEFINITION. The statements about this model, for the provers. A table of `Claims` says, in the manual's own terms, what a group of
instructions does; the statement over it says that the machine does just that, for every operand and every state.
-/
open Sys2Proof Sys2Proof.Machine

/-! ## Integers, constants, comparisons and predicates -/

namespace Sys2Proof.Claims

/-- The order of two doublewords as signed numbers (R58). -/
def lessS (a b : Dword) : Bool := decide (a.toInt < b.toInt)
def lessU (a b : Dword) : Bool := decide (a.toNat < b.toNat)

/-- The shift amount: bits 5:0 (R58). -/
def amount (b : Dword) : Nat := b.toNat % 64

/-- Signed division and remainder as R59's cases give them. -/
def quotient (a b : Dword) : Dword :=
  if b = 0 then BitVec.allOnes 64 else if a = BitVec.intMin 64 ∧ b = BitVec.allOnes 64 then a else BitVec.ofInt 64 (a.toInt.tdiv b.toInt)
def remainder (a b : Dword) : Dword :=
  if b = 0 then a else if a = BitVec.intMin 64 ∧ b = BitVec.allOnes 64 then 0 else BitVec.ofInt 64 (a.toInt.tmod b.toInt)

/-- The number of zero bits above the highest set bit, and below the lowest; 64 of zero (R168). -/
def leading (a : Dword) : Nat := if a = 0 then 64 else 63 - a.toNat.log2
def trailing (a : Dword) : Nat := ((List.range 64).find? a.getLsbD).getD 64
def setBits (a : Dword) : Nat := (List.range 64).countP a.getLsbD

/-- Bits pos + len − 1 down to pos of a register, bits above bit 63 reading as zero; length 0 means 64 (R173). -/
def fieldOf (a b : Dword) : Nat × Nat :=
  let len := if b.toNat / 256 % 64 = 0 then 64 else b.toNat / 256 % 64
  (len, a.toNat / 2 ^ (b.toNat % 64) % 2 ^ len)

/-- A value of n bits sign-extended to a doubleword. -/
def signFrom (n v : Nat) : Dword := if 2 ^ (n - 1) ≤ v then BitVec.ofInt 64 ((v : Int) - 2 ^ n) else BitVec.ofNat 64 v

/-- What an instruction that writes one g register with data writes there: the register, the value, its taint, and the instruction's
size in bytes (R161, R168 to R174, R177, R180). -/
def dataResult (s : State) : Instr → Option (GIdx × Dword × Bool × Nat)
  | .add d a b => some (d, s.x a + s.x b, s.t2 a b, 4)
  | .sub d a b => some (d, s.x a - s.x b, s.t2 a b, 4)
  | .mul d a b => some (d, s.x a * s.x b, s.t2 a b, 4)
  | .mulh d a b => some (d, BitVec.ofInt 64 ((s.x a).toInt * (s.x b).toInt / 2 ^ 64), s.t2 a b, 4)
  | .mulhz d a b => some (d, BitVec.ofNat 64 ((s.x a).toNat * (s.x b).toNat / 2 ^ 64), s.t2 a b, 4)
  | .addw d a b => some (d, ((s.x a).setWidth 32 + (s.x b).setWidth 32).signExtend 64, s.t2 a b, 4)
  | .subw d a b => some (d, ((s.x a).setWidth 32 - (s.x b).setWidth 32).signExtend 64, s.t2 a b, 4)
  | .neg d a => some (d, 0 - s.x a, (s.g a).taint, 4)
  | .div d a b => some (d, quotient (s.x a) (s.x b), s.t2 a b, 4)
  | .divz d a b => some (d, if s.x b = 0 then BitVec.allOnes 64 else s.x a / s.x b, s.t2 a b, 4)
  | .rem d a b => some (d, remainder (s.x a) (s.x b), s.t2 a b, 4)
  | .remz d a b => some (d, if s.x b = 0 then s.x a else s.x a % s.x b, s.t2 a b, 4)
  | .min d a b => some (d, if lessS (s.x b) (s.x a) then s.x b else s.x a, s.t2 a b, 4)
  | .max d a b => some (d, if lessS (s.x a) (s.x b) then s.x b else s.x a, s.t2 a b, 4)
  | .minz d a b => some (d, if lessU (s.x b) (s.x a) then s.x b else s.x a, s.t2 a b, 4)
  | .maxz d a b => some (d, if lessU (s.x a) (s.x b) then s.x b else s.x a, s.t2 a b, 4)
  | .and d a b => some (d, s.x a &&& s.x b, s.t2 a b, 4)
  | .or d a b => some (d, s.x a ||| s.x b, s.t2 a b, 4)
  | .xor d a b => some (d, s.x a ^^^ s.x b, s.t2 a b, 4)
  | .andn d a b => some (d, s.x a &&& ~~~s.x b, s.t2 a b, 4)
  | .orn d a b => some (d, s.x a ||| ~~~s.x b, s.t2 a b, 4)
  | .shl d a b => some (d, s.x a <<< amount (s.x b), s.t2 a b, 4)
  | .shr d a b => some (d, s.x a >>> amount (s.x b), s.t2 a b, 4)
  | .sar d a b => some (d, (s.x a).sshiftRight (amount (s.x b)), s.t2 a b, 4)
  | .rol d a b => some (d, (s.x a).rotateLeft (amount (s.x b)), s.t2 a b, 4)
  | .clz d a => some (d, BitVec.ofNat 64 (leading (s.x a)), (s.g a).taint, 4)
  | .ctz d a => some (d, BitVec.ofNat 64 (trailing (s.x a)), (s.g a).taint, 4)
  | .popc d a => some (d, BitVec.ofNat 64 (setBits (s.x a)), (s.g a).taint, 4)
  | .brev d a => some (d, (s.x a).reverse, (s.g a).taint, 4)
  | .bswap d a =>
    let v := s.x a
    some (d, v.extractLsb' 0 8 ++ v.extractLsb' 8 8 ++ v.extractLsb' 16 8 ++ v.extractLsb' 24 8 ++ v.extractLsb' 32 8 ++
      v.extractLsb' 40 8 ++ v.extractLsb' 48 8 ++ v.extractLsb' 56 8, (s.g a).taint, 4)
  | .sext d a w => some (d, signFrom (8 * 2 ^ w.toNat) ((s.x a).toNat % 2 ^ (8 * 2 ^ w.toNat)), (s.g a).taint, 4)
  | .zext d a w => some (d, BitVec.ofNat 64 ((s.x a).toNat % 2 ^ (8 * 2 ^ w.toNat)), (s.g a).taint, 4)
  | .addi d a k => some (d, s.x a + k.signExtend 64, (s.g a).taint, 4)
  | .andi d a k => some (d, s.x a &&& k.signExtend 64, (s.g a).taint, 4)
  | .ori d a k => some (d, s.x a ||| k.signExtend 64, (s.g a).taint, 4)
  | .xori d a k => some (d, s.x a ^^^ k.signExtend 64, (s.g a).taint, 4)
  | .shli d a k => some (d, s.x a <<< k.toNat, (s.g a).taint, 4)
  | .shri d a k => some (d, s.x a >>> k.toNat, (s.g a).taint, 4)
  | .sari d a k => some (d, (s.x a).sshiftRight k.toNat, (s.g a).taint, 4)
  | .roli d a k => some (d, (s.x a).rotateLeft k.toNat, (s.g a).taint, 4)
  | .li d k => some (d, k.signExtend 64, false, 4)
  | .lie d k => some (d, (s.e 1 ++ s.e 0) + k.signExtend 64, s.eT 0 || s.eT 1, 4)
  | .sel d a b p => some (d, if (s.p p).bits.getLsbD 0 then s.x a else s.x b, (s.p p).taint || s.t2 a b, 4)
  | .bfx d a b => some (d, signFrom (fieldOf (s.x a) (s.x b)).1 (fieldOf (s.x a) (s.x b)).2, s.t2 a b, 4)
  | .bfxz d a b => some (d, BitVec.ofNat 64 (fieldOf (s.x a) (s.x b)).2, s.t2 a b, 4)
  | .bfi d a b =>
    let m : Dword := BitVec.ofNat 64 (2 ^ (fieldOf (s.x a) (s.x b)).1 - 1) <<< amount (s.x b)
    some (d, (s.x d &&& ~~~m) ||| ((s.x a <<< amount (s.x b)) &&& m), s.t2 a b || (s.g d).taint, 4)
  | .pmovg d a => some (d, (s.p a).bits, (s.p a).taint, 4)
  | .pcnt d a => some (d, BitVec.ofNat 64 (setBits (s.p a).bits), (s.p a).taint, 4)
  | .movg d a => some (d, (s.e a).setWidth 64, s.eT a, 4)
  | .cAdd d a => some (g5 d, s.x (g5 d) + s.x (g5 a), s.t2 (g5 d) (g5 a), 2)
  | .cSub d a => some (g5 d, s.x (g5 d) - s.x (g5 a), s.t2 (g5 d) (g5 a), 2)
  | .cAnd d a => some (g5 d, s.x (g5 d) &&& s.x (g5 a), s.t2 (g5 d) (g5 a), 2)
  | .cOr d a => some (g5 d, s.x (g5 d) ||| s.x (g5 a), s.t2 (g5 d) (g5 a), 2)
  | .cXor d a => some (g5 d, s.x (g5 d) ^^^ s.x (g5 a), s.t2 (g5 d) (g5 a), 2)
  | .cAddi d k => some (g5 d, s.x (g5 d) + k.signExtend 64, (s.g (g5 d)).taint, 2)
  | .cLi d k => some (g5 d, k.signExtend 64, false, 2)
  | .cShli d k => some (g5 d, s.x (g5 d) <<< k.toNat, (s.g (g5 d)).taint, 2)
  | .cShri d k => some (g5 d, s.x (g5 d) >>> k.toNat, (s.g (g5 d)).taint, 2)
  | _ => none

/-- The integer condition codes (R159), on n-bit operands. -/
def holds {n : Nat} (c : PIdx) (a b : BitVec n) : Bool :=
  match c.toNat with
  | 0 => decide (a = b)
  | 1 => decide (a ≠ b)
  | 2 => decide (a.toInt < b.toInt)
  | 3 => decide (b.toInt ≤ a.toInt)
  | 4 => decide (a.toNat < b.toNat)
  | 5 => decide (b.toNat ≤ a.toNat)
  | 6 => decide (a &&& b ≠ 0)
  | _ => decide (a &&& b = 0)

/-- All 64 bits of a predicate (R171). -/
def all64 (b : Bool) : Dword := if b then BitVec.allOnes 64 else 0

/-- What an instruction that writes one predicate whole, and nothing else, writes there (R161, R171, R174). -/
def predResult (s : State) : Instr → Option (PIdx × Dword × Bool × Nat)
  | .cmp p c a b => some (p, all64 (holds c (s.x a) (s.x b)), s.t2 a b, 4)
  | .cmpW p c a b => some (p, all64 (holds c ((s.x a).setWidth 32) ((s.x b).setWidth 32)), s.t2 a b, 4)
  | .cmpi p c a k => some (p, all64 (holds c (s.x a) (k.signExtend 64)), (s.g a).taint, 4)
  | .pand d a b => some (d, (s.p a).bits &&& (s.p b).bits, (s.p a).taint || (s.p b).taint, 4)
  | .por d a b => some (d, (s.p a).bits ||| (s.p b).bits, (s.p a).taint || (s.p b).taint, 4)
  | .pxor d a b => some (d, (s.p a).bits ^^^ (s.p b).bits, (s.p a).taint || (s.p b).taint, 4)
  | .pandn d a b => some (d, (s.p a).bits &&& ~~~(s.p b).bits, (s.p a).taint || (s.p b).taint, 4)
  | .pnot d a => some (d, ~~~(s.p a).bits, (s.p a).taint, 4)
  | .pfromg d a => some (d, s.x a, (s.g a).taint, 4)
  | .cCmpeq d a => some (7, all64 (decide (s.x (g5 d) = s.x (g5 a))), s.t2 (g5 d) (g5 a), 2)
  | .cCmplt d a => some (7, all64 (decide ((s.x (g5 d)).toInt < (s.x (g5 a)).toInt)), s.t2 (g5 d) (g5 a), 2)
  | _ => none

end Sys2Proof.Claims

/-- R161, R168 to R170, R172 to R174, R180: every integer instruction runs to its end, whatever the operands (a division by zero
and the overflowing one too, R59), and writes its result, with bits 127:64 zero, the tag clear and the sources' taint (R47, R48). A write
to g0 is discarded and the instruction goes on (R46). -/
def Sys2Proof.Claims.IntegerResults : Prop :=
  ∀ (i : Instr) (s : State) (d : GIdx) (v : Dword) (t : Bool) (n : Nat),
    Claims.dataResult s i = some (d, v, t, n) → Runs i s ((s.setG d ⟨v.setWidth 128, false, t⟩).past n)

/-- R171, R174, R161: every comparison and predicate instruction runs to its end and writes its whole predicate. -/
def Sys2Proof.Claims.PredicateResults : Prop :=
  ∀ (i : Instr) (s : State) (d : PIdx) (v : Dword) (t : Bool) (n : Nat),
    Claims.predResult s i = some (d, v, t, n) → Runs i s ((s.setP d v t).past n)

/-! ## Capabilities -/

namespace Sys2Proof.Claims

/-- What a capability instruction that cannot trap writes: the register, the capability, its taint, and what it says in p7 (R175 to R179). -/
def capResult (s : State) : Instr → Option (GIdx × Cap × Bool × Option Bool)
  | .cadd d a b => some (d, unsealedOnly (s.cap a) ((s.cap a).move ((s.cap a).addr + s.x b)), s.t2 a b, none)
  | .caddi d a k => some (d, unsealedOnly (s.cap a) ((s.cap a).move ((s.cap a).addr + k.signExtend 64)), (s.g a).taint, none)
  | .candp d a b => some (d, unsealedOnly (s.cap a) ((s.cap a).withPerms ((s.cap a).perms &&& (s.x b).setWidth 12)), s.t2 a b, none)
  | .cclr d a => some (d, ⟨(s.g a).bits, false⟩, (s.g a).taint, none)
  | .mov d a => some (d, s.cap a, (s.g a).taint, none)
  | .ctag d a b =>
    let ok := mayTag (s.cap a) (s.cap b)
    some (d, ⟨(s.g a).bits, ok⟩, s.t2 a b, some (!ok))
  | .csetb d a b =>
    let c := s.cap a
    if c.tag = true ∧ c.otype = 0 ∧ c.kind = 0 ∧ c.expo = 63 then some (d, setKeyRange c (s.x b), s.t2 a b, some false)
    else some (d, (setBounds c (s.x b)).1, s.t2 a b, some (setBounds c (s.x b)).2)
  | .cget d a k => some (d, ⟨(capProp (s.cap a) k.toNat).setWidth 128, false⟩, (s.g a).taint, none)
  | _ => none

end Sys2Proof.Claims

/-- R175 to R180: the capability instructions that cannot trap, and MOV, run to their end: gD takes the derived capability, and CSETB and
CTAG say in p7 whether they widened the bounds or left the tag clear. -/
def Sys2Proof.Claims.CapabilityResults : Prop :=
  ∀ (i : Instr) (s : State) (d : GIdx) (c : Cap) (t : Bool) (w : Option Bool),
    Claims.capResult s i = some (d, c, t, w) →
      Runs i s (((match w with
        | none => s.setG d ⟨c.bits, c.tag, t⟩
        | some ones => (s.setG d ⟨c.bits, c.tag, t⟩).setP 7 (Claims.all64 ones) t) : State).past 4)

/-- R52: moving a tagged capability's address keeps its bounds for as long as the tag is kept, and changes nothing else of it but the
address and the counts. -/
def Sys2Proof.Claims.MovingKeepsBounds : Prop :=
  ∀ (c : Cap) (a : Dword), (c.move a).addr = a ∧ (c.move a).perms = c.perms ∧ (c.move a).kind = c.kind ∧ (c.move a).otype = c.otype ∧
    (c.move a).expo = c.expo ∧ ((c.move a).tag = true → c.tag = true ∧ (c.move a).bounds = c.bounds)

/-- R175, R178, R179: no capability instruction makes a tag out of an untagged value except CTAG, and none but CUNSEAL (under a seal key's
authority) adds a permission: a tag that CADD, CADDI, CANDP, CSETB or CCLR leaves comes with no wider bounds and no new permission. -/
def Sys2Proof.Claims.DerivationNeverWidens : Prop :=
  ∀ (i : Instr) (s : State) (d a : GIdx) (c : Cap) (t : Bool) (w : Option Bool),
    Claims.capResult s i = some (d, c, t, w) →
    ((∃ b, i = .cadd d a b) ∨ (∃ k, i = .caddi d a k) ∨ (∃ b, i = .candp d a b) ∨ (∃ b, i = .csetb d a b) ∨ i = .cclr d a) →
    c.tag = true →
      (s.g a).tag = true ∧ (s.cap a).otype = 0 ∧ (s.cap a).base ≤ c.base ∧ c.top ≤ (s.cap a).top ∧ c.perms &&& (s.cap a).perms = c.perms

/-- R178: CSEAL and CUNSEAL trap with the cause of the first check that fails, TVAL 0, or run and write gA with its object type set to
the key's address, or to 0; CUNSEAL clears GLOBAL unless the key holds it. -/
def Sys2Proof.Claims.SealingFollowsTheChecks : Prop :=
  ∀ (s : State) (d a b : GIdx),
    let c := s.cap a
    let k := s.cap b
    (∀ cause, sealCheck true c k = some cause → Traps (.cseal d a b) s cause 0 ((c.bits.extractLsb' 64 64).setWidth 128)) ∧
    (∀ cause, sealCheck false c k = some cause → Traps (.cunseal d a b) s cause 0 ((c.bits.extractLsb' 64 64).setWidth 128)) ∧
    (sealCheck true c k = none → Runs (.cseal d a b) s ((s.setCap d (c.withOtype (k.addr.setWidth 8)) (s.t2 a b)).past 4)) ∧
    (sealCheck false c k = none →
      Runs (.cunseal d a b) s ((s.setCap d (if k.permGlobal then c.withOtype 0 else (c.withOtype 0).withPerms ((c.withOtype 0).perms &&& 0xF7F))
        (s.t2 a b)).past 4))

/-- R53: the order of the checks before a dereference. A capability that fails several gives the cause of the first: tag, seal, kind,
permission, bounds, alignment. -/
def Sys2Proof.Claims.CapCheckOrder : Prop :=
  ∀ (c : Cap) (kinds : List Nat) (need : Need) (a : Dword) (n align : Nat),
    (c.tag = false → c.check kinds need a n align = some 0x04) ∧
    (c.tag = true → c.otype ≠ 0 → c.check kinds need a n align = some 0x05) ∧
    (c.tag = true → c.otype = 0 → c.kind.toNat ∉ kinds → c.check kinds need a n align = some 0x03) ∧
    (c.tag = true → c.otype = 0 → c.kind.toNat ∈ kinds → c.grants need a = false → c.check kinds need a n align = some 0x03) ∧
    (c.tag = true → c.otype = 0 → c.kind.toNat ∈ kinds → c.grants need a = true →
      (canonical a = false ∨ a.toNat < c.base ∨ c.top < a.toNat + n) → c.check kinds need a n align = some 0x02) ∧
    (c.tag = true → c.otype = 0 → c.kind.toNat ∈ kinds → c.grants need a = true → canonical a = true → c.base ≤ a.toNat → a.toNat + n ≤ c.top →
      c.check kinds need a n align = if a.toNat % align = 0 then none else some 0x08)

/-! ## Scalar floating point and moves -/

namespace Sys2Proof.Claims

/-- A result of n bits and the flags raised, zero-extended to a doubleword. -/
def fpWide {n : Nat} (r : BitVec n × FFlags) : Dword × FFlags := (r.1.setWidth 64, r.2)

/-- Binary64 and binary32 operations as exact values of the operands rounded once under FRM (R60 to R63, R181). -/
def dbl (s : State) (f : Fl → Fl → Nat × FFlags) (a b : GIdx) : Dword × FFlags :=
  fpWide (fpOut 64 (f (.ofPat .b64 (s.x a).toNat) (.ofPat .b64 (s.x b).toNat)))
def low32 (v : Dword) : Nat := v.toNat % 2 ^ 32
def sgl (s : State) (f : Fl → Fl → Nat × FFlags) (a b : GIdx) : Dword × FFlags :=
  fpWide (fpOut 32 (f (.ofPat .b32 (low32 (s.x a))) (.ofPat .b32 (low32 (s.x b)))))

/-- What a scalar floating-point instruction writes to its g register, the flags it raises, and the taint (R181, R182). -/
def fpResult (s : State) : Instr → Option (GIdx × (Dword × FFlags) × Bool)
  | .dadd d a b => some (d, dbl s (addFl .b64 s.rm) a b, s.t2 a b)
  | .dsub d a b => some (d, dbl s (fun x y => addFl .b64 s.rm x y.neg) a b, s.t2 a b)
  | .dmul d a b => some (d, dbl s (mulFl .b64 s.rm) a b, s.t2 a b)
  | .ddiv d a b => some (d, dbl s (divFl .b64 s.rm) a b, s.t2 a b)
  | .dmin d a b => some (d, fpWide (fpOut 64 (minMax .b64 false (s.x a).toNat (s.x b).toNat)), s.t2 a b)
  | .dmax d a b => some (d, fpWide (fpOut 64 (minMax .b64 true (s.x a).toNat (s.x b).toNat)), s.t2 a b)
  | .dsqrt d a => some (d, fpWide (fpOut 64 (sqrtFl .b64 s.rm (.ofPat .b64 (s.x a).toNat))), (s.g a).taint)
  | .dfma d a b => some (d, dbl s (fun x y => fmaFl .b64 s.rm x y (.ofPat .b64 (s.x d).toNat)) a b, s.t2 a b || (s.g d).taint)
  | .fadd d a b => some (d, sgl s (addFl .b32 s.rm) a b, s.t2 a b)
  | .fsub d a b => some (d, sgl s (fun x y => addFl .b32 s.rm x y.neg) a b, s.t2 a b)
  | .fmul d a b => some (d, sgl s (mulFl .b32 s.rm) a b, s.t2 a b)
  | .fdiv d a b => some (d, sgl s (divFl .b32 s.rm) a b, s.t2 a b)
  | .fmin d a b => some (d, fpWide (fpOut 32 (minMax .b32 false (low32 (s.x a)) (low32 (s.x b)))), s.t2 a b)
  | .fmax d a b => some (d, fpWide (fpOut 32 (minMax .b32 true (low32 (s.x a)) (low32 (s.x b)))), s.t2 a b)
  | .fsqrt d a => some (d, fpWide (fpOut 32 (sqrtFl .b32 s.rm (.ofPat .b32 (low32 (s.x a))))), (s.g a).taint)
  | .ffma d a b => some (d, sgl s (fun x y => fmaFl .b32 s.rm x y (.ofPat .b32 (low32 (s.x d)))) a b, s.t2 a b || (s.g d).taint)
  | .d2i d a => some (d, fpWide (fpToInt .b64 s.rm 64 true (s.x a).toNat), (s.g a).taint)
  | .i2d d a => some (d, fpWide (fpOut 64 (ofIntFl .b64 s.rm (s.x a).toInt)), (s.g a).taint)
  | .f2d d a => some (d, fpWide (fpOut 64 (convFl .b32 .b64 s.rm (low32 (s.x a)))), (s.g a).taint)
  | .d2f d a => some (d, fpWide (fpOut 32 (convFl .b64 .b32 s.rm (s.x a).toNat)), (s.g a).taint)
  | .f2i d a => some (d, fpWide (fpToInt .b32 s.rm 64 true (low32 (s.x a))), (s.g a).taint)
  | .i2f d a => some (d, fpWide (fpOut 32 (ofIntFl .b32 s.rm (s.x a).toInt)), (s.g a).taint)
  | .d2z d a => some (d, fpWide (fpToInt .b64 s.rm 64 false (s.x a).toNat), (s.g a).taint)
  | .z2d d a => some (d, fpWide (fpOut 64 (ofIntFl .b64 s.rm ((s.x a).toNat : Int))), (s.g a).taint)
  | _ => none

/-- Whether a pattern of a format is a NaN. -/
def isNan (f : Fmt) (v : Nat) : Bool := decide (f.infPat < v % f.signBit)

/-- The format of an instruction's floating-point result; none for a result that is an integer. -/
def fpFormat : Instr → Option Fmt
  | .dadd _ _ _ | .dsub _ _ _ | .dmul _ _ _ | .ddiv _ _ _ | .dmin _ _ _ | .dmax _ _ _ | .dsqrt _ _ | .dfma _ _ _ | .i2d _ _ | .f2d _ _ | .z2d _ _ =>
    some .b64
  | .fadd _ _ _ | .fsub _ _ _ | .fmul _ _ _ | .fdiv _ _ _ | .fmin _ _ _ | .fmax _ _ _ | .fsqrt _ _ | .ffma _ _ _ | .d2f _ _ | .i2f _ _ => some .b32
  | _ => none

/-- No stream is active on any v register (R245). -/
def noStreams (s : State) : Prop := s.me.streams = Vector.replicate 4 none

/-- Source v registers read in order: an active read stream gives its next element (R209; StreamOperands says which). -/
def readAll (s : State) : List VIdx → Res (List VReg × State)
  | [] => .ok ([], s)
  | a :: rest =>
    match s.readV a with
    | .error e => .error e
    | .ok (x, t) =>
      match readAll t rest with
      | .error e => .error e
      | .ok (xs, u) => .ok (x :: xs, u)

/-- How an instruction ends that has read its sources, leaving u, and writes v to register d and raises flags: where d is an active write
stream the value is its next element, whose store may trap or stall (R209, R246). -/
def written (i : Instr) (s u : State) (d : VIdx) (v : VReg) (f : FFlags) : Prop :=
  (∀ t, u.writeV d v = .ok t → Runs i s ((t.modCsr (fun c => { c with fflg := c.fflg ||| f })).past 4)) ∧
  (∀ c a x, u.writeV d v = .error (.trap c a x) → Traps i s c a x) ∧
  (u.writeV d v = .error .stall → Stalls i s)

/-- A source whose element cannot be read stops the instruction with the element's own cause. -/
def readStops (i : Instr) (s : State) (src : List VIdx) : Prop :=
  (∀ c a x, readAll s src = .error (.trap c a x) → Traps i s c a x) ∧ (readAll s src = .error .stall → Stalls i s)

end Sys2Proof.Claims

/-- R181, R182: every scalar floating-point instruction runs to its end, whatever the operands: gD takes the exact result rounded once under
FRM, zero above it, untagged, and the flags raised are ORed into FFLG (R64). -/
def Sys2Proof.Claims.ScalarFloatResults : Prop :=
  ∀ (i : Instr) (s : State) (d : GIdx) (r : Dword × FFlags) (t : Bool),
    Claims.fpResult s i = some (d, r, t) →
      Runs i s (((s.setG d ⟨r.1.setWidth 128, false, t⟩).modCsr (fun c => { c with fflg := c.fflg ||| r.2 })).past 4)

/-- R62: every scalar floating-point instruction that produces a NaN produces the canonical NaN. -/
def Sys2Proof.Claims.CanonicalNaN : Prop :=
  ∀ (i : Instr) (s : State) (d : GIdx) (r : Dword × FFlags) (t : Bool) (f : Fmt),
    Claims.fpResult s i = some (d, r, t) → Claims.fpFormat i = some f → Claims.isNan f r.1.toNat = true → r.1.toNat = f.nan

/-- R183: FCMP writes all ones or all zeros, and raises NV for any NaN in LT, LE, GE and GT and for a signalling NaN only in EQ, NE, UN
and ORD, and no other flag. -/
def Sys2Proof.Claims.FloatCompareResults : Prop :=
  ∀ (s : State) (p c : PIdx) (a b : GIdx),
    let d := fcmpCode .b64 c (s.x a).toNat (s.x b).toNat
    let f := fcmpCode .b32 c (Claims.low32 (s.x a)) (Claims.low32 (s.x b))
    Runs (.fcmpD p c a b) s (((s.setP p (Claims.all64 d.1) (s.t2 a b)).modCsr (fun k => { k with fflg := k.fflg ||| d.2 })).past 4) ∧
    Runs (.fcmpS p c a b) s (((s.setP p (Claims.all64 f.1) (s.t2 a b)).modCsr (fun k => { k with fflg := k.fflg ||| f.2 })).past 4) ∧
    (∀ (m : Fmt) (x y : Nat), (fcmpCode m c x y).2 =
      if c.toNat = 1 ∨ c.toNat = 2 ∨ c.toNat = 5 ∨ c.toNat = 6 then (if (Fl.ofPat m x).isNan || (Fl.ofPat m y).isNan then FFlags.nv else 0)
      else (Fl.ofPat m x).snanFlag ||| (Fl.ofPat m y).snanFlag)

/-- R180, R161, R209: the moves between register kinds run to their end: MOVE to an e register, C.MOV of all 128 bits with tag and taint,
VINS to one lane, VEXT from one lane, VBCG to every lane; VINS ORs its taint into the register's (R48). Where no stream is active that is
all; VEXT of an active read stream takes its next element, and VINS and VBCG to an active write stream send the register there. -/
def Sys2Proof.Claims.MoveResults : Prop :=
  ∀ (s : State),
    (∀ (d : BitVec 3) (a : GIdx), Runs (.move d a) s ((s.setE d ((s.x a).setWidth 32) (s.g a).taint).past 4)) ∧
    (∀ (d a : VIdx), Runs (.cMov d a) s ((s.setG (g5 d) (s.g (g5 a))).past 2)) ∧
    (∀ (d : VIdx) (a b : GIdx), ∃ v : VReg, v.taint = ((s.me.regs.rv d).taint || s.t2 a b) ∧
      (∀ k < 64, lane v.bits k = if k = (s.x b).toNat % 64 then (s.x a).setWidth 32 else lane (s.me.regs.rv d).bits k) ∧
      (Claims.noStreams s → Runs (.vins d a b) s ((s.modRegs (fun r => r.wv d v)).past 4)) ∧ Claims.written (.vins d a b) s s d v 0) ∧
    (∀ (d : VIdx) (a : GIdx), ∃ v : VReg, v.taint = (s.g a).taint ∧ (∀ k < 64, lane v.bits k = (s.x a).setWidth 32) ∧
      (Claims.noStreams s → Runs (.vbcg d a) s ((s.modRegs (fun r => r.wv d v)).past 4)) ∧ Claims.written (.vbcg d a) s s d v 0) ∧
    (∀ (d : GIdx) (a : VIdx) (b : GIdx),
      let got (x : VReg) : GReg := ⟨(lane x.bits ((s.x b).toNat % 64)).setWidth 128, false, x.taint || (s.g b).taint⟩
      (Claims.noStreams s → Runs (.vext d a b) s ((s.setG d (got (s.me.regs.rv a))).past 4)) ∧
      (∀ x u, s.readV a = .ok (x, u) → Runs (.vext d a b) s ((u.setG d (got x)).past 4)) ∧ Claims.readStops (.vext d a b) s [a])

/-! ## Control flow, follow groups, tasks -/

namespace Sys2Proof.Claims

/-- The address a number of halfwords away from the branching instruction (R184). -/
def halfwords (s : State) (k : Int) : Dword := s.pc + BitVec.ofInt 64 (2 * k)

/-- PCC at the next instruction, with the tag R52 gives it and its taint clear (R184). -/
def linkAfter (s : State) (n : Nat) : GReg := ⟨(s.me.pcc.move (s.pc + BitVec.ofNat 64 n)).bits, (s.me.pcc.move (s.pc + BitVec.ofNat 64 n)).tag, false⟩

/-- Where a branch leaves the strand (R161, R184): taken, or past it. -/
def branchResult (s : State) : Instr → Option State
  | .br k => some (s.setPc (halfwords s k.toInt))
  | .cBr k => some (s.setPc (halfwords s k.toInt))
  | .call k => some ((s.setG 1 (linkAfter s 4)).setPc (halfwords s k.toInt))
  | .brc p n k => some (if (s.p p).bits.getLsbD 0 = n then s.advance 4 else s.setPc (halfwords s k.toInt))
  | .cBrc p n k => some (if (s.p p).bits.getLsbD 0 = n then s.advance 2 else s.setPc (halfwords s k.toInt))
  | .loop d k =>
    let t := s.setG d ⟨(s.x d - 1).setWidth 128, false, (s.g d).taint⟩
    some (if s.x d - 1 = 0 then t.advance 4 else t.setPc (halfwords s k.toInt))
  | _ => none

/-- The jumps: the register with the target, and where the link goes. -/
def jumpOf : Instr → Option (GIdx × Option GIdx)
  | .jr a => some (a, none)
  | .jalr d a => some (a, some d)
  | .ret => some (1, none)
  | .cRet => some (1, none)
  | _ => none

/-- A capability that a jump may enter (R186): memory, unsealed, or a sealed entry; executable, at an even address. -/
def mayEnter (c : Cap) : Prop :=
  c.tag = true ∧ (c.kind = 4 ∨ (c.kind = 0 ∧ c.otype = 0)) ∧ c.permX = true ∧ c.addr.getLsbD 0 = false

/-- PCC after the jump: a sealed entry is unsealed on entry. -/
def entered (c : Cap) : Cap := if c.kind = 4 then (c.withKind 0).withOtype 0 else c

/-- The cause a jump takes (R186): the first check that fails. -/
def jumpCause (c : Cap) : BitVec 8 :=
  if c.tag = false then 0x04
  else if c.kind ≠ 4 ∧ c.otype ≠ 0 then 0x05
  else if c.kind ≠ 4 ∧ c.kind ≠ 0 then 0x03
  else if c.permX = false then 0x03
  else 0x08

/-- A strand that may form follow groups: no stage of a chain, or one whose descriptor allows groups (R190, R283). -/
def mayGroup (s : State) : Prop :=
  ∀ r c, s.me.chain = some r → s.findChain r.cluster r.id = some c → (c.stages[r.stage]?).all (·.fg) = true

/-- A follower that waits at RJOIN at an address, and has not missed the join (R37). -/
def waitsAt (m : Strand) (pc : Dword) : Prop :=
  m.status = .waiting ∧ m.pcc.addr = pc ∧ ∃ w gid, m.wait = some w ∧ w.on = .join gid true ∧ w.hit = false ∧ w.expired = false

/-- The state with a missed join counted (R37). -/
def missed (s : State) : State := s.modCtr (fun c => { c with mj := min (c.mj + 1) 65535 })

/-- A strand's membership. -/
def member (s : State) (f : Option Follow) : State := s.modMe (fun m => { m with follow := f })

/-- A stage of a folded chain in which another stage lives (R24, R280). -/
def foldedWithOthers (s : State) : Prop := ∃ r c, s.myChain = some (r, c) ∧ c.folded = true ∧ 1 < c.live.length

/-- EXIT's own effect outside such a chain (R31, R194): the strand issues nothing more. -/
def exited (s t : State) : Prop := t.me = { s.me with exiting := true, wait := none, follow := none } ∧ t.retired = true

end Sys2Proof.Claims

/-- R184, R161: every branch runs to its end: taken, the PC is a number of halfwords from the branching instruction; CALL links in g1,
LOOP counts gD down modulo 2^64 and leaves its tag clear. -/
def Sys2Proof.Claims.BranchResults : Prop :=
  ∀ (i : Instr) (s t : State), Claims.branchResult s i = some t → Runs i s t.retire

/-- R186: JR, JALR, RET and C.RET enter the capability (a sealed entry unsealed), JALR linking after it has read its target; or take the
cause of the first check that fails, with TVAL the target's address and PCC and the link register unchanged by the jump. -/
def Sys2Proof.Claims.JumpResults : Prop :=
  ∀ (i : Instr) (s : State) (a : GIdx) (l : Option GIdx), Claims.jumpOf i = some (a, l) →
    let c := s.cap a
    (Claims.mayEnter c →
      Runs i s ((match l with
        | some d => s.setG d (Claims.linkAfter s 4)
        | none => s).modMe (fun m => { m with pcc := Claims.entered c, pccFar := none })).retire) ∧
    (¬ Claims.mayEnter c → Traps i s (Claims.jumpCause c) c.addr
      (if Claims.jumpCause c = 0x08 then 0 else (c.bits.extractLsb' 64 64).setWidth 128))

/-- R188, R189: a REP whose body can be captured runs: outside a resumption it starts from iteration 0 with gA's count, or, with a count of
0, goes past its body; resumed with VALID set it takes the place REPI names; either way VALID is cleared. -/
def Sys2Proof.Claims.RepResults : Prop :=
  ∀ (s t : State) (a stride : GIdx) (l : BitVec 3) (body : List Word),
    s.captureBody s.pc.toNat (l.toNat + 1) = .ok (body, t) →
    let r := s.me.csr.repi
    let started (c : Csr) : Csr := { c with repi := c.repi &&& 0x7FFFFFFFFFFFFFFF#64 }
    let past := ((t.modCsr started).setPc (s.pc + BitVec.ofNat 64 (4 * (l.toNat + 2)))).retire
    let running (count iter idx : Nat) := ((t.modCsr started).modMe (fun m => { m with rep := some ⟨body, stride.toNat, count, iter, idx⟩ })).retire
    ((s.me.resumed = false ∨ r.getLsbD 63 = false) →
      Runs (.rep a stride l) s (if (s.x a).toNat % 2 ^ 28 = 0 then past else running ((s.x a).toNat % 2 ^ 28) 0 0)) ∧
    (s.me.resumed = true → r.getLsbD 63 = true → natBits r.toNat 58 56 ≤ l.toNat →
      Runs (.rep a stride l) s (if natBits r.toNat 55 28 ≤ natBits r.toNat 27 0 then past
        else running (natBits r.toNat 55 28) (natBits r.toNat 27 0) (natBits r.toNat 58 56))) ∧
    (s.me.resumed = true → r.getLsbD 63 = true → l.toNat < natBits r.toNat 58 56 → Traps (.rep a stride l) s 0x01 r 0)

/-- R190, R283: FOLLOW creates a group led by this strand, or says in p7 that it did not; where the strand's stage forbids groups it traps.
DETACH and FQUIT run to their end whatever the strand is: a follower that detaches stays a member; a follower's FQUIT leaves the group; a
leader's ends it, attached followers going on past it, the others out at once. -/
def Sys2Proof.Claims.FollowGroupResults : Prop :=
  ∀ (s : State),
    (Claims.mayGroup s → ∀ (a i : GIdx),
      (s.me.follow = none → s.leaderOf i.toNat = none → 0 < (s.x a).toNat % 64 → (s.x a).toNat % 64 ≤ 32 →
        Runs (.follow a i) s (((Claims.member s (some ⟨i.toNat, s.cur, 0, (s.x a).toNat % 64, false, false, [], false⟩)).setP 7 0 (s.g a).taint).past 4)) ∧
      ((s.me.follow ≠ none ∨ s.leaderOf i.toNat ≠ none ∨ (s.x a).toNat % 64 = 0 ∨ 32 < (s.x a).toNat % 64) →
        Runs (.follow a i) s ((s.setP 7 (BitVec.allOnes 64) (s.g a).taint).past 4))) ∧
    (¬ Claims.mayGroup s → ∀ (a i : GIdx), Traps (.follow a i) s 0x0C 7 0) ∧
    (∀ f : Follow, s.me.follow = some f → f.hop ≠ 0 → f.attached = true → Runs .detach s ((Claims.member s f.off).past 4)) ∧
    ((∀ f, s.me.follow = some f → f.hop = 0 ∨ f.attached = false) → Runs .detach s (s.past 4)) ∧
    (s.me.follow = none → Runs .fquit s (s.past 4)) ∧
    (∀ f : Follow, s.me.follow = some f → f.hop = 0 → ∃ t, Runs .fquit s t ∧ t.me.follow = none ∧
      ∀ e ∈ s.others, ∀ g, s.followerOf e.1 e.2 = some g → ∃ m, (e.1, m) ∈ t.others ∧
        m.follow = if g.attached then some { g with stream := g.stream ++ [.leave 4] } else none) ∧
    (∀ f : Follow, s.me.follow = some f → f.hop ≠ 0 → Runs .fquit s ((Claims.member s none).past 4))

/-- R37, R149: a leader's RJOIN runs past, whatever its followers do: those that wait at its address are attached from the next instruction
on and READY there; the others that are not attached have missed the join and stay where they are. What counts as a missed join is the
model's reading (log entry 81). -/
def Sys2Proof.Claims.LeaderJoins : Prop :=
  ∀ (s : State) (f : Follow) (i : GIdx), Claims.mayGroup s → s.me.follow = some f → f.hop = 0 → f.gid = i.toNat →
    ∃ t, Runs (.rjoin i) s t ∧ t.me.status = s.me.status ∧
      ∀ e ∈ s.others, ∀ g, s.followerOf e.1 e.2 = some g →
        (Claims.waitsAt e.2 s.pc → ∃ m, (e.1, m) ∈ t.others ∧ m.status = .ready ∧ m.wait = none ∧ m.pcc.addr = s.pc + 4 ∧
          m.follow = some { g with attached := true, missed := false, stream := [] }) ∧
        (¬ Claims.waitsAt e.2 s.pc → g.attached = false → (e.1, { e.2 with follow := some { g with missed := true } }) ∈ t.others)

/-- R37, R190: RJOIN by any other strand. An attached follower and a member of another group run past it; a detached follower waits for its
leader, and runs past, the join counted as missed, when it has missed it already or its wait has ended without the leader; a strand of no
group runs past when no leader came in time or the leader's group has no place for it, and else waits, for a leader or as its new
follower. A stage that forbids groups traps. What counts as a missed join, and an RJOIN outside the leader's span, are the model's readings
(log entry 81). -/
def Sys2Proof.Claims.FollowerJoins : Prop :=
  ∀ (s : State) (i : GIdx),
    (¬ Claims.mayGroup s → Traps (.rjoin i) s 0x0C 7 0) ∧
    (Claims.mayGroup s →
      (∀ f : Follow, s.me.follow = some f → (f.hop ≠ 0 ∧ f.attached = true) ∨ f.gid ≠ i.toNat → Runs (.rjoin i) s (s.past 4)) ∧
      (∀ f : Follow, s.me.follow = some f → f.hop ≠ 0 → f.attached = false → f.gid = i.toNat →
        (s.me.wait = none → f.missed = false → Pauses (.rjoin i) s s (.join f.gid true)) ∧
        (s.me.wait = none → f.missed = true → Runs (.rjoin i) s ((Claims.missed (Claims.member s (some { f with missed := false }))).past 4)) ∧
        (∀ w, s.me.wait = some w →
          (w.hit = true ∨ w.expired = true → Runs (.rjoin i) s ((Claims.missed s).past 4)) ∧
          (w.hit = false → w.expired = false → Pauses (.rjoin i) s s (.join f.gid true)))) ∧
      (s.me.follow = none → ∀ w gid, s.me.wait = some w → w.on = .join gid true → Runs (.rjoin i) s ((Claims.missed s).past 4)) ∧
      (s.me.follow = none → ∀ w gid, s.me.wait = some w → w.on = .join gid false → w.expired = true → Runs (.rjoin i) s (s.past 4)) ∧
      (s.me.follow = none → s.me.wait = none →
        (s.leaderOf i.toNat = none → Pauses (.rjoin i) s s (.join i.toNat false)) ∧
        (∀ slot m f, s.leaderOf i.toNat = some (slot, m, f) →
          let hop := (s.myCore % 32 + 32 - coreOfSlot slot % 32) % 32
          let taken := s.others.any (fun e => coreOfSlot e.1 == s.myCore && e.2.launch == s.me.launch &&
            e.2.follow.any (fun g => g.gid == f.gid && g.leader == slot && !g.gone))
          let joined : Follow := ⟨f.gid, slot, hop, f.span, false, f.missed, [], false⟩
          (hop = 0 ∨ f.span ≤ hop ∨ taken = true → Runs (.rjoin i) s (s.past 4)) ∧
          (hop ≠ 0 → hop < f.span → taken = false →
            (f.missed = false → Pauses (.rjoin i) s (Claims.member s (some joined)) (.join f.gid true)) ∧
            (f.missed = true → Runs (.rjoin i) s ((Claims.missed (Claims.member s (some { joined with missed := false }))).past 4))))))

/-- R191: SPAWN and SPAWNC with a code capability that may be entered and a FREE slot among the cores that gB names start a strand there:
READY, at the code, with the registers gB declares, the parent's launch, FRM and TRAPV; p7 is zero. With no FREE slot p7 is all ones. A
capability that may not be entered, or that points outside its bounds, gives its cause. -/
def Sys2Proof.Claims.SpawnResults : Prop :=
  ∀ (s : State) (a b : GIdx),
   (¬ Claims.mayEnter (s.cap a) →
      let x : Qword := if Claims.jumpCause (s.cap a) = 0x08 then 0 else ((s.cap a).bits.extractLsb' 64 64).setWidth 128
      Traps (.spawn a b) s (Claims.jumpCause (s.cap a)) (s.cap a).addr x ∧ Traps (.spawnc a b) s (Claims.jumpCause (s.cap a)) (s.cap a).addr x) ∧
   (Claims.mayEnter (s.cap a) → ((s.cap a).addr.toNat < (Claims.entered (s.cap a)).base ∨ (Claims.entered (s.cap a)).top ≤ (s.cap a).addr.toNat) →
      Traps (.spawn a b) s 0x02 (s.cap a).addr (((s.cap a).bits.extractLsb' 64 64).setWidth 128) ∧
      Traps (.spawnc a b) s 0x02 (s.cap a).addr (((s.cap a).bits.extractLsb' 64 64).setWidth 128)) ∧
   (Claims.mayEnter (s.cap a) →
    (Claims.entered (s.cap a)).base ≤ (s.cap a).addr.toNat → (s.cap a).addr.toNat < (Claims.entered (s.cap a)).top →
    let w := (s.x b).toNat
    let cores := spawnCores s.myCore (natBits w 17 16) (natBits w 28 24)
    let gs := copyG s.me.regs (natBits w 5 0) (natBits w 13 8) Regs.fresh
    let child (r : Regs) (n : Nat) : Strand := { Strand.fresh with
      status := .ready, regs := r, pcc := Claims.entered (s.cap a), launch := s.me.launch, born := n
      csr := { s.freshCsr s.me.launch with frm := s.me.csr.frm, trapv := s.me.csr.trapv } }
    (∀ slot, (s.release 2).freeSlot cores = some slot → slot ≠ s.cur →
      (∃ t n, Runs (.spawn a b) s t ∧ t.strand slot = child gs n ∧ t.p 7 = ⟨0, s.t2 a b⟩) ∧
      (∃ t n, Runs (.spawnc a b) s t ∧ t.strand slot = child (copyV s.me.regs (natBits w 36 32) (natBits w 44 40) gs) n ∧ t.p 7 = ⟨0, s.t2 a b⟩)) ∧
    ((s.release 2).freeSlot cores = none →
      Runs (.spawn a b) s ((s.setP 7 (BitVec.allOnes 64) (s.t2 a b)).past 4) ∧
      Runs (.spawnc a b) s ((s.setP 7 (BitVec.allOnes 64) (s.t2 a b)).past 4)))

/-- R192, R327, R328: ENQG and ENQL read a whole record, release, and append it to its segment or ring, p7 zero; with no room they say so in
p7 and append nothing. -/
def Sys2Proof.Claims.EnqueueResults : Prop :=
  ∀ (s s1 : State) (a b : GIdx) (r : TaskRec), s.readTask a = .ok (r, s1) →
    let core := if b = 0 then s.myCore else 32 * s.myCluster + (s.x b).toNat % 32
    let rt := r.codeTaint || r.frameTaint || r.restTaint
    Runs (.enqg a) s ((match (s1.release 4).pushSegment s.myPart r with
      | some t => t.setP 7 0 ((s.g a).taint || rt)
      | none => (s1.release 4).setP 7 (BitVec.allOnes 64) ((s.g a).taint || rt) : State).past 4) ∧
    Runs (.enql a b) s ((match (s1.release 2).pushRing core { r with launch := some s.me.launch } with
      | some t => t.setP 7 0 (s.t2 a b || rt)
      | none => (s1.release 2).setP 7 (BitVec.allOnes 64) (s.t2 a b || rt) : State).past 4)

/-- R193: JDEC on a counter that its strand can reach, in device memory or in a scratchpad window: zero stays zero and p7 is all ones; any
other value falls by one at its home, gD takes the value before and p7 is zero; at zero the record that follows the counter, as it then
stands, goes to the scratchpad's owner's ring while that has room, else, and for every memory counter, to the device-wide queue. That the record in
the device-wide queue carries no launch is the model's choice (log entry 111). -/
def Sys2Proof.Claims.JoinDecrementResults : Prop :=
  ∀ (s s1 s2 : State) (d a : GIdx) (va : Dword) (t : Trans) (g : Got),
    capCheckAt (s.cap a) [0] { r := true, w := true } (s.cap a).addr.toNat 80 16 = .ok va →
    s.translate s.ctx .amo false va = .ok (t, s1) →
    ((List.range 4).foldlM (fun (s : State) k =>
      (s.translate s.ctx (if k < 2 ∧ (s.cap a).permLdc = true then .capLoad else .engineRead) false (va + BitVec.ofNat 64 (16 * (k + 1)))).map (·.2)) s1 : Res State) = .ok s2 →
    let owner : Option Nat := match t.loc with
      | .scratch core _ _ _ => some core
      | _ => none
    let s3 := ((s2.settleOver t.loc 80).release (if owner.isSome then 2 else 4)).evictAt s.myCore t.loc
    let tn := (s.g a).taint || g.taint
    s3.readHome t.loc 8 = some g →
    (g.nat = 0 → Runs (.jdec d a) s (((s3.setP 7 (BitVec.allOnes 64) tn).setG d ⟨0, false, tn⟩).past 4)) ∧
    (1 < g.nat → Runs (.jdec d a) s ((((s3.writeHome t.loc (toBytes 8 (g.nat - 1)) false).setP 7 0 tn).setG d
      ⟨(BitVec.ofNat 64 g.nat).setWidth 128, false, tn⟩).past 4)) ∧
    (g.nat = 1 → ∀ (g0 g1 g2 g3 : GReg) (r0 r1 r2 r3 : State),
      (s3.writeHome t.loc (toBytes 8 0) false).readCapVirt s.ctx (s.cap a).permLdc (va + 16) = .ok (g0, r0) →
      r0.readCapVirt s.ctx (s.cap a).permLdc (va + 32) = .ok (g1, r1) → r1.readCapVirt s.ctx false (va + 48) = .ok (g2, r2) →
      r2.readCapVirt s.ctx false (va + 64) = .ok (g3, r3) →
      let rec' := TaskRec.ofGranules g0 g1 g2 g3 none
      let pushed : State := match owner with
        | some core => (r3.pushRing core { rec' with launch := some s.me.launch }).getD (r3.pushOrHold s.myPart rec')
        | none => r3.pushOrHold s.myPart rec'
      Runs (.jdec d a) s (((pushed.setP 7 0 tn).setG d ⟨1, false, tn⟩).past 4))

/-- R31, R194, R161: YIELD and C.YIELD give up one issue turn, NOP and C.NOP do nothing; SLEEP waits until 2^k ns after its first issue and
then runs. -/
def Sys2Proof.Claims.StrandLifeResults : Prop :=
  ∀ (s : State),
    Runs .nop s (s.past 4) ∧ Runs .cNop s (s.past 2) ∧
    Runs .yield s ((s.modMe (fun m => { m with yielded := true })).past 4) ∧
    Runs .cYield s ((s.modMe (fun m => { m with yielded := true })).past 2) ∧
    (∀ k : GIdx, (s.me.wait = none → Waits (.sleep k) s (.sleep (s.time.toNat + 2 ^ k.toNat))) ∧
      (∀ w, s.me.wait = some w → w.since + 2 ^ k.toNat ≤ s.time.toNat → Runs (.sleep k) s (s.past 4)) ∧
      (∀ w, s.me.wait = some w → s.time.toNat < w.since + 2 ^ k.toNat → Waits (.sleep k) s (.sleep (w.since + 2 ^ k.toNat))))

/-- R31, R194, R280: EXIT and C.EXIT leave the strand's group and issue nothing more. In a folded chain with other live stages only the
strand's stage ends, once L and T are zero (until then EXIT stalls): it releases at cluster scope and the strand goes on as another stage
that lives. -/
def Sys2Proof.Claims.ExitResults : Prop :=
  ∀ (s : State),
    (¬ Claims.foldedWithOthers s → (∃ t, Runs .exit s t ∧ Claims.exited s t) ∧ (∃ t, Runs .cExit s t ∧ Claims.exited s t)) ∧
    (Claims.foldedWithOthers s → s.me.ctr.l ≠ 0 ∨ s.me.ctr.t ≠ 0 → Stalls .exit s ∧ Stalls .cExit s) ∧
    (Claims.foldedWithOthers s → s.me.ctr.l = 0 → s.me.ctr.t = 0 →
      Runs .exit s { (((s.release 2).endGroup 4).endStageAt s.cur false 0).1 with retired := true } ∧
      Runs .cExit s { (((s.release 2).endGroup 2).endStageAt s.cur false 0).1 with retired := true })

/-! ## Loads and stores -/

namespace Sys2Proof.Claims

/-- What a plain load takes from memory (R196, R197, R161): the register, the capability and the exact address, the bytes, whether it is a
load of a tagged value, the value made of what is read, and the instruction's size. -/
structure LoadForm where
  d : GIdx
  a : GIdx
  addr : Int
  n : Nat
  acc : Acc
  value : Got → GReg
  size : Nat

/-- A loaded value as data: bits 127:64 zero, untagged. -/
def asData (v : Dword) (t : Bool) : GReg := ⟨v.setWidth 128, false, t⟩

def loadForm (s : State) : Instr → Option LoadForm
  | .ld d a z x k =>
    let n : Nat := 2 ^ z.toNat
    some ⟨d, a, ((s.cap a).addr.toNat : Int) + k.toInt * (n : Int), n, .load,
      fun g => asData (if x then signFrom (8 * n) (g.nat % 2 ^ (8 * n)) else BitVec.ofNat 64 g.nat) ((s.g a).taint || g.taint), 4⟩
  | .ldx d a b => some ⟨d, a, (s.cap a).addr.toNat + 8 * (s.x b).toNat, 8, .load, fun g => asData (BitVec.ofNat 64 g.nat) (s.t2 a b || g.taint), 4⟩
  | .cLd d a => some ⟨g5 d, g5 a, (s.cap (g5 a)).addr.toNat, 8, .load, fun g => asData (BitVec.ofNat 64 g.nat) ((s.g (g5 a)).taint || g.taint), 2⟩
  | .ldq d a b => some ⟨d, a, (s.cap a).addr.toNat + (s.x b).toNat, 16, .load, fun g => ⟨BitVec.ofNat 128 g.nat, false, s.t2 a b || g.taint⟩, 4⟩
  | .ldc d a b =>
    let c := s.cap a
    some ⟨d, a, c.addr.toNat + (s.x b).toNat, 16, if c.permLdc then .capLoad else .load, fun g =>
      ⟨BitVec.ofNat 128 g.nat, c.permLdc && g.tag && !(Cap.malformed ⟨BitVec.ofNat 128 g.nat, true⟩), s.t2 a b || g.taint⟩, 4⟩
  | _ => none

/-- What a plain store of data puts into memory: the capability and the exact address, the bytes, their taint, the instruction's size. -/
structure StoreForm where
  a : GIdx
  addr : Int
  bytes : List Byte
  taint : Bool
  size : Nat

def storeForm (s : State) : Instr → Option StoreForm
  | .st d a z k => some ⟨a, (s.cap a).addr.toNat + k.toInt * 2 ^ z.toNat, toBytes (2 ^ z.toNat) (s.g d).bits.toNat, (s.g d).taint, 4⟩
  | .stx d a b => some ⟨a, (s.cap a).addr.toNat + 8 * (s.x b).toNat, toBytes 8 (s.g d).bits.toNat, (s.g d).taint, 4⟩
  | .stq d a b => some ⟨a, (s.cap a).addr.toNat + (s.x b).toNat, toBytes 16 (s.g d).bits.toNat, (s.g d).taint, 4⟩
  | .cSt d a => some ⟨g5 a, (s.cap (g5 a)).addr.toNat, toBytes 8 (s.g (g5 d)).bits.toNat, (s.g (g5 d)).taint, 2⟩
  | _ => none

/-- A core's L1 takes a line without replacing another (R7, R124). -/
def roomFor (s : State) (core line : Nat) : Prop :=
  (s.core core).lines.length < 512 ∨ (Table.find? (s.core core).lines line).isSome = true

end Sys2Proof.Claims

/-- R195 to R197: a plain load whose capability passes its check and whose bytes can be read runs: gD takes the little-endian value read (a
narrow one extended, LDC's with its tag), and nothing else changes but what the read itself left; a check, a translation or a read that
fails traps with its own cause and gD as it was. Which cause comes first where several apply is the model's reading (log entry 83). -/
def Sys2Proof.Claims.LoadResults : Prop :=
  ∀ (i : Instr) (s : State) (f : Claims.LoadForm), Claims.loadForm s i = some f →
    (∀ va g t, capCheckAt (s.cap f.a) [0] { r := true } f.addr f.n f.n = .ok va → s.loadAt f.acc va f.n = .ok (g, t) →
      Runs i s ((t.setG f.d (f.value g)).past f.size)) ∧
    (∀ c v x, capCheckAt (s.cap f.a) [0] { r := true } f.addr f.n f.n = .error (.trap c v x) → Traps i s c v x) ∧
    (∀ va c v x, capCheckAt (s.cap f.a) [0] { r := true } f.addr f.n f.n = .ok va → s.loadAt f.acc va f.n = .error (.trap c v x) → Traps i s c v x) ∧
    (∀ va, capCheckAt (s.cap f.a) [0] { r := true } f.addr f.n f.n = .ok va → s.loadAt f.acc va f.n = .error .stall → Stalls i s)

/-- R195 to R198: a plain store of data whose check passes and whose bytes can be stored runs, and S rises by one; with S at 255 it
stalls, nothing stored; a check, a translation or a guard that fails traps with its own cause, nothing stored. Which cause comes first
where several apply is the model's reading (log entry 83). -/
def Sys2Proof.Claims.StoreResults : Prop :=
  ∀ (i : Instr) (s : State) (f : Claims.StoreForm), Claims.storeForm s i = some f →
    let n := f.bytes.length
    (∀ va t, capCheckAt (s.cap f.a) [0] { w := true } f.addr n n = .ok va → s.storeAt va f.bytes f.taint = .ok t →
      (t.me.ctr.s < 255 → Runs i s ((t.modCtr (fun c => { c with s := c.s + 1 })).past f.size)) ∧
      (255 ≤ t.me.ctr.s → Stalls i s)) ∧
    (∀ c v x, capCheckAt (s.cap f.a) [0] { w := true } f.addr n n = .error (.trap c v x) → Traps i s c v x) ∧
    (∀ va c v x, capCheckAt (s.cap f.a) [0] { w := true } f.addr n n = .ok va → s.storeAt va f.bytes f.taint = .error (.trap c v x) → Traps i s c v x)

/-- R54, R197: STC stores all 128 bits with the tag at a place that takes them, and S rises; a tagged value is refused, with nothing stored,
through a capability without STC, outside every scratchpad window when it lacks GLOBAL, and on a page without C. That the tests of STC and
GLOBAL stand after CapCheck and before translation is the model's choice (log entry 109). -/
def Sys2Proof.Claims.StcResults : Prop :=
  ∀ (s : State) (d a b : GIdx) (va : Dword),
    let c := s.cap a
    capCheckAt c [0] { w := true } ((s.cap a).addr.toNat + (s.x b).toNat) 16 16 = .ok va →
    (∀ (t : Trans) (s1 : State), tagRights c (s.cap d) va = .ok () → s.translate s.ctx .capStore (s.g d).tag va = .ok (t, s1) →
      s1.guardTaint t.pte (s.g d).taint va = .ok () →
      let s2 := ((s1.settleOver t.loc 16).writeCapLoc s.ctx t.loc (s.g d).bits (s.g d).tag (s.g d).taint).noteLost t.loc (s.g d).taint
      s2.me.ctr.s < 255 → Runs (.stc d a b) s ((s2.modCtr (fun k => { k with s := k.s + 1 })).past 4)) ∧
    ((s.g d).tag = true → c.permStc = false → Traps (.stc d a b) s 0x03 va ((c.bits.extractLsb' 64 64).setWidth 128)) ∧
    ((s.g d).tag = true → c.permStc = true → (s.cap d).permGlobal = false → inWindow va = false →
      Traps (.stc d a b) s 0x03 va (((s.cap d).bits.extractLsb' 64 64).setWidth 128))

/-- R124, R119: what a load of memory reads is what the core sees of those bytes: all from its line where the line has them, else its dirty
bytes over the home's (what a miss in a partly valid line brings is the model's reading, log entry 99). It is cause 0x13 where it
takes a byte of a poisoned granule that no store has replaced: that the store of other bytes of it leaves the poison is the model's choice
(log entry 124). A load that finds room in L1 changes neither memory nor the strand. -/
def Sys2Proof.Claims.LoadsSeeTheLine : Prop :=
  ∀ (s : State) (c : Ctx) (pa : Nat) (va : Dword) (n : Nat), pa % 128 + n ≤ 128 →
    let core := coreOfSlot c.slot
    let l := s.lineOf core (pa / 128)
    let hit := l.hasAll (pa % 128) n
    let bad := (if hit then (Memory.units (pa % 128) n 16).any l.bad.getLsbD else s.mem.anyPoison pa n) = true ∧
      ∃ k < n, l.dirty.getLsbD (pa % 128 + k) = false
    (¬ bad → ∃ g t, s.readLoc c (.mem pa) va n = .ok (g, t) ∧ g.bytes = s.seenBytes core pa n ∧
      (hit = true ∨ Claims.roomFor s core (pa / 128) → t.mem = s.mem ∧ t.me = s.me)) ∧
    (bad → s.readLoc c (.mem pa) va n = .error (.trap 0x13 va 0))

/-- R124, R86: a store to memory changes what its core sees at exactly the bytes it stores, to the bytes stored; where L1 has room it
changes no home byte and nothing another core sees, and leaves the strand alone. That the home's poison stays as it was is the model's
choice (log entry 124). -/
def Sys2Proof.Claims.StoresChangeTheirBytes : Prop :=
  ∀ (s : State) (c : Ctx) (pa : Nat) (bs : List Byte) (taint : Bool), pa % 128 + bs.length ≤ 128 →
    let core := coreOfSlot c.slot
    let t := s.writeLoc c (.mem pa) bs taint
    (∀ k, (h : k < bs.length) → t.seenByte core (pa + k) = bs[k]) ∧
    (∀ x, x / 128 = pa / 128 → x < pa ∨ pa + bs.length ≤ x → t.seenByte core x = s.seenByte core x) ∧
    (Claims.roomFor s core (pa / 128) →
      (∀ x, x < pa ∨ pa + bs.length ≤ x → t.seenByte core x = s.seenByte core x) ∧
      (∀ other x, other ≠ core → t.seenByte other x = s.seenByte other x) ∧ t.mem = s.mem ∧ t.hostMem = s.hostMem ∧ t.me = s.me)

/-- R54, R56: a store of data clears the tag of every granule it touches; tainted data taints every sector it touches, untainted data clears
the taint of the sectors it covers whole and leaves the others'. This is the line's view of a store in L1 (R124). -/
def Sys2Proof.Claims.StoresClearTags : Prop :=
  ∀ (l : Line) (i : Nat) (bs : List Byte) (taint : Bool), i + bs.length ≤ 128 → 0 < bs.length →
    let t := l.store i bs taint
    (∀ g < 8, t.tags.getLsbD g = if i / 16 ≤ g ∧ g ≤ (i + bs.length - 1) / 16 then false else l.tags.getLsbD g) ∧
    (∀ k < 4, t.taintOf k =
      if ¬ (i / 32 ≤ k ∧ k ≤ (i + bs.length - 1) / 32) then l.taintOf k
      else if taint then true else if i ≤ 32 * k ∧ 32 * k + 32 ≤ i + bs.length then false else l.taintOf k)

/-- R197, R129: PREF runs whatever its operands. It changes no register, control register or counter, neither host memory nor any
partition; and where L1 has room for a line it changes neither memory nor any strand. -/
def Sys2Proof.Claims.PrefetchIsInvisible : Prop :=
  ∀ (s : State) (l : Bool) (a b : GIdx), ∃ t : State, Runs (.pref l a b) s (t.past 4) ∧
    t.me.regs = s.me.regs ∧ t.me.csr = s.me.csr ∧ t.me.ctr = s.me.ctr ∧ t.me.pcc = s.me.pcc ∧
    t.hostMem = s.hostMem ∧ t.parts = s.parts ∧ t.crews = s.crews ∧
    ((s.core s.myCore).lines.length < 512 → t.me = s.me ∧ t.others = s.others ∧ t.mem = s.mem)

/-! ## Acquire loads, release stores, atomics, reductions -/

namespace Sys2Proof.Claims

/-- The width and signedness that e7 names (R201): 64 or 32 bits. -/
def amoWidth (s : State) (n : Nat) : Prop := (n = 8 ∧ (s.e 7).toNat % 4 = 0) ∨ (n = 4 ∧ (s.e 7).toNat % 4 = 1)
def amoSigned (s : State) : Bool := !(s.e 7).getLsbD 2

/-- The new word of an integer atomic (R201). -/
def amoNew (i : Instr) (signed : Bool) (n : Nat) (old v : BitVec n) : Option (BitVec n) :=
  match i with
  | .amoadd _ _ _ _ => some (old + v)
  | .amoand _ _ _ _ => some (old &&& v)
  | .amoor _ _ _ _ => some (old ||| v)
  | .amoxor _ _ _ _ => some (old ^^^ v)
  | .amomin _ _ _ _ => some (if (if signed then decide (v.toInt < old.toInt) else decide (v.toNat < old.toNat)) then v else old)
  | .amomax _ _ _ _ => some (if (if signed then decide (old.toInt < v.toInt) else decide (old.toNat < v.toNat)) then v else old)
  | _ => none

/-- The operands of an integer atomic. -/
def amoOperands : Instr → Option (GIdx × GIdx × GIdx × BitVec 3)
  | .amoadd d a b f | .amoand d a b f | .amoor d a b f | .amoxor d a b f | .amomin d a b f | .amomax d a b f => some (d, a, b, f)
  | _ => none

/-- A word as gD receives it: extended under e7 (R201). -/
def extended (s : State) (n v : Nat) : Dword :=
  if amoSigned s then signFrom (8 * n) (v % 2 ^ (8 * n)) else BitVec.ofNat 64 v

/-- The reduction an AMO is while it travels (R128). -/
def inFlight (s : State) (loc : Loc) (a b : GIdx) (f : BitVec 3) (op : RedOp) (n : Nat) (signed tb : Bool) : RedReq :=
  ⟨s.me?, [], s.strandSrc s.cur, s.myPart, s.ctx, (s.cap a).addr, loc, op, n, signed, f, BitVec.ofNat 64 ((s.x b).toNat % 2 ^ (8 * n)), tb, 1⟩

/-- An AMOFADD that routers may merge with the request r, which finds the word's bytes `g` (R128): served in the turn before, of another
strand with a lower source number, with the word as it left it. -/
def fuses (r : RedReq) (g : Got) (x : Fadd) : Prop :=
  r.op.float = true ∧ x.fresh = false ∧ x.req.src < r.src ∧ x.req.of r.owner = false ∧ mergeable x.req r = true ∧ g.nat = x.after

/-- How an AMO that computes F ends (R128, R134, R201): served alone, or, where a reduction of another strand that routers may merge with
it is under way, perhaps served with it, the lower source number first, or, where an AMOFADD that it may be merged with was served in the
turn before, perhaps applied with that one as a single sum. That an AMO may so meet what is under way or the AMOFADD of the turn before is
the model's choice (log entry 20). `out` makes gD's value of the word received and its taint. -/
def servedBy (i : Instr) (s t : State) (r : RedReq) (F : Nat → Nat → Nat) (g : Got) (out : State → Nat → Bool → State) : Prop :=
  let noted (u : State) (x : Fadd) : State := if r.op.float then { u with fadd := some x } else u
  let write (u : State) (v : Nat) (tn : Bool) : State := u.writeHome r.loc (toBytes r.width v) tn
  let alone (u : State) : State :=
    let v := F g.nat r.operand.toNat
    out (write (noted u ⟨r, g.nat, g.taint, v, true⟩) v r.taint) g.nat g.taint
  let u : State := { t with draws := t.draws + 1 }
  (t.partner r = none → (∀ x, t.fadd = some x → ¬ fuses r g x) → Runs i s (alone t)) ∧
  (∀ x, t.partner r = none → t.fadd = some x → fuses r g x →
    let m := x.req.merge r
    let v := F x.base m.operand.toNat
    m.operand = BitVec.ofNat 64 (F x.req.operand.toNat r.operand.toNat) ∧
    (Runs i s (alone u) ∨ Runs i s (out (write (noted u ⟨m, x.base, x.baseTaint, v, true⟩) v m.taint) g.nat g.taint))) ∧
  (∀ k q, t.partner r = some k → t.reds[k]? = some q →
    let w := ({ u with reds := listDrop t.reds k } : State).evictFor q
    let h := (w.readHome r.loc r.width).getD g
    let tn := r.taint || q.taint
    Runs i s (alone u) ∨
    Runs i s (if r.src < q.src then out (write w (F h.nat (F r.operand.toNat q.operand.toNat)) tn) h.nat h.taint
      else out (write w (F h.nat (F q.operand.toNat r.operand.toNat)) tn) (F h.nat q.operand.toNat) (h.taint || q.taint)))

/-- The integer atomics as operations on n-bit words given as numbers. -/
def amoOn (i : Instr) (signed : Bool) (n x y : Nat) : Nat := ((amoNew i signed n (BitVec.ofNat n x) (BitVec.ofNat n y)).getD 0).toNat

/-- The kind of reduction an integer atomic may be merged with. -/
def amoKind : Instr → RedOp
  | .amoand _ _ _ _ => .and'
  | .amoor _ _ _ _ => .or'
  | .amoxor _ _ _ _ => .xor'
  | .amomin _ _ _ _ => .min'
  | .amomax _ _ _ _ => .max'
  | _ => .add

end Sys2Proof.Claims

/-- R201, R128: an integer atomic that reaches its word reads it and writes the new word in one step; gD takes the old word, extended under
e7; a reserved width, or 16 bytes, is cause 0x01, and a check that fails traps with its own. Where a reduction of the same kind of another
strand is under way to the word, the two may be served as one, in the order of their sources (when they may is log entry 20, the model's
choice). -/
def Sys2Proof.Claims.AtomicResults : Prop :=
  ∀ (i : Instr) (s : State) (d a b : GIdx) (f : BitVec 3), Claims.amoOperands i = some (d, a, b, f) →
    (∀ n loc g t, Claims.amoWidth s n → s.amoOpen f a n Cap.null (s.g b).taint = .ok (loc, g, t) →
      Claims.servedBy i s t (Claims.inFlight s loc a b f (Claims.amoKind i) n (Claims.amoSigned s) (s.g b).taint)
        (Claims.amoOn i (Claims.amoSigned s) (8 * n)) g
        (fun u v tn => (u.setG d (Claims.asData (Claims.extended s n v) ((s.g a).taint || (s.g b).taint || s.eT 7 || tn))).past 4)) ∧
    (∀ n c v x, Claims.amoWidth s n → s.amoOpen f a n Cap.null (s.g b).taint = .error (.trap c v x) → Traps i s c v x) ∧
    (2 ≤ (s.e 7).toNat % 4 → Traps i s 0x01 (s.word.setWidth 64) 0)

/-- R201: AMOSWAP and AMOCAS of 8 and 4 bytes, and AMOFADD. AMOCAS stores only where the word equals gD, says in p7 whether it failed, and
returns the old word either way; AMOFADD rounds to nearest even whatever FRM holds, raises no flag, and taints (R150); what it may be merged with is log entry 20, the
model's choice. -/
def Sys2Proof.Claims.SwapResults : Prop :=
  ∀ (s t : State) (d a b : GIdx) (f : BitVec 3) (loc : Loc) (g : Got),
    (∀ n, Claims.amoWidth s n →
      (s.amoOpen f a n Cap.null (s.g b).taint = .ok (loc, g, t) →
        Runs (.amoswap d a b f) s (((t.writeHome loc (toBytes n (s.g b).bits.toNat) (s.g b).taint).setG d
          (Claims.asData (Claims.extended s n g.nat) ((s.g a).taint || (s.g b).taint || s.eT 7 || g.taint))).past 4)) ∧
      (s.amoOpen f a n Cap.null ((s.g b).taint || (s.g d).taint) = .ok (loc, g, t) →
        let same := decide (g.nat = (s.g d).bits.toNat % 2 ^ (8 * n))
        let tn := (s.g a).taint || ((s.g b).taint || (s.g d).taint) || s.eT 7 || g.taint
        Runs (.amocas d a b f) s ((((if same then t.writeHome loc (toBytes n (s.g b).bits.toNat) (s.g b).taint else t).setG d
          (Claims.asData (Claims.extended s n g.nat) tn)).setP 7 (Claims.all64 (!same)) tn).past 4))) ∧
    (s.amoOpen f a 8 Cap.null true = .ok (loc, g, t) →
      Claims.servedBy (.amofadd d a b f) s t (Claims.inFlight s loc a b f .fadd64 8 false true)
        (fun x y => (addFl .b64 .rne (.ofPat .b64 x) (.ofPat .b64 y)).1) g
        (fun u v _ => ((u.setG d (Claims.asData (BitVec.ofNat 64 v) true)).taintEvent).past 4)) ∧
    ((s.e 7).toNat % 4 = 3 → Traps (.amoswap d a b f) s 0x01 (s.word.setWidth 64) 0 ∧ Traps (.amocas d a b f) s 0x01 (s.word.setWidth 64) 0)

/-- R201, R54: the 16-byte AMOSWAP and AMOCAS store gB whole with its tag and compare and return all 128 bits with the granule's tag, the
tag only where gA holds LDC. -/
def Sys2Proof.Claims.WideSwapResults : Prop :=
  ∀ (s t : State) (d a b : GIdx) (f : BitVec 3) (loc : Loc) (g : Got), (s.e 7).toNat % 4 = 2 →
    let old (tn : Bool) : GReg :=
      ⟨BitVec.ofNat 128 g.nat, (s.cap a).permLdc && g.tag && !(Cap.malformed ⟨BitVec.ofNat 128 g.nat, true⟩), tn⟩
    (s.amoOpen f a 16 (s.cap b) (s.g b).taint = .ok (loc, g, t) →
      Runs (.amoswap d a b f) s (((t.writeCapHome loc (s.g b).bits (s.g b).tag (s.g b).taint).setG d
        (old ((s.g a).taint || (s.g b).taint || s.eT 7 || g.taint))).past 4)) ∧
    (s.amoOpen f a 16 (s.cap b) ((s.g b).taint || (s.g d).taint) = .ok (loc, g, t) →
      let same := decide (g.nat = (s.g d).bits.toNat) && (g.tag == (s.g d).tag)
      let tn := (s.g a).taint || ((s.g b).taint || (s.g d).taint) || s.eT 7 || g.taint
      Runs (.amocas d a b f) s ((((if same then t.writeCapHome loc (s.g b).bits (s.g b).tag (s.g b).taint else t).setG d
        (old tn)).setP 7 (Claims.all64 (!same)) tn).past 4))

/-- R200: LDA of anything but MMIO reads at the home, never a stale copy, and acquires at its scope; STL first brings the strand's earlier
reductions and, from QUAD on, the core's dirty bytes to their homes, and then writes its own bytes: a byte of memory into L1 at CORE
scope and at the home beyond. Both meet the scope checker first. -/
def Sys2Proof.Claims.SynchronisingResults : Prop :=
  ∀ (s s1 s2 : State) (d a : GIdx) (w : BitVec 2) (f : BitVec 3) (va : Dword) (t : Trans),
    let n := 2 ^ w.toNat
    (∀ g, (∀ x, t.loc ≠ .mmio x) →
      capCheckAt (s.cap a) [0] { r := true } (s.cap a).addr.toNat n n = .ok va → s.translate s.ctx .load false va = .ok (t, s1) →
      s1.scopeCheck f t.loc va = .ok s2 → ((s2.settleOver t.loc n).evictAt s.myCore t.loc).readHome t.loc n = some g →
      Runs (.lda d a w f) s (((((s2.settleOver t.loc n).evictAt s.myCore t.loc).acquire f.toNat).setG d
        (Claims.asData (BitVec.ofNat 64 g.nat) ((s.g a).taint || g.taint))).past 4)) ∧
    (capCheckAt (s.cap a) [0] { w := true } (s.cap a).addr.toNat n n = .ok va → s.translate s.ctx .store false va = .ok (t, s1) →
      s1.guardTaint t.pte (s.g d).taint va = .ok () → s1.scopeCheck f t.loc va = .ok s2 →
      let s3 := (s2.settleOver t.loc n).release f.toNat
      let bs := toBytes n (s.x d).toNat
      let s4 := match t.loc with
        | .mem _ => if f = 0 then s3.writeLoc s.ctx t.loc bs (s.g d).taint else (s3.evictAt s.myCore t.loc).writeHome t.loc bs (s.g d).taint
        | _ => (s3.writeLoc s.ctx t.loc bs (s.g d).taint).noteLost t.loc (s.g d).taint
      s4.me.ctr.s < 255 → Runs (.stl d a w f) s ((s4.modCtr (fun c => { c with s := c.s + 1 })).past 4))

/-- R202, R126: a RED of memory leaves a reduction of its operand, scope, width and address in the core's combining buffer or merged into
the strand's own matching one there, and one of a scratchpad goes to its SRAM; S rises, and nothing is returned; the floating forms taint
and count a taint event (R150). -/
def Sys2Proof.Claims.ReductionResults : Prop :=
  ∀ (s s1 : State) (o : BitVec 3) (a b : GIdx) (f : BitVec 3) (va : Dword) (t : Trans) (n : Nat),
    (if o.toNat < 6 then Claims.amoWidth s n else if o = 6 then n = 8 else n = 4) →
    let fl := decide (6 ≤ o.toNat)
    let tb := (s.g b).taint || fl
    capCheckAt (s.cap a) [0] { w := true } (s.cap a).addr.toNat n n = .ok va → s.translate s.ctx .red false va = .ok (t, s1) →
    s1.guardTaint t.pte tb va = .ok () →
    let r : RedReq := ⟨s.me?, [], s.strandSrc s.cur, s.myPart, s.ctx, va, t.loc, redOpOf o, n, if fl then true else Claims.amoSigned s, f,
      BitVec.ofNat 64 ((s.x b).toNat % 2 ^ (8 * n)), tb, 1⟩
    let s2 := match t.loc with
      | .mem _ => (s1.evictAt s.myCore t.loc).combineRed r
      | _ => s1.applyRed r
    let s3 := if fl then s2.taintEvent else s2
    s3.me.ctr.s < 255 → Runs (.red o a b f) s ((s3.modCtr (fun c => { c with s := c.s + 1 })).past 4)

/-- R141, R203, R125: the fences run; after a release at QUAD scope or wider no line of the core is dirty, and after an acquire there it
keeps no clean data byte and no instruction line. -/
def Sys2Proof.Claims.FenceResults : Prop :=
  ∀ (s : State) (f : BitVec 3),
    Runs (.fenceAcq f) s ((s.acquire f.toNat).past 4) ∧ Runs (.fenceRel f) s ((s.release f.toNat).past 4) ∧
    Runs (.fenceFull f) s (((s.release f.toNat).acquire f.toNat).past 4) ∧
    (f ≠ 0 → (∀ e ∈ ((s.release f.toNat).core s.myCore).lines, e.2.dirty = 0) ∧
      (∀ e ∈ ((s.acquire f.toNat).core s.myCore).lines, e.2.have' = e.2.dirty) ∧ ((s.acquire f.toNat).core s.myCore).ilines = [])

/-- R203: the cache operations on a line that the strand can reach run: CLEAN writes its dirty bytes home (nothing at CORE scope), INV drops
the core's copy with them, CLEANINV does both; where the address is not device memory they end with the check. -/
def Sys2Proof.Claims.CacheOperationResults : Prop :=
  ∀ (s s1 : State) (a : GIdx) (f : BitVec 3) (va : Dword) (t : Trans),
    (capCheckAt (s.cap a) [0] { r := true } (s.cap a).addr.toNat 1 1 = .ok va → s.locate s.ctx .clean false va = .ok (t, s1) →
      Runs (.fenceClean a f) s ((match t.loc with
        | .mem pa => if f = 0 then s1 else s1.cleanLine (pa / 128)
        | _ => s1 : State).past 4)) ∧
    (capCheckAt (s.cap a) [0] { w := true } (s.cap a).addr.toNat 1 1 = .ok va → s.locate s.ctx .inval false va = .ok (t, s1) →
      Runs (.fenceInv a f) s ((match t.loc with
        | .mem pa => s1.dropLine (pa / 128)
        | _ => s1 : State).past 4) ∧
      Runs (.fenceCleaninv a f) s ((match t.loc with
        | .mem pa => (if f = 0 then s1 else s1.cleanLine (pa / 128)).dropLine (pa / 128)
        | _ => s1 : State).past 4))

/-! ## Waits and barriers -/

namespace Sys2Proof.Claims
/-- Every counter is at or below its limit, 31 being no limit (R199). -/
def countersIn (s : State) (l st c t : VIdx) : Prop :=
  (l = 31 ∨ s.me.ctr.l ≤ l.toNat) ∧ (st = 31 ∨ s.me.ctr.s ≤ st.toNat) ∧ (c = 31 ∨ s.me.ctr.c ≤ c.toNat) ∧ (t = 31 ∨ s.me.ctr.t ≤ t.toNat)
/-- A report that WAIT with these L and C limits covers (R199, R249, R262). -/
def covered (l c : VIdx) (r : Late) : Prop := if r.onC then c ≠ 31 else l ≠ 31
end Sys2Proof.Claims

/-- R199, R161: WAIT goes on, acquiring, when every counter is within its limit and no report that it covers is pending; waits otherwise; and with the
counters within their limits and reports pending that it covers, delivers the oldest as a trap and leaves the others. C.WAIT0 has the four
limits zero. -/
def Sys2Proof.Claims.WaitResults : Prop :=
  ∀ (s : State) (l st c t : VIdx),
    (Claims.countersIn s l st c t → (∀ r ∈ s.me.lates, ¬ Claims.covered l c r) → Runs (.wait l st c t) s ((s.acquire 2).past 4)) ∧
    (Claims.countersIn s 0 0 0 0 → s.me.lates = [] → Runs .cWait0 s ((s.acquire 2).past 2)) ∧
    (¬ Claims.countersIn s l st c t → Waits (.wait l st c t) s (.counters t.toNat c.toNat st.toNat l.toNat)) ∧
    (∀ r, Claims.countersIn s l st c t → r ∈ s.me.lates → Claims.covered l c r →
      (∀ q ∈ s.me.lates, Claims.covered l c q → q ≠ r → r.order < q.order) →
      ∃ m, exec (.wait l st c t) s = .next (((s.setMe m).spent).takeTrap r.cause r.tval r.extra) ∧
        m.lates = s.me.lates.filter (fun q => q.order != r.order) ∧ m.regs = s.me.regs)

/-- R204: WAITA on a word whose condition holds when it is issued runs at once, p7 zero, and acquires; otherwise it waits on the word, and
does the same when a write satisfies the condition; a timeout ends the wait with p7 all ones and tainted. A word in MMIO is cause 0x07. -/
def Sys2Proof.Claims.WaitWordResults : Prop :=
  ∀ (s s1 s2 : State) (f c : BitVec 3) (a b : GIdx) (k : BitVec 3) (va : Dword) (t : Trans) (g : Got),
    let ended (s : State) (loc : Loc) : State := (s.evictAt s.myCore loc).acquire f.toNat
    (s.me.wait = none → capCheckAt (s.cap a) [0] { r := true } (s.cap a).addr.toNat 8 8 = .ok va → s.translate s.ctx .load false va = .ok (t, s1) →
      (∀ x, t.loc = .mmio x → Traps (.waita f c a b k) s 0x07 va (t.pte.setWidth 128)) ∧
      ((∀ x, t.loc ≠ .mmio x) → s1.scopeCheck f t.loc va = .ok s2 →
        let s3 := (s2.settleOver t.loc 8).evictAt s.myCore t.loc
        s3.readHome t.loc 8 = some g →
        (Claims.holds c (BitVec.ofNat 64 g.nat) (s.x b) = true → ∃ tn, Runs (.waita f c a b k) s (((ended s3 t.loc).setP 7 0 tn).past 4)) ∧
        (Claims.holds c (BitVec.ofNat 64 g.nat) (s.x b) = false →
          Pauses (.waita f c a b k) s s3 (.word t.loc 8 c (s.x b) false k.toNat)))) ∧
    (∀ w loc n c' v ph cls, s.me.wait = some w → w.on = .word loc n c' v ph cls →
      (w.expired = true → Runs (.waita f c a b k) s (((s.setP 7 (BitVec.allOnes 64) true).taintEvent).past 4)) ∧
      (w.expired = false → w.hit = true → ∃ tn, Runs (.waita f c a b k) s (((ended s loc).setP 7 0 tn).past 4)) ∧
      (w.expired = false → w.hit = false → Waits (.waita f c a b k) s (.word loc 8 c (s.x b) false k.toNat)))

/-- R205, R206, R147: the barrier instructions on a word in a scratchpad. BINIT sets it for n arrivals; BARR arrives and returns the phase
before; BARB also adds bytes; BDROP lowers the expected count; each serves Complete; BWAIT goes on when the phase it names has ended;
BARW waits for the end of the phase it arrived in unless its own arrival ended it, and a wait that has ended goes on and arrives no second
time. -/
def Sys2Proof.Claims.BarrierResults : Prop :=
  ∀ (s s1 : State) (d a b : GIdx) (va : Dword) (loc : Loc),
    (s.barrierAt a .amo ((s.g b).taint && (s.x b).setWidth 32 != 0#32) = .ok (va, loc, s1) →
      ((s.x b).setWidth 32 ≠ 0#32 →
        Runs (.binit a b) s (((s1.writeHome loc (toBytes 16 ((Barrier.complete ⟨false, false, 0, 0, (s.x b).setWidth 32⟩).toNat 0))
          (s.g b).taint).setP 7 0 (s.t2 a b)).past 4)) ∧
      ((s.x b).setWidth 32 = 0#32 → Runs (.binit a b) s ((s1.setP 7 (BitVec.allOnes 64) (s.t2 a b)).past 4))) ∧
    (∀ old tn, s.barrierAt a .amo (s.g b).taint = .ok (va, loc, s1) → (s1.release 2).barrierGet va loc = .ok (old, tn) →
      let w := Barrier.ofNat old
      Runs (.barb d a b) s ((((s1.release 2).barrierPut loc old { w with arr := w.arr + 1, bytes := w.bytes + (s.x b).setWidth 32 } (s.g b).taint).setG d
        (Claims.asData (BitVec.ofNat 64 w.ph.toNat) (s.t2 a b || tn))).past 4)) ∧
    (∀ old tn, s.barrierAt a .amo false = .ok (va, loc, s1) → (s1.release 2).barrierGet va loc = .ok (old, tn) →
      let w := Barrier.ofNat old
      let t := ((s1.release 2).barrierPut loc old { w with arr := w.arr + 1 } false).setG d
        (Claims.asData (BitVec.ofNat 64 w.ph.toNat) ((s.g a).taint || tn))
      Runs (.barr d a) s (t.past 4) ∧
      (s.me.wait = none → if natBit (t.homeNat loc 16) 96 ≠ w.ph then Runs (.barw d a) s ((t.acquire 2).past 4) else Pauses (.barw d a) s t (.barrier loc w.ph))) ∧
    (∀ old tn, s.barrierAt a .amo false = .ok (va, loc, s1) → s1.barrierGet va loc = .ok (old, tn) →
      let w := Barrier.ofNat old
      let phase := (s.x b).getLsbD 0
      let s2 := if w.complete = w then s1 else s1.barrierPut loc old w false
      (s.me.wait = none → (w.ph ≠ phase ∨ w.complete.ph ≠ phase) → Runs (.bwait a b) s ((s2.acquire 2).past 4)) ∧
      (s.me.wait = none → w.ph = phase → w.complete.ph = phase → Pauses (.bwait a b) s s2 (.barrier loc phase)) ∧
      (1 < w.exp.toNat → Runs (.bdrop a) s (((s1.barrierPut loc old { w with exp := w.exp - 1 } false).setP 7 0 ((s.g a).taint || tn)).past 4)) ∧
      (w.exp.toNat ≤ 1 → Runs (.bdrop a) s ((s1.setP 7 (BitVec.allOnes 64) ((s.g a).taint || tn)).past 4))) ∧
    (∀ w ph, s.me.wait = some w → w.on = .barrier loc ph →
      (w.hit = true → Runs (.bwait a b) s ((s.acquire 2).past 4) ∧ Runs (.barw d a) s ((s.acquire 2).past 4)) ∧
      (w.hit = false → Waits (.bwait a b) s (.barrier loc ph) ∧ Waits (.barw d a) s (.barrier loc ph)))

/-! ## Copies, streams, gathers -/

namespace Sys2Proof.Claims

/-- A side of a copy command that its issue accepts (R235): the capability covers the extent with the permission needed, and the extent's
ends are not in the MMIO map. -/
def sideOk (s : State) (c : Cap) (need : Need) (x : Int × Nat) : Prop :=
  ∃ lo, capCheckAt c [0] need x.1 x.2 1 = .ok lo ∧
    (x.2 ≠ 0 → s.isMmio s.ctx lo = none ∧ s.isMmio s.ctx (lo + BitVec.ofNat 64 (x.2 - 1)) = none)

/-- e6's scope and channel (R238): reserved bits zero, the scope defined. -/
def copyPlace (s : State) (scope : BitVec 3) (ch : Nat) : Prop :=
  (s.e 6).extractLsb' 6 26 = 0 ∧ scope = (s.e 6).extractLsb' 3 3 ∧ scope ≠ 7 ∧ ch = (s.e 6).toNat % 8

/-- Room for one more copy command: C below its limit and the core's dispatch queue not full (R44, R198). -/
def copyRoom (s : State) : Prop := s.me.ctr.c < 255 ∧ (s.core s.myCore).queue.length < 8

/-- After the push (R236, R137): C has risen, the stores before it are released, the command is last in the core's dispatch queue under the
channel's NEXT, NEXT has moved on, and gD holds the id. -/
def pushed (s : State) (d : GIdx) (c : Copy) (taint : Bool) : State :=
  let id := (s.channel s.myCore c.chan).next
  let t := (s.modCtr (fun k => { k with c := k.c + 1 })).release (max c.scope.toNat 1)
  let u := t.modChannel t.myCore c.chan (fun k => { k with next := k.next + 1 })
  (u.modCore u.myCore (fun k => { k with queue := k.queue ++ [.copy { c with id := id }] })).setG d ⟨id.setWidth 128, false, taint⟩

/-- The command that a copy instruction issues, where its operands pass the checks of R235 and R238 to R240, and gD's taint. -/
structure CopyForm where
  d : GIdx
  cmd : Copy
  taint : Bool

/-- A linear copy's operands: gA the destination, gB the source, e0 the length. -/
def linearOk (s : State) (a b : GIdx) : Prop :=
  sideOk s (s.cap a) { w := true } ((s.cap a).addr.toNat, (s.e 0).toNat) ∧ sideOk s (s.cap b) { r := true } ((s.cap b).addr.toNat, (s.e 0).toNat)

/-- The flag's or barrier word's place: e4 an offset in the destination's window, aligned (R239). -/
def markOk (s : State) (a : GIdx) (align : Nat) (mark : Dword) : Prop :=
  (s.e 4).toNat < 2 ^ 18 ∧ mark = s.windowAddr (s.cap a) (s.e 4) ∧ mark.toNat % align = 0

def copyForm (s : State) (scope : BitVec 3) (ch : Nat) (mark : Dword) : Instr → Option CopyForm
  | .copy d a b => some ⟨d, s.copyBase .copy scope ch a b (s.e 0).toNat, s.t2 a b || s.eT 6 || s.eT 0⟩
  | .copy2 d a b => some ⟨d, s.copyBase .copy2 scope ch a b ((s.e 0).toNat * (s.e 1).toNat),
      s.t2 a b || s.eT 6 || s.eT 0 || s.eT 1 || s.eT 2 || s.eT 3⟩
  | .copyf d a b => some ⟨d, { s.copyBase .copyf scope ch a b (s.e 0).toNat with mark := mark, taint := s.eT 5 },
      s.t2 a b || s.eT 6 || s.eT 0 || s.eT 4 || s.eT 5⟩
  | .copyb d a b => some ⟨d, { s.copyBase .copyb scope ch a b (s.e 0).toNat with mark := mark, taint := s.eT 0 },
      s.t2 a b || s.eT 6 || s.eT 0 || s.eT 4⟩
  | _ => none

/-- What each checks beside e6. -/
def copyOk (s : State) (mark : Dword) : Instr → Prop
  | .copy _ a b => linearOk s a b
  | .copy2 _ a b =>
    sideOk s (s.cap a) { w := true } (extent (s.cap a).addr.toNat (s.e 2).toInt (s.e 1).toNat (s.e 0).toNat) ∧
    sideOk s (s.cap b) { r := true } (extent (s.cap b).addr.toNat (s.e 3).toInt (s.e 1).toNat (s.e 0).toNat)
  | .copyf _ a b => linearOk s a b ∧ markOk s a 8 mark
  | .copyb _ a b => linearOk s a b ∧ markOk s a 16 mark
  | _ => False

end Sys2Proof.Claims

/-- R235, R236, R238, R239: COPY, COPY2, COPYF and COPYB whose operands pass the checks at issue run: the command enters the core's queue
under the channel's next id, which gD takes, and C rises. Full, they stall with nothing done (R43, R44). An e6 with a reserved bit or a
reserved scope is cause 0x01. That the MMIO test of issue looks at an extent's first and last byte alone is the model's reading (log entry
34). -/
def Sys2Proof.Claims.CopyIssue : Prop :=
  ∀ (i : Instr) (s : State) (scope : BitVec 3) (ch : Nat) (mark : Dword) (f : Claims.CopyForm),
    Claims.copyPlace s scope ch → Claims.copyOk s mark i → Claims.copyForm s scope ch mark i = some f →
    (Claims.copyRoom s → Runs i s ((Claims.pushed s f.d f.cmd f.taint).past 4)) ∧
    (¬ Claims.copyRoom s → Stalls i s) ∧
    ∀ r : State, ((r.e 6).extractLsb' 6 26 ≠ 0 ∨ (r.e 6).extractLsb' 3 3 = 7) → Traps i r 0x01 ((r.e 6).setWidth 64) 0

/-- R240 to R242: COPYP and COPYZ, whose shape e0 and e5 give and whose code width and signature are a valid table slot's or a direct
format's, and COPYT, whose e4 is a TMMA word and e5 and e1 its shape, run in the same way. COPYT samples its TMMA at issue and raises T. That
COPYP's stride is unsigned is the model's reading (log entry 35), and so is the MMIO test at an extent's ends (34). -/
def Sys2Proof.Claims.PackingCopyIssue : Prop :=
  ∀ (s : State) (scope : BitVec 3) (ch : Nat) (d a b : GIdx), Claims.copyPlace s scope ch → Claims.copyRoom s →
    (∀ rows kext cw sig, s.packShape = .ok (rows, kext, cw, sig) →
      Claims.sideOk s (s.cap a) { w := true } ((s.cap a).addr.toNat, bufferSize kext cw rows) →
      let cmd (k : CopyKind) : Copy := { s.copyBase k scope ch a b (bufferSize kext cw rows) with cw := cw, sig := sig, taint := s.eT 0 || s.eT 5 }
      let tn := s.t2 a b || s.eT 6 || s.eT 0 || s.eT 1 || s.eT 5
      Runs (.copyz d a b) s ((Claims.pushed s d (cmd .copyz) tn).past 4) ∧
      (Claims.sideOk s (s.cap b) { r := true }
          (extent (s.cap b).addr.toNat ((s.e 1).toNat : Int) rows (kext * if cw = 16 then 2 else 1)) →
        Runs (.copyp d a b) s ((Claims.pushed s d (cmd .copyp) tn).past 4))) ∧
    (Claims.linearOk s a b → isTmmaWord (s.e 4) = true → s.me.ctr.t < 255 → ∀ x t,
      let w := s.e 4
      let ga := w.extractLsb' 17 6
      let gb := w.extractLsb' 23 6
      s.sampleTmma (w.extractLsb' 11 2).toNat (w.getLsbD 13) (w.getLsbD 14) (w.getLsbD 15) ga gb (s.e 5) (s.e 1)
        (s.t2 ga gb || s.eT 1 || s.eT 5) = .ok (x, t) →
      Runs (.copyt d a b) s ((Claims.pushed (t.modCtr (fun k => { k with t := k.t + 1 })) d
        { s.copyBase .copyt scope ch a b (s.e 0).toNat with tmma := some x } (s.t2 a b || s.eT 6 || s.eT 0 || s.eT 1 || s.eT 4 || s.eT 5)).past 4))

/-- R236, R237, R243: CPDN returns CPDONE and says in p7 whether the id is done, acquiring at CLUSTER when it is; WAITID runs once it is
done and waits until then; CPERR returns the channel's error record and clears it. An id is done when DONE has passed it by at most 2^31. -/
def Sys2Proof.Claims.ChannelResults : Prop :=
  ∀ (s : State) (d a : GIdx) (c : PIdx),
    let k := s.channel s.myCore c.toNat
    let id := (s.x a).setWidth 32
    let done := 0 < (k.done - id).toNat ∧ (k.done - id).toNat ≤ 2 ^ 31
    (done → Runs (.cpdn d a c) s ((((s.acquire 2).setG d ⟨(k.next ++ k.done).setWidth 128, false, (s.g a).taint⟩).setP 7 0 (s.g a).taint).past 4) ∧
      Runs (.waitid a c) s ((s.acquire 2).past 4)) ∧
    (¬ done → Runs (.cpdn d a c) s (((s.setG d ⟨(k.next ++ k.done).setWidth 128, false, (s.g a).taint⟩).setP 7 (BitVec.allOnes 64) (s.g a).taint).past 4) ∧
      Waits (.waitid a c) s (.transfer c.toNat id)) ∧
    (let record : Qword := match k.err with
        | none => 0
        | some (i, cause, n, addr) => i ++ cause ++ n ++ (1#16) ++ addr
      Runs (.cperr d c) s (((s.setG d ⟨record, false, false⟩).modChannel s.myCore c.toNat (fun k => { k with err := none })).past 4))

/-- R245: STMR and STMW start a stream of e0 · e1 · e2 elements, from 1 to 2^32 − 1 of them, an earlier one of the register ending first,
and release at QUAD; another count is cause 0x01; STMD ends one, the register reading zero; STMX says what is left. -/
def Sys2Proof.Claims.StreamResults : Prop :=
  ∀ (s : State) (v : VIdx) (d a : GIdx), 28 ≤ v.toNat →
    let n := (s.e 0).toNat * (s.e 1).toNat * (s.e 2).toNat
    let ended : State := (s.modMe (fun m => { m with streams := m.streams.setIfInBounds (v.toNat - 28) none })).modRegs (fun r => r.wv v VReg.zero)
    let before := if (s.stream? v).isSome then ended else s
    let new (w : Bool) : Stream := ⟨w, s.cap a, [(s.e 0).toNat, (s.e 1).toNat, (s.e 2).toNat], [(s.e 3).toInt, (s.e 4).toInt, (s.e 5).toInt], 0, false⟩
    (0 < n → n < 2 ^ 32 → ∃ tr tw,
      Runs (.stmr v a) s tr ∧ tr.stream? v = some (new false) ∧ Runs (.stmw v a) s tw ∧ tw.stream? v = some (new true) ∧
      tr.me.regs = before.me.regs ∧ tw.me.regs = before.me.regs) ∧
    ((n = 0 ∨ 2 ^ 32 ≤ n) → Traps (.stmr v a) s 0x01 (s.word.setWidth 64) 0 ∧ Traps (.stmw v a) s 0x01 (s.word.setWidth 64) 0) ∧
    Runs (.stmd v) s (ended.past 4) ∧
    (∀ t, s.stream? v = some t → Runs (.stmx d v) s
      ((s.setG d ⟨((1#1 ++ BitVec.ofBool t.write ++ BitVec.ofBool t.ovr ++ 0#29 ++ BitVec.ofNat 32 (t.total - t.pos) : Dword)).setWidth 128, false, false⟩).past 4)) ∧
    (s.stream? v = none → Runs (.stmx d v) s ((s.setG d ⟨0, false, false⟩).past 4))

/-- R209, R246: a source that is an active read stream gives the next element of its pattern, 256 bytes at its address, and moves on; past
its end it gives zero and says so, memory unread; a destination that is an active write stream stores the register's bytes as the next
element and moves on; no other use of a register touches its stream. That a push leaves the register's own bits as they were is the model's
reading (log entry 80), and that a read of a write stream's register or a write of a read stream's uses those bits its choice (138). -/
def Sys2Proof.Claims.StreamOperands : Prop :=
  ∀ (s : State) (v : VIdx) (x : VReg),
    (∀ t, s.stream? v = some t → t.write = false → t.total ≤ t.pos →
      ∃ u, s.readV v = .ok (⟨0, false⟩, u) ∧ u.stream? v = some { t with ovr := true } ∧ u.mem = s.mem ∧ u.me.regs = s.me.regs) ∧
    (∀ t a bs tn u, s.stream? v = some t → t.write = false → t.pos < t.total → capCheckAt t.cap [0] { r := true } (t.addr t.pos) 256 4 = .ok a →
      s.readAcquired s.ctx a 256 = .ok (bs, tn, u) →
      ∃ w r, s.readV v = .ok (r, w) ∧ r.taint = tn ∧ w.stream? v = (u.stream? v).map (fun _ => { t with pos := t.pos + 1 }) ∧
        ∀ k < 256, byteLane r.bits k = bs.getD k 0) ∧
    (∀ t, s.stream? v = some t → t.write = true → s.readV v = .ok (s.me.regs.rv v, s)) ∧
    (s.stream? v = none → s.readV v = .ok (s.me.regs.rv v, s) ∧ s.writeV v x = .ok (s.modRegs (fun r => r.wv v x))) ∧
    (∀ t, s.stream? v = some t → t.write = false → s.writeV v x = .ok (s.modRegs (fun r => r.wv v x))) ∧
    (∀ t, s.stream? v = some t → t.write = true → t.total ≤ t.pos →
      ∃ u, s.writeV v x = .ok u ∧ u.stream? v = some { t with ovr := true } ∧ u.mem = s.mem ∧ u.me.regs = s.me.regs) ∧
    (∀ t a u, s.stream? v = some t → t.write = true → t.pos < t.total → capCheckAt t.cap [0] { w := true } (t.addr t.pos) 256 4 = .ok a →
      ((piecesOf a 256).foldlM (fun (s : State) p => s.storeAt p.1 (((vBytes x.bits).drop p.2.1).take p.2.2) x.taint) s : Res State) = .ok u →
      (u.me.ctr.s < 255 →
        s.writeV v x = .ok ((u.setStream v (some { t with pos := t.pos + 1 })).modCtr (fun c => { c with s := c.s + 1 }))) ∧
      (255 ≤ u.me.ctr.s → s.writeV v x = .error .stall))

namespace Sys2Proof.Claims

/-- The count, element size and index width of a gather or scatter that R247's checks accept. -/
def gatherShape (s : State) (scata : Bool) : Prop :=
  let e1 := s.e 1
  0 < (s.e 0).toNat ∧ (s.e 0).toNat ≤ 65536 ∧ e1.toNat < 1024 ∧ e1.toNat / 64 % 4 < 2 ∧ e1.toNat / 8 % 8 ≠ 7 ∧ e1.toNat % 8 ≤ 4 ∧
    (if scata then e1.toNat % 8 = addSize (e1.toNat / 256 % 4) else e1.toNat / 256 % 4 = 0)

/-- Its kind and operands. -/
def gatherOperands : Instr → Option (GatherKind × GIdx × GIdx × GIdx)
  | .gath d a b => some (.gath, d, a, b)
  | .gaths d a b => some (.gaths, d, a, b)
  | .scat d a b => some (.scat, d, a, b)
  | .scata d a b => some (.scata, d, a, b)
  | .scato d a b => some (.scato, d, a, b)
  | _ => none

end Sys2Proof.Claims

/-- R247, R248: a gather or scatter whose shape, capabilities and status area pass the checks at issue runs: C rises and the last entry of
the core's queue is its command, for every element, with the capabilities as they stand; SCATA is a taint event (R150). With C at 255 or the
queue full it stalls. -/
def Sys2Proof.Claims.GatherIssue : Prop :=
  ∀ (i : Instr) (s s1 : State) (k : GatherKind) (d a b : GIdx) (va : Dword), Claims.gatherOperands i = some (k, d, a, b) →
    let n := (s.e 0).toNat
    let z := 2 ^ ((s.e 1).toNat % 8)
    let scat := k = .scat ∨ k = .scata ∨ k = .scato
    let seq := if scat then s.cap a else s.cap d
    let ind := if scat then s.cap d else s.cap a
    Claims.gatherShape s (k == .scata) → Claims.sideOk s (s.cap b) { r := true } ((s.cap b).addr.toNat, n * if (s.e 1).toNat / 64 % 4 = 0 then 4 else 8) →
    Claims.sideOk s seq (if scat then { r := true } else { w := true }) (seq.addr.toNat, n * z) →
    (k = .scato → Claims.sideOk s ind { r := true, w := true } (ind.addr.toNat, 64)) →
    s.statusAt n = .ok (va, s1) →
    (¬ Claims.copyRoom s → Stalls i s) ∧
    (Claims.copyRoom s → ∃ t g q, Runs i s t ∧ (t.core t.myCore).queue = q ++ [.gather g] ∧ t.me.ctr.c = s.me.ctr.c + 1 ∧
      g.kind = k ∧ g.count = n ∧ g.inOrder = seq ∧ g.indexed = ind ∧ g.index = s.cap b ∧ g.status = va ∧ g.todo = List.range n ∧
      g.owner = s.me? ∧ (k = .scata → t.me.csr.taintSticky = true))

/-- R247, R249, R251: GREST reads the status area's kind and issues that command again, for the elements whose bitmap bits are clear; LOGM of
an area that its capability covers issues its command. -/
def Sys2Proof.Claims.GatherRestart : Prop :=
  ∀ (s : State) (d a b : GIdx),
    (∀ i va s1 bs tn s2 t k, s.statusAt 1 = .ok (va, s1) → s1.readVirt s1.ctx va 16 = .ok (bs, tn, s2) →
      natBits (ofBytes bs) 127 120 = k → ((k = 0 ∧ i = GatherKind.gath) ∨ (k = 1 ∧ i = .gaths) ∨ (k = 2 ∧ i = .scat) ∨ (k = 3 ∧ i = .scata) ∨ (k = 4 ∧ i = .scato)) →
      s2.gatherCmd i true d a b = .ok t → Runs (.grest d a b) s (t.past 4)) ∧
    (∀ va s1 bs tn s2, s.statusAt 1 = .ok (va, s1) → s1.readVirt s1.ctx va 16 = .ok (bs, tn, s2) → 4 < natBits (ofBytes bs) 127 120 →
      Traps (.grest d a b) s 0x01 (s.word.setWidth 64) 0) ∧
    ((s.e 1) &&& ~~~(0x38#32) = 0 → (s.e 1).extractLsb' 3 3 ≠ 7 →
      Claims.sideOk s (s.cap a) { r := true, w := true } ((s.cap a).addr.toNat, 64) → Claims.copyRoom s →
      ∃ t g q, Runs (.logm a) s t ∧ (t.core t.myCore).queue = q ++ [.gather g] ∧ g.kind = .logm ∧ g.indexed = s.cap a ∧ g.owner = s.me? ∧
        t.me.ctr.c = s.me.ctr.c + 1)

/-! ## Vectors -/

namespace Sys2Proof.Claims

/-- Lane i of a v register. -/
def vl (s : State) (a : VIdx) (i : Nat) : Word := lane (s.me.regs.rv a).bits i
/-- 16-bit lane j of a v register. -/
def vh (s : State) (a : VIdx) (j : Nat) : Half := lane16 (s.me.regs.rv a).bits j
/-- The taint of a v register. -/
def vt (s : State) (a : VIdx) : Bool := (s.me.regs.rv a).taint
/-- Whether a predicate has lane i active. -/
def active (s : State) (m : PIdx) (i : Nat) : Bool := (s.p m).bits.getLsbD i

/-- The flags of the lanes below n, together. -/
def orFlags (n : Nat) (f : Nat → FFlags) : FFlags := (List.range n).foldl (fun a i => a ||| f i) 0

/-- A masked instruction's destination, mask, v sources in the order they are read, lane results from what these give with the flags each
raises, and the taint of what else it reads. -/
structure LaneForm (w : Nat) where
  d : VIdx
  m : PIdx
  src : List VIdx
  out : List VReg → Nat → BitVec w × FFlags
  extra : Bool

/-- Lane i, and 16-bit lane j, of the k-th source as read. -/
def ln (xs : List VReg) (k i : Nat) : Word := lane (xs.getD k VReg.zero).bits i
def hn (xs : List VReg) (k j : Nat) : Half := lane16 (xs.getD k VReg.zero).bits j

/-- A lane result that raises no flag. -/
def quiet {w : Nat} (f : Nat → BitVec w) (i : Nat) : BitVec w × FFlags := (f i, 0)

/-- A binary32 operation of two lanes on exact values (R210). -/
def two32 (f : Fl → Fl → Nat × FFlags) (x y : Word) : Word × FFlags := fpOut 32 (f (.ofPat .b32 x.toNat) (.ofPat .b32 y.toNat))
def three32 (f : Fl → Fl → Fl → Nat × FFlags) (x y z : Word) : Word × FFlags :=
  fpOut 32 (f (.ofPat .b32 x.toNat) (.ofPat .b32 y.toNat) (.ofPat .b32 z.toNat))
def one32 (f : Fl → Nat × FFlags) (x : Word) : Word × FFlags := fpOut 32 (f (.ofPat .b32 x.toNat))

/-- The sign operations: a NaN gives the canonical NaN, and no flag is raised (R210). -/
def signOf (x y : Word) : Word := if isNan .b32 x.toNat then 0x7FC00000 else y

/-- The lanes of each masked 32-bit instruction (R210, R212, R214, R216). -/
def laneForm (s : State) : Instr → Option (LaneForm 32)
  | .vfadd d a b m => some ⟨d, m, [a, b], fun xs i => two32 (addFl .b32 s.rm) (ln xs 0 i) (ln xs 1 i), false⟩
  | .vfsub d a b m => some ⟨d, m, [a, b], fun xs i => two32 (fun x y => addFl .b32 s.rm x y.neg) (ln xs 0 i) (ln xs 1 i), false⟩
  | .vfmul d a b m => some ⟨d, m, [a, b], fun xs i => two32 (mulFl .b32 s.rm) (ln xs 0 i) (ln xs 1 i), false⟩
  | .vfdiv d a b m => some ⟨d, m, [a, b], fun xs i => two32 (divFl .b32 s.rm) (ln xs 0 i) (ln xs 1 i), false⟩
  | .vfmin d a b m => some ⟨d, m, [a, b], fun xs i => fpOut 32 (minMax .b32 false (ln xs 0 i).toNat (ln xs 1 i).toNat), false⟩
  | .vfmax d a b m => some ⟨d, m, [a, b], fun xs i => fpOut 32 (minMax .b32 true (ln xs 0 i).toNat (ln xs 1 i).toNat), false⟩
  | .vfabs d a m => some ⟨d, m, [a], fun xs => quiet fun i => signOf (ln xs 0 i) (ln xs 0 i &&& 0x7FFFFFFF), false⟩
  | .vfneg d a m => some ⟨d, m, [a], fun xs => quiet fun i => signOf (ln xs 0 i) (ln xs 0 i ^^^ 0x80000000), false⟩
  | .vfma d a b m => some ⟨d, m, [a, b, d], fun xs i => three32 (fmaFl .b32 s.rm) (ln xs 0 i) (ln xs 1 i) (ln xs 2 i), false⟩
  | .vfms d a b m => some ⟨d, m, [a, b, d], fun xs i => three32 (fun x y z => fmaFl .b32 s.rm x y z.neg) (ln xs 0 i) (ln xs 1 i) (ln xs 2 i), false⟩
  | .vfnma d a b m => some ⟨d, m, [a, b, d], fun xs i => three32 (fun x y z => fmaFl .b32 s.rm x.neg y z) (ln xs 0 i) (ln xs 1 i) (ln xs 2 i), false⟩
  | .vfsqrt d a m => some ⟨d, m, [a], fun xs i => one32 (sqrtFl .b32 s.rm) (ln xs 0 i), false⟩
  | .vfrsq d a m => some ⟨d, m, [a], fun xs i => one32 (rsqrtFl .b32 s.rm) (ln xs 0 i), false⟩
  | .vfrcp d a m => some ⟨d, m, [a], fun xs i => one32 (rcpFl .b32 s.rm) (ln xs 0 i), false⟩
  | .vfex2 d a m => some ⟨d, m, [a], fun xs i => one32 (exp2Fl .b32 s.rm) (ln xs 0 i), false⟩
  | .vflg2 d a m => some ⟨d, m, [a], fun xs i => one32 (log2Fl .b32 s.rm) (ln xs 0 i), false⟩
  | .vadd d a b m => some ⟨d, m, [a, b], fun xs => quiet fun i => ln xs 0 i + ln xs 1 i, false⟩
  | .vsub d a b m => some ⟨d, m, [a, b], fun xs => quiet fun i => ln xs 0 i - ln xs 1 i, false⟩
  | .vmul d a b m => some ⟨d, m, [a, b], fun xs => quiet fun i => ln xs 0 i * ln xs 1 i, false⟩
  | .vmin d a b m => some ⟨d, m, [a, b], fun xs => quiet fun i => if (ln xs 1 i).toInt < (ln xs 0 i).toInt then ln xs 1 i else ln xs 0 i, false⟩
  | .vmax d a b m => some ⟨d, m, [a, b], fun xs => quiet fun i => if (ln xs 0 i).toInt < (ln xs 1 i).toInt then ln xs 1 i else ln xs 0 i, false⟩
  | .vminz d a b m => some ⟨d, m, [a, b], fun xs => quiet fun i => if (ln xs 1 i).toNat < (ln xs 0 i).toNat then ln xs 1 i else ln xs 0 i, false⟩
  | .vmaxz d a b m => some ⟨d, m, [a, b], fun xs => quiet fun i => if (ln xs 0 i).toNat < (ln xs 1 i).toNat then ln xs 1 i else ln xs 0 i, false⟩
  | .vabs d a m => some ⟨d, m, [a], fun xs => quiet fun i => BitVec.ofNat 32 (ln xs 0 i).toInt.natAbs, false⟩
  | .vand d a b m => some ⟨d, m, [a, b], fun xs => quiet fun i => ln xs 0 i &&& ln xs 1 i, false⟩
  | .vor d a b m => some ⟨d, m, [a, b], fun xs => quiet fun i => ln xs 0 i ||| ln xs 1 i, false⟩
  | .vxor d a b m => some ⟨d, m, [a, b], fun xs => quiet fun i => ln xs 0 i ^^^ ln xs 1 i, false⟩
  | .vandn d a b m => some ⟨d, m, [a, b], fun xs => quiet fun i => ln xs 0 i &&& ~~~ln xs 1 i, false⟩
  | .vshl d a b m => some ⟨d, m, [a, b], fun xs => quiet fun i => ln xs 0 i <<< ((ln xs 1 i).toNat % 32), false⟩
  | .vshr d a b m => some ⟨d, m, [a, b], fun xs => quiet fun i => ln xs 0 i >>> ((ln xs 1 i).toNat % 32), false⟩
  | .vsar d a b m => some ⟨d, m, [a, b], fun xs => quiet fun i => (ln xs 0 i).sshiftRight ((ln xs 1 i).toNat % 32), false⟩
  | .vnot d a m => some ⟨d, m, [a], fun xs => quiet fun i => ~~~ln xs 0 i, false⟩
  | .vprm d a b m => some ⟨d, m, [a, b], fun xs => quiet fun i => ln xs 0 ((ln xs 1 i).toNat % 64), false⟩
  | .vzip d a b m => some ⟨d, m, [a, b], fun xs => quiet fun i => if i % 2 = 0 then ln xs 0 (i / 2) else ln xs 1 (i / 2), false⟩
  | .vunz d a b m => some ⟨d, m, [a, b], fun xs => quiet fun i => if i < 32 then ln xs 0 (2 * i) else ln xs 1 (2 * i - 64), false⟩
  | .vsld d a b m =>
    let k := (s.e 0).toNat % 64
    some ⟨d, m, [a, b], fun xs => quiet fun i => if i + k < 64 then ln xs 0 (i + k) else ln xs 1 (i + k - 64), s.eT 0⟩
  | .vexpd d a m => some ⟨d, m, [a], fun xs => quiet fun i => ln xs 0 ((List.range i).countP (active s m)), false⟩
  | .vmov d a m => some ⟨d, m, [a], fun xs => quiet fun i => ln xs 0 i, false⟩
  | .vdec d a k q m =>
    let t := s.slotOf k.toNat
    if t.valid then
      some ⟨d, m, [a], fun xs i =>
        let r := t.decode ((byteLane (xs.getD 0 VReg.zero).bits (64 * q.toNat + i)).toNat % 2 ^ t.width)
        (fl32Pat r.1, if r.2 then FFlags.nv else 0), t.taint⟩
    else none
  | .vb2f d a h m => some ⟨d, m, [a], fun xs i => fpOut 32 (convFl .bf16 .b32 s.rm (hn xs 0 (i + if h then 64 else 0)).toNat), false⟩
  | .vh2f d a h m => some ⟨d, m, [a], fun xs i => fpOut 32 (convFl .b16 .b32 s.rm (hn xs 0 (i + if h then 64 else 0)).toNat), false⟩
  | .vi2f d a m => some ⟨d, m, [a], fun xs i => fpOut 32 (ofIntFl .b32 s.rm (ln xs 0 i).toInt), false⟩
  | .vf2i d a m => some ⟨d, m, [a], fun xs i => fpToInt .b32 s.rm 32 true (ln xs 0 i).toNat, false⟩
  | _ => none

/-- A 16-bit operation of two lanes, and of three. -/
def two16 (f : Fmt) (op : Fl → Fl → Nat × FFlags) (x y : Half) : Half × FFlags := fpOut 16 (op (.ofPat f x.toNat) (.ofPat f y.toNat))
def three16 (f : Fmt) (op : Fl → Fl → Fl → Nat × FFlags) (x y z : Half) : Half × FFlags :=
  fpOut 16 (op (.ofPat f x.toNat) (.ofPat f y.toNat) (.ofPat f z.toNat))

/-- The lanes of each packed 16-bit instruction (R211, R216). -/
def halfForm (s : State) : Instr → Option (LaneForm 16)
  | .vbadd d a b m => some ⟨d, m, [a, b], fun xs j => two16 .bf16 (addFl .bf16 s.rm) (hn xs 0 j) (hn xs 1 j), false⟩
  | .vbmul d a b m => some ⟨d, m, [a, b], fun xs j => two16 .bf16 (mulFl .bf16 s.rm) (hn xs 0 j) (hn xs 1 j), false⟩
  | .vbfma d a b m => some ⟨d, m, [a, b, d], fun xs j => three16 .bf16 (fmaFl .bf16 s.rm) (hn xs 0 j) (hn xs 1 j) (hn xs 2 j), false⟩
  | .vhadd d a b m => some ⟨d, m, [a, b], fun xs j => two16 .b16 (addFl .b16 s.rm) (hn xs 0 j) (hn xs 1 j), false⟩
  | .vhmul d a b m => some ⟨d, m, [a, b], fun xs j => two16 .b16 (mulFl .b16 s.rm) (hn xs 0 j) (hn xs 1 j), false⟩
  | .vhfma d a b m => some ⟨d, m, [a, b, d], fun xs j => three16 .b16 (fmaFl .b16 s.rm) (hn xs 0 j) (hn xs 1 j) (hn xs 2 j), false⟩
  | .vf2b d a b m => some ⟨d, m, [a, b], fun xs j => fpOut 16 (convFl .b32 .bf16 s.rm (if j < 64 then ln xs 0 j else ln xs 1 (j - 64)).toNat), false⟩
  | .vf2h d a b m => some ⟨d, m, [a, b], fun xs j => fpOut 16 (convFl .b32 .b16 s.rm (if j < 64 then ln xs 0 j else ln xs 1 (j - 64)).toNat), false⟩
  | _ => none

/-- The state with a v register written and flags raised. -/
def vWrites (s : State) (d : VIdx) (v : VReg) (f : FFlags) : State :=
  (s.modRegs (fun r => r.wv d v)).modCsr (fun c => { c with fflg := c.fflg ||| f })

/-- What a masked 32-bit instruction writes, and the flags it raises: those of the active lanes together. -/
def laneOk (s : State) (f : LaneForm 32) (xs : List VReg) (v : VReg) : Prop :=
  v.taint = (xs.any (·.taint) || (s.p f.m).taint || f.extra || (f.m != 0 && vt s f.d)) ∧
  ∀ k < 64, lane v.bits k = if active s f.m k then (f.out xs k).1 else vl s f.d k
def laneFlags (s : State) (f : LaneForm 32) (xs : List VReg) : FFlags :=
  orFlags 64 (fun k => if active s f.m k then (f.out xs k).2 else 0)

/-- The same for a packed 16-bit instruction, in which bit i of the mask governs 16-bit lanes 2i and 2i + 1. -/
def halfOk (s : State) (f : LaneForm 16) (xs : List VReg) (v : VReg) : Prop :=
  v.taint = (xs.any (·.taint) || (s.p f.m).taint || f.extra || (f.m != 0 && vt s f.d)) ∧
  ∀ j < 128, lane16 v.bits j = if active s f.m (j / 2) then (f.out xs j).1 else vh s f.d j
def halfFlags (s : State) (f : LaneForm 16) (xs : List VReg) : FFlags :=
  orFlags 128 (fun j => if active s f.m (j / 2) then (f.out xs j).2 else 0)

end Sys2Proof.Claims

/-- R207 to R210, R212, R214, R216: every masked 32-bit vector instruction runs to its end: active lanes take their results, inactive ones
keep what they held; the flags are those of the active lanes together; the taint is the sources' and, under a mask that is not p0, the old
register's too. Where no stream is active that is all; a source on an active read stream takes its next element, and a destination on an
active write stream sends the register there, either of which may stop the instruction with the element's cause. -/
def Sys2Proof.Claims.LaneResults : Prop :=
  ∀ (i : Instr) (s : State) (f : Claims.LaneForm 32), Claims.laneForm s i = some f →
    (Claims.noStreams s → ∃ v : VReg, Claims.laneOk s f (f.src.map s.me.regs.rv) v ∧
      Runs i s ((Claims.vWrites s f.d v (Claims.laneFlags s f (f.src.map s.me.regs.rv))).past 4)) ∧
    (∀ xs u, Claims.readAll s f.src = .ok (xs, u) →
      ∃ v : VReg, Claims.laneOk s f xs v ∧ Claims.written i s u f.d v (Claims.laneFlags s f xs)) ∧
    Claims.readStops i s f.src

/-- R207, R209, R211, R216: the same for the packed 16-bit instructions, in which bit i of the mask governs 16-bit lanes 2i and 2i + 1. -/
def Sys2Proof.Claims.HalfLaneResults : Prop :=
  ∀ (i : Instr) (s : State) (f : Claims.LaneForm 16), Claims.halfForm s i = some f →
    (Claims.noStreams s → ∃ v : VReg, Claims.halfOk s f (f.src.map s.me.regs.rv) v ∧
      Runs i s ((Claims.vWrites s f.d v (Claims.halfFlags s f (f.src.map s.me.regs.rv))).past 4)) ∧
    (∀ xs u, Claims.readAll s f.src = .ok (xs, u) →
      ∃ v : VReg, Claims.halfOk s f xs v ∧ Claims.written i s u f.d v (Claims.halfFlags s f xs)) ∧
    Claims.readStops i s f.src

namespace Sys2Proof.Claims

/-- A node of the reduction tree (R215): neighbours combine, the lower index on the left, six levels over 64 leaves. -/
def node (f : Word → Word → Word × FFlags) (leaf : Nat → Word) : Nat → Nat → Word
  | 0, i => leaf i
  | n + 1, i => (f (node f leaf n (2 * i)) (node f leaf n (2 * i + 1))).1

/-- The flags of every node. -/
def nodeFlags (f : Word → Word → Word × FFlags) (leaf : Nat → Word) : FFlags :=
  orFlags 6 (fun n => orFlags (2 ^ (5 - n)) (fun i => (f (node f leaf n (2 * i)) (node f leaf n (2 * i + 1))).2))

/-- The scan after the steps of distance 1, 2, … below 2^n (R215). -/
def scanned (f : Word → Word → Word × FFlags) (leaf : Nat → Word) : Nat → Nat → Word
  | 0, i => leaf i
  | n + 1, i => if 2 ^ n ≤ i then (f (scanned f leaf n (i - 2 ^ n)) (scanned f leaf n i)).1 else scanned f leaf n i

def scanFlags (f : Word → Word → Word × FFlags) (leaf : Nat → Word) : FFlags :=
  orFlags 6 (fun n => orFlags 64 (fun i => if 2 ^ n ≤ i then (f (scanned f leaf n (i - 2 ^ n)) (scanned f leaf n i)).2 else 0))

/-- The leaf of a reduction: an inactive lane's is +0, or 0. -/
def leafOf (s : State) (m : PIdx) (x : VReg) (i : Nat) : Word := if active s m i then lane x.bits i else 0

/-- An instruction that writes a whole register made of lanes: its sources, and from what they give its lanes and flags. -/
structure WholeForm where
  d : VIdx
  m : PIdx
  src : List VIdx
  out : List VReg → Nat → Word
  flags : List VReg → FFlags

/-- The active lanes of a source, lowest first. -/
def packed (s : State) (m : PIdx) (x : VReg) : List Word := ((List.range 64).filter (active s m)).map (lane x.bits)

/-- The k-th source as read. -/
def nth (xs : List VReg) (k : Nat) : VReg := xs.getD k VReg.zero

/-- The instructions that write their whole register whatever the mask (R214, R215). -/
def wholeForm (s : State) : Instr → Option WholeForm
  | .vsel d a b m => some ⟨d, m, [a, b], fun xs i => if active s m i then ln xs 0 i else ln xs 1 i, fun _ => 0⟩
  | .vcmpr d a m => some ⟨d, m, [a], fun xs i => (packed s m (nth xs 0)).getD i 0, fun _ => 0⟩
  | .vradd d a m =>
    let f := two32 (addFl .b32 s.rm)
    some ⟨d, m, [a], fun xs i => if i = 0 then node f (leafOf s m (nth xs 0)) 6 0 else 0, fun xs => nodeFlags f (leafOf s m (nth xs 0))⟩
  | .vriadd d a m => some ⟨d, m, [a],
      fun xs i => if i = 0 then BitVec.ofNat 32 ((List.range 64).map (fun k => (leafOf s m (nth xs 0) k).toNat)).sum else 0, fun _ => 0⟩
  | .vscan d a m =>
    let f := two32 (addFl .b32 s.rm)
    some ⟨d, m, [a], fun xs => scanned f (leafOf s m (nth xs 0)) 6, fun xs => scanFlags f (leafOf s m (nth xs 0))⟩
  | .viscan d a m => some ⟨d, m, [a],
      fun xs i => BitVec.ofNat 32 ((List.range (i + 1)).map (fun k => (leafOf s m (nth xs 0) k).toNat)).sum, fun _ => 0⟩
  | .vdot d a b m =>
    let prod (xs : List VReg) (i : Nat) : Word × FFlags := if active s m i then two32 (mulFl .b32 s.rm) (ln xs 0 i) (ln xs 1 i) else (0, 0)
    let f := two32 (addFl .b32 s.rm)
    some ⟨d, m, [a, b], fun xs i => if i = 0 then node f (fun k => (prod xs k).1) 6 0 else 0,
      fun xs => nodeFlags f (fun k => (prod xs k).1) ||| orFlags 64 (fun k => (prod xs k).2)⟩
  | _ => none

/-- What such an instruction writes. -/
def wholeOk (s : State) (f : WholeForm) (xs : List VReg) (v : VReg) : Prop :=
  v.taint = (xs.any (·.taint) || (s.p f.m).taint) ∧ ∀ k < 64, lane v.bits k = f.out xs k

/-- The order of two binary32 numbers that are no NaN, −0 below +0 (R215). -/
def below (x y : Word) : Prop :=
  if x.msb then (if y.msb then y.toNat < x.toNat else True) else (if y.msb then False else x.toNat < y.toNat)

/-- The greatest active lane of a register that is no NaN, or the least, or the canonical NaN if there is none (R215). -/
def extremumOk (s : State) (m : PIdx) (x : VReg) (max : Bool) (w : Word) : Prop :=
  let lanes := packed s m x
  let nan (w : Word) : Prop := isNan .b32 w.toNat = true
  ((∀ w ∈ lanes, nan w) → w = 0x7FC00000) ∧
  ((∃ w ∈ lanes, ¬ nan w) → w ∈ lanes ∧ ¬ nan w ∧ ∀ y ∈ lanes, nan y ∨ ¬ if max then below w y else below y w)

/-- The signalling NaNs among the active lanes. -/
def signalling (s : State) (m : PIdx) (x : VReg) : FFlags :=
  orFlags 64 (fun k => if active s m k then (Fl.ofPat .b32 (lane x.bits k).toNat).snanFlag else 0)

/-- A lane comparison's predicate and flags. -/
def cmpOk (s : State) (m : PIdx) (f : Word → Word → Bool × FFlags) (xs : List VReg) (q : Dword) (fl : FFlags) : Prop :=
  fl = orFlags 64 (fun k => if active s m k then (f (ln xs 0 k) (ln xs 1 k)).2 else 0) ∧
  ∀ k < 64, q.getLsbD k = (active s m k && (f (ln xs 0 k) (ln xs 1 k)).1)

/-- What VENC writes from a lane's source: the active bytes of its quarter (R216). -/
def encOk (s : State) (m : PIdx) (t : TableSlot) (h : BitVec 2) (d : VIdx) (x v : VReg) : Prop :=
  v.taint = (vt s d || x.taint || (s.p m).taint || t.taint) ∧
  ∀ j < 256, byteLane v.bits j = if j / 64 = h.toNat ∧ active s m (j % 64) = true then BitVec.ofNat 8 (t.encode (lane x.bits (j % 64))).1
    else byteLane (s.me.regs.rv d).bits j

end Sys2Proof.Claims

/-- R209, R214, R215: VSEL, VCMPR, the sums, scans and the dot product run to their end and write their whole register: the tree's root in
lane 0 and zero above, or every lane of the scan; the flags are those of every addition made. On streams as LaneResults says. -/
def Sys2Proof.Claims.WholeRegisterResults : Prop :=
  ∀ (i : Instr) (s : State) (f : Claims.WholeForm), Claims.wholeForm s i = some f →
    (Claims.noStreams s → ∃ v : VReg, Claims.wholeOk s f (f.src.map s.me.regs.rv) v ∧
      Runs i s ((Claims.vWrites s f.d v (f.flags (f.src.map s.me.regs.rv))).past 4)) ∧
    (∀ xs u, Claims.readAll s f.src = .ok (xs, u) → ∃ v : VReg, Claims.wholeOk s f xs v ∧ Claims.written i s u f.d v (f.flags xs)) ∧
    Claims.readStops i s f.src

/-- R209, R213, R215, R216: VRMAX and VRMIN give the greatest and the least active lane that is no NaN, +0 above −0, and the canonical NaN if
there is none; VFCMP and VICMP write 1 for the active lanes whose condition holds and 0 elsewhere; VENC writes the active bytes of its
quarter and raises what the encodings raise; with an invalid slot VENC and VDEC are cause 0x0D. On streams as LaneResults says. -/
def Sys2Proof.Claims.ExtremumCompareEncode : Prop :=
  ∀ (s : State) (d a b : VIdx) (m p c : PIdx),
    (Claims.noStreams s →
      let x := s.me.regs.rv a
      let tn := x.taint || Claims.vt s b || (s.p m).taint
      (∃ w, Claims.extremumOk s m x true w ∧
        Runs (.vrmax d a m) s ((Claims.vWrites s d ⟨w.setWidth 2048, x.taint || (s.p m).taint⟩ (Claims.signalling s m x)).past 4)) ∧
      (∃ w, Claims.extremumOk s m x false w ∧
        Runs (.vrmin d a m) s ((Claims.vWrites s d ⟨w.setWidth 2048, x.taint || (s.p m).taint⟩ (Claims.signalling s m x)).past 4)) ∧
      (∃ q f, Claims.cmpOk s m (fun x y => fcmpCode .b32 c x.toNat y.toNat) [x, s.me.regs.rv b] q f ∧
        Runs (.vfcmp p a b m c) s (((s.setP p q tn).modCsr (fun k => { k with fflg := k.fflg ||| f })).past 4)) ∧
      (∃ q f, Claims.cmpOk s m (fun x y => (Claims.holds c x y, 0)) [x, s.me.regs.rv b] q f ∧ Runs (.vicmp p a b m c) s ((s.setP p q tn).past 4)) ∧
      (∀ h : BitVec 2, let t := s.slotOf 2
        t.valid = true → ∃ v, Claims.encOk s m t h d x v ∧ Runs (.venc d a h m) s ((Claims.vWrites s d v
          (Claims.orFlags 64 (fun k => if Claims.active s m k then (t.encode (lane x.bits k)).2 else 0))).past 4))) ∧
    (∀ x u, s.readV a = .ok (x, u) →
      (∃ w, Claims.extremumOk s m x true w ∧
        Claims.written (.vrmax d a m) s u d ⟨w.setWidth 2048, x.taint || (s.p m).taint⟩ (Claims.signalling s m x)) ∧
      (∃ w, Claims.extremumOk s m x false w ∧
        Claims.written (.vrmin d a m) s u d ⟨w.setWidth 2048, x.taint || (s.p m).taint⟩ (Claims.signalling s m x)) ∧
      (∀ h : BitVec 2, let t := s.slotOf 2
        t.valid = true → ∃ v, Claims.encOk s m t h d x v ∧
          Claims.written (.venc d a h m) s u d v (Claims.orFlags 64 (fun k => if Claims.active s m k then (t.encode (lane x.bits k)).2 else 0)))) ∧
    (∀ xs u, Claims.readAll s [a, b] = .ok (xs, u) →
      let tn := xs.any (·.taint) || (s.p m).taint
      (∃ q f, Claims.cmpOk s m (fun x y => fcmpCode .b32 c x.toNat y.toNat) xs q f ∧
        Runs (.vfcmp p a b m c) s (((u.setP p q tn).modCsr (fun k => { k with fflg := k.fflg ||| f })).past 4)) ∧
      (∃ q f, Claims.cmpOk s m (fun x y => (Claims.holds c x y, 0)) xs q f ∧ Runs (.vicmp p a b m c) s ((u.setP p q tn).past 4))) ∧
    Claims.readStops (.vrmax d a m) s [a] ∧ Claims.readStops (.vrmin d a m) s [a] ∧
    Claims.readStops (.vfcmp p a b m c) s [a, b] ∧ Claims.readStops (.vicmp p a b m c) s [a, b] ∧
    (∀ h : BitVec 2, ((s.slotOf 2).valid = true → Claims.readStops (.venc d a h m) s [a]) ∧
      ((s.slotOf 2).valid = false → Traps (.venc d a h m) s 0x0D 2 0)) ∧
    (∀ k q : BitVec 2, (s.slotOf k.toNat).valid = false → Traps (.vdec d a k q m) s 0x0D (k.setWidth 64) 0)

namespace Sys2Proof.Claims

/-- A vector load or store (R217): the v register, the v registers it reads in order, the capability, the exact address of element i from
what they give, whether its 256 bytes are checked as one, and the taint of what makes the addresses. -/
structure VMemForm where
  v : VIdx
  src : List VIdx
  c : Cap
  addr : List VReg → Nat → Int
  whole : Bool
  taint : List VReg → Bool

def vloadForm (s : State) : Instr → Option VMemForm
  | .vld d a b => some ⟨d, [], s.cap a, fun _ i => (s.cap a).addr.toNat + (s.x b).toNat + 4 * i, true, fun _ => s.t2 a b⟩
  | .vlds d a b => some ⟨d, [], s.cap a, fun _ i => (s.cap a).addr.toNat + i * (s.x b).toInt, false, fun _ => s.t2 a b⟩
  | .vldx d a b => some ⟨d, [b], s.cap a, fun xs i => (s.cap a).addr.toNat + 4 * (ln xs 0 i).toNat, false,
      fun xs => (s.g a).taint || (nth xs 0).taint⟩
  | .vldb d a b => some ⟨d, [], s.cap a, fun _ _ => (s.cap a).addr.toNat + (s.x b).toNat, false, fun _ => s.t2 a b⟩
  | _ => none

/-- The register stored is the last one read. -/
def vstoreForm (s : State) : Instr → Option VMemForm
  | .vst d a b => some ⟨d, [d], s.cap a, fun _ i => (s.cap a).addr.toNat + (s.x b).toNat + 4 * i, true, fun xs => (nth xs 0).taint⟩
  | .vsts d a b => some ⟨d, [d], s.cap a, fun _ i => (s.cap a).addr.toNat + i * (s.x b).toInt, false, fun xs => (nth xs 0).taint⟩
  | .vstx d a b => some ⟨d, [b, d], s.cap a, fun xs i => (s.cap a).addr.toNat + 4 * (ln xs 0 i).toNat, false, fun xs => (nth xs 1).taint⟩
  | _ => none

/-- The mask of a vector load or store: p[e3[2:0]] (R217). -/
def memMaskOf (s : State) : PIdx := (s.e 3).setWidth 3

/-- The active elements, lowest first. -/
def elements (s : State) : List Nat := (List.range 64).filter (active s (memMaskOf s))

/-- The one check of VLD and VST passes, or the instruction makes none (R217). -/
def wholeOk1 (need : Need) (f : VMemForm) (xs : List VReg) : Prop :=
  f.whole = true → ∃ va, capCheckAt f.c [0] need (f.addr xs 0) 256 4 = .ok va

/-- The load in flight: the lanes it owes, each active element's word, and its place in the strand's order. -/
def owes (s s2 : State) (f : VMemForm) (ws : List (Nat × Word)) (t : Bool) (v : VLoad) : Prop :=
  v.vd = f.v ∧ v.lanes = (s.p (memMaskOf s)).bits ∧ v.whole = (memMaskOf s == 0) ∧ v.taint = t ∧ v.order = s2.serial ∧
  ∀ k w, (k, w) ∈ ws → lane v.bits k = w

end Sys2Proof.Claims

/-- R217, R218, R198: a vector load whose active elements pass every check and can be read runs: L rises, no lane is written yet, and the
load in flight holds each active element's word and owes exactly the active lanes; with no lane active the register takes the load's taint
at once. Into an active write stream its register is sent at once and nothing is owed. With L at 255 it stalls; a check or a read that fails
traps, nothing read. That every element is read at issue is the model's reading (log entry 71). -/
def Sys2Proof.Claims.VectorLoadResults : Prop :=
  (∀ (i : Instr) (s : State) (f : Claims.VMemForm), Claims.vloadForm s i = some f → Claims.readStops i s f.src) ∧
  ∀ (i : Instr) (s u : State) (f : Claims.VMemForm) (xs : List VReg), Claims.vloadForm s i = some f → Claims.readAll s f.src = .ok (xs, u) →
    let act := Claims.elements s
    (Claims.wholeOk1 { r := true } f xs → ∀ pl s1, placeLanes .load { r := true } f.whole f.c (f.addr xs) act false u = .ok (pl, s1) →
      (∀ ws tn s2, gatherLanes pl s1 = .ok (ws, tn, s2) →
        let t := tn || f.taint xs || (s.p (Claims.memMaskOf s)).taint || s.eT 3
        let risen : State := { s2.modCtr (fun c => { c with l := c.l + 1 }) with serial := s2.serial + 1 }
        (s2.me.ctr.l < 255 → (∀ w, s2.stream? f.v = some w → w.write = false) → ∃ v : VLoad, Claims.owes s s2 f ws t v ∧
          Runs i s (((if v.lanes = 0 then risen.taintV f.v t else risen).modMe (fun m => { m with vloads := m.vloads ++ [v] })).past 4)) ∧
        (s2.me.ctr.l < 255 → ∀ w, s2.stream? f.v = some w → w.write = true → ∃ v : VLoad, Claims.owes s s2 f ws t v ∧
          ∀ sent, risen.writeLanes f.v (Claims.memMaskOf s) (lanes v.bits) t = .ok sent →
            Runs i s ((sent.modMe (fun m => { m with vloads := m.vloads ++ [⟨f.v, 0, 0, false, false, s2.serial⟩] })).past 4)) ∧
        (255 ≤ s2.me.ctr.l → Stalls i s)) ∧
      (∀ c v x, gatherLanes pl s1 = .error (.trap c v x) → Traps i s c v x)) ∧
    (Claims.wholeOk1 { r := true } f xs → ∀ c v x,
      placeLanes .load { r := true } f.whole f.c (f.addr xs) act false u = .error (.trap c v x) → Traps i s c v x) ∧
    (f.whole = true → ∀ c v x, wholeCheck { r := true } f.c (f.addr xs) act = .error (.trap c v x) → Traps i s c v x)

/-- R217, R218, R198: a vector store runs once every active element has passed every check, the determinism guard among them: its words go
to memory in lane order, neighbours within a line as one store, and S rises; with S at 255 it stalls; a check that fails traps with nothing
stored. The register stored, and VSTX's indices, may come from active read streams. That neighbours are one store is the model's reading
(log entry 32). -/
def Sys2Proof.Claims.VectorStoreResults : Prop :=
  (∀ (i : Instr) (s : State) (f : Claims.VMemForm), Claims.vstoreForm s i = some f → Claims.readStops i s f.src) ∧
  ∀ (i : Instr) (s u : State) (f : Claims.VMemForm) (xs : List VReg), Claims.vstoreForm s i = some f → Claims.readAll s f.src = .ok (xs, u) →
    let tn := f.taint xs
    let data (k : Nat) : Word := Claims.ln xs (f.src.length - 1) k
    (Claims.wholeOk1 { w := true } f xs → ∀ pl s1,
      placeLanes .store { w := true } f.whole f.c (f.addr xs) (Claims.elements s) tn u = .ok (pl, s1) →
      let stored := (scatterRuns (pl.map (fun p => (p.2.2, toBytes 4 (data p.1).toNat))) none).foldl (fun s r =>
        ((s.settleOver r.1.loc r.2.length).writeLoc s.ctx r.1.loc r.2 tn).noteLost r.1.loc tn) (s1.modCtr (fun c => { c with s := c.s + 1 }))
      (s1.me.ctr.s < 255 → Runs i s (stored.past 4)) ∧ (255 ≤ s1.me.ctr.s → Stalls i s)) ∧
    (Claims.wholeOk1 { w := true } f xs → ∀ c v x,
      placeLanes .store { w := true } f.whole f.c (f.addr xs) (Claims.elements s) tn u = .error (.trap c v x) → Traps i s c v x) ∧
    (f.whole = true → ∀ c v x, wholeCheck { w := true } f.c (f.addr xs) (Claims.elements s) = .error (.trap c v x) → Traps i s c v x)

/-- R198, R208, R218, R374: VECTOR_LOAD_COMPLETE writes some of the lanes that a load in flight still owes and no other lane, ORs the load's
taint in unless a load under p0 is whole, and lowers L by one when no lane is left and no older load or state instruction of the strand is
pending; till then the load stays. -/
def Sys2Proof.Claims.VectorLoadLands : Prop :=
  ∀ (s : State) (slot index : Nat) (now : Dword) (v : VLoad), (s.strand slot).vloads[index]? = some v →
    let old := (s.strand slot).regs.rv v.vd
    let left := v.lanes &&& ~~~now
    let some' := v.lanes &&& now
    let oldest := (∀ q ∈ (s.strand slot).vloads, v.order ≤ q.order) ∧ ∀ q ∈ (s.strand slot).vstates, v.order ≤ q.order
    ∃ t, exec (.vectorLoadComplete slot index now) s = .next t ∧
      let r := (t.strand slot).regs.rv v.vd
      (some' ≠ 0 → ∀ k < 64, lane r.bits k = if some'.getLsbD k then lane v.bits k else lane old.bits k) ∧
      (some' ≠ 0 → r.taint = if v.whole && left == 0 then v.taint else old.taint || v.taint) ∧
      (∀ d, d ≠ v.vd ∨ some' = 0 → (t.strand slot).regs.rv d = (s.strand slot).regs.rv d) ∧
      (left = 0 → oldest → (t.strand slot).ctr.l = (s.strand slot).ctr.l - 1) ∧
      (¬ (left = 0 ∧ oldest) → (t.strand slot).ctr.l = (s.strand slot).ctr.l ∧
        (t.strand slot).vloads = listSet (s.strand slot).vloads index { v with lanes := left }) ∧ t.mem = s.mem

/-! ## The matrix array, accumulators and decode tables -/

namespace Sys2Proof.Claims

/-- The last entry of the core's dispatch queue. -/
def lastCmd (t : State) : Option Cmd := (t.core t.myCore).queue.getLast?

/-- Room for one more command of the wide engine (R44, R198). -/
def wideRoom (s : State) : Prop := s.me.ctr.t < 255 ∧ (s.core s.myCore).queue.length < 8

/-- A tile that an instruction may name at once: free, or the strand's own (R219). -/
def mayName (s : State) (n : BitVec 2) : Prop := (s.tile s.myCore n.toNat).owner = none ∨ (s.tile s.myCore n.toNat).owner = some s.me?

/-- Shape fields: M and N from 1 to 128 (R224, R231). -/
def regionOk (s : State) : Prop :=
  1 ≤ (s.e 0).toNat % 256 ∧ (s.e 0).toNat % 256 ≤ 128 ∧ 1 ≤ (s.e 0).toNat / 256 % 256 ∧ (s.e 0).toNat / 256 % 256 ≤ 128

/-- The exact addresses of a region's elements, row by row (R231). -/
def regionOf (s : State) (a b : GIdx) (size : Nat) : List Int :=
  (tabulate ((s.e 0).toNat % 256) (fun i => tabulate ((s.e 0).toNat / 256 % 256) (fun j =>
    ((s.cap a).addr.toNat : Int) + (i : Int) * ((s.x b).setWidth 32).toInt + ((j * size : Nat) : Int)))).flatten

/-- An accumulator operation on a region: the tile, the operands, its kind, its element size, whether it stores. -/
def regionForm : Instr → Option (BitVec 2 × GIdx × GIdx × AccKind × Nat × Bool)
  | .tst n a b => some (n, a, b, .store32, 4, true)
  | .tstBf n a b => some (n, a, b, .storeBf, 2, true)
  | .tstCd n a b => some (n, a, b, .storeCode, 1, true)
  | .tld n a b => some (n, a, b, .load32, 4, false)
  | .tldBf n a b => some (n, a, b, .loadBf, 2, false)
  | .tadd n a b => some (n, a, b, .add, 4, false)
  | _ => none

/-- The state once a tile is named: the strand's, anew where it was free or given up (R219). -/
def named (s : State) (n : BitVec 2) : State :=
  if (s.tile s.myCore n.toNat).owner = none ∨ (s.tile s.myCore n.toNat).leave = true then
    s.modTile s.myCore n.toNat (fun t => { t with owner := some s.me?, due := false, leave := false })
  else s

/-- The strand holds a tile and has not given it up. -/
def holdsTile (s : State) (core : Nat) (o : Owner) (n : BitVec 2) : Prop :=
  (s.tile core n.toNat).owner = some o ∧ (s.tile core n.toNat).leave = false

/-- What R224 and R225 ask of TMMA's shape, offset and scale mode. -/
def tmmaOk (s : State) : Prop := regionOk s ∧ 0 < (s.e 0).toNat / 65536 ∧ (s.e 1).toNat < 2048 ∧ s.me.csr.sclm ≠ 3

/-- The operand and taint of a TMMA as it is sampled (R225). -/
def tmmaSample (s : State) (n : BitVec 2) (z h c : Bool) (a b : GIdx) : Res (TmmaSample × State) :=
  s.sampleTmma n.toNat z h c a b (s.e 0) (s.e 1) (s.t2 a b || s.eT 0 || s.eT 1)

end Sys2Proof.Claims

/-- R219, R224, R225, R228: TMMA with its sampled operands in order and its buffers good runs: the strand's earlier reductions and stores
come first, T rises, and the last entry of the core's queue is the multiplication of what was sampled, numbered by the core's TMMA count. A
bad shape, offset or scale mode is cause 0x01 and a bad buffer its own cause; a tile or a shadow of another strand makes it wait, and a full
counter or queue stalls it. That the pages it reads are made resident at issue is the model's choice (log entry 38). -/
def Sys2Proof.Claims.TmmaIssue : Prop :=
  ∀ (s : State) (n : BitVec 2) (z h c : Bool) (a b : GIdx),
    (∀ x s1, Claims.tmmaSample s n z h c a b = .ok (x, s1) →
      (∀ t s2, (s1.settleReds (fun _ => true)).buildTmma x = .ok (t, s2) →
        (Claims.wideRoom s → ∃ u y, Runs (.tmma n z h c a b) s u ∧ Claims.lastCmd u = some (.tmma y) ∧ y.x = t.x ∧ y.a = t.a ∧ y.b = t.b ∧
          y.next = 0 ∧ y.opid = ((s.core s.myCore).tmmaCount + 1).toNat ∧ (u.core s.myCore).tmmaCount = (s.core s.myCore).tmmaCount + 1 ∧
          u.me.ctr.t = s.me.ctr.t + 1 ∧ Claims.holdsTile u s.myCore s.me? n) ∧
        (¬ Claims.wideRoom s → Stalls (.tmma n z h c a b) s)) ∧
      (∀ c' v e, (s1.settleReds (fun _ => true)).buildTmma x = .error (.trap c' v e) → Traps (.tmma n z h c a b) s c' v e)) ∧
    (¬ Claims.tmmaOk s → Traps (.tmma n z h c a b) s 0x01 (s.word.setWidth 64) 0) ∧
    (Claims.tmmaOk s → h = false → ¬ Claims.mayName s n → Waits (.tmma n z h c a b) s (.tile n.toNat)) ∧
    (Claims.tmmaOk s → h = true → ∀ o, (s.core s.myCore).shadow.owner = some o → o ≠ s.me? → Waits (.tmma n z h c a b) s .shadow)

/-- R219, R231: TZERO and TZERO.R on a tile that may be named, with room, run: T rises, the operation is the last of the core's queue; after
TZERO the strand holds the tile, after TZERO.R it has given it up, and a shadow bound to it. Another strand's tile is waited for. -/
def Sys2Proof.Claims.TileZeroResults : Prop :=
  ∀ (s : State) (n : BitVec 2),
    (Claims.mayName s n → Claims.wideRoom s →
      (∃ t o, Runs (.tzero n) s t ∧ Claims.lastCmd t = some (.acc o) ∧ o.kind = .zero ∧ o.acc = n.toNat ∧ o.owner = s.me? ∧
        t.me.ctr.t = s.me.ctr.t + 1 ∧ Claims.holdsTile t s.myCore s.me? n ∧ t.me.regs = s.me.regs ∧ t.mem = s.mem) ∧
      (∃ t o, Runs (.tzeroR n) s t ∧ Claims.lastCmd t = some (.acc o) ∧ o.kind = .release ∧ o.acc = n.toNat ∧ o.owner = s.me? ∧
        t.me.ctr.t = s.me.ctr.t + 1 ∧ (t.tile s.myCore n.toNat).leave = true ∧ t.holdsShadow n.toNat = false ∧ t.me.regs = s.me.regs ∧ t.mem = s.mem)) ∧
    (¬ Claims.mayName s n → Waits (.tzero n) s (.tile n.toNat) ∧ Waits (.tzeroR n) s (.tile n.toNat)) ∧
    (Claims.mayName s n → ¬ Claims.wideRoom s → Stalls (.tzero n) s ∧ Stalls (.tzeroR n) s)

/-- R231: a load, store or addition between a tile and a region of memory whose shape is legal, whose elements all pass their checks and
whose tile may be named runs, with room: T rises and the last of the core's queue is the operation, with the tile, the shape and the places
of the elements, row by row. A bad shape is cause 0x01; TST.CD needs slot 2 valid, else cause 0x0D; an element that fails its checks traps;
another strand's tile is waited for; a full counter or queue stalls it, and so does, for a store under DMODE, a copy that still carries a
multiplication on the tile (log entry 117). -/
def Sys2Proof.Claims.TileRegionResults : Prop :=
  ∀ (i : Instr) (s : State) (n : BitVec 2) (a b : GIdx) (k : AccKind) (size : Nat) (st : Bool), Claims.regionForm i = some (n, a, b, k, size, st) →
    let s1 := Claims.named s n
    let tn := s1.tileTaint n.toNat || (k == .storeCode && (s.slotOf 2).taint)
    let placed := if st then placeElems .store { w := true } (s.cap a) size tn (Claims.regionOf s a b size) s1
      else placeElems .load { r := true } (s.cap a) size false (Claims.regionOf s a b size) (s1.settleReds (fun _ => true))
    (¬ Claims.regionOk s → Traps i s 0x01 (s.word.setWidth 64) 0) ∧
    (Claims.regionOk s → k = .storeCode → (s.slotOf 2).valid = false → Traps i s 0x0D 2 0) ∧
    (Claims.regionOk s → (k = .storeCode → (s.slotOf 2).valid = true) →
      (¬ Claims.mayName s n → Waits i s (.tile n.toNat)) ∧
      (Claims.mayName s n → st = true → s.carriedStall n.toNat = true → Stalls i s) ∧
      (Claims.mayName s n → (st = true → s.carriedStall n.toNat = false) →
        (∀ c v e, placed = .error (.trap c v e) → Traps i s c v e) ∧
        (∀ locs s2, placed = .ok (locs, s2) →
          (¬ Claims.wideRoom s → Stalls i s) ∧
          (Claims.wideRoom s → ∃ t o, Runs i s t ∧ Claims.lastCmd t = some (.acc o) ∧ o.kind = k ∧ o.acc = n.toNat ∧ o.owner = s.me? ∧
            o.places = locs.map (·.1) ∧ o.m = (s.e 0).toNat % 256 ∧ o.n = (s.e 0).toNat / 256 % 256 ∧ t.me.ctr.t = s.me.ctr.t + 1 ∧
            Claims.holdsTile t s.myCore s.me? n ∧ t.me.regs = s.me.regs))))

/-- R232: TCVT under a legal shape and FMTE layout, with slot 2 valid, runs in the same way: its places are the buffer's words in order. A
bad shape or layout is cause 0x01. -/
def Sys2Proof.Claims.TileConvertResults : Prop :=
  ∀ (s : State) (n : BitVec 2) (a : GIdx),
    let f := s.me.csr.fmte
    let m := (s.e 0).toNat % 256
    let k := (s.e 0).toNat / 256 % 256
    let layout := f.toNat % 4
    let rows := if layout = 2 then k else m
    let kext := if layout = 2 then m else k
    let swz := f.toNat / 2 ^ 40 % 256
    let s1 := Claims.named s n
    let legal := Claims.regionOk s ∧ (layout = 1 ∨ layout = 2) ∧ (swz = 0 ∨ swz = 1 ∧ rows % 32 = 0)
    (¬ legal → Traps (.tcvt n a) s 0x01 (s.word.setWidth 64) 0) ∧
    (legal → (s.slotOf 2).valid = false → Traps (.tcvt n a) s 0x0D 2 0) ∧
    (legal → (s.slotOf 2).valid = true →
      (¬ Claims.mayName s n → Waits (.tcvt n a) s (.tile n.toNat)) ∧
      (Claims.mayName s n → s.carriedStall n.toNat = true → Stalls (.tcvt n a) s) ∧
      (Claims.mayName s n → s.carriedStall n.toNat = false → ∀ va locs s2,
        capCheckAt (s.cap a) [0] { w := true } (s.cap a).addr.toNat 64 64 = .ok va →
        placeElems .store { w := true } (s.cap a) 4 (s1.tileTaint n.toNat || (s.slotOf 2).taint)
          (tabulate (bufferSize kext (s.slotOf 2).width rows / 4) (fun i => (s.cap a).plus ((4 * i : Nat) : Int))) s1 = .ok (locs, s2) →
        (¬ Claims.wideRoom s → Stalls (.tcvt n a) s) ∧
        (Claims.wideRoom s → ∃ t o, Runs (.tcvt n a) s t ∧ Claims.lastCmd t = some (.acc o) ∧ o.kind = .convert ∧ o.acc = n.toNat ∧
          o.places = locs.map (·.1) ∧ o.m = m ∧ o.n = k ∧ o.fmte = f ∧ o.slot = some (s.slotOf 2) ∧ t.me.ctr.t = s.me.ctr.t + 1 ∧
          Claims.holdsTile t s.myCore s.me? n ∧ t.me.regs = s.me.regs)))

/-- R41, R231, R234: TCMT and TDSC with the strand's shadow bound to the tile run: the operation is pushed, T rises, the shadow is given up
and p7 is zero; without one p7 is all ones and nothing else happens. TBINF gives a slot's fields; TBLD takes 1,088 bytes as a table and says
in p7 whether it is valid; TBST stores a slot's image. -/
def Sys2Proof.Claims.ShadowAndTableResults : Prop :=
  ∀ (s : State),
    (∀ n, s.holdsShadow n.toNat = true → Claims.wideRoom s →
      (∃ t o, Runs (.tcmt n) s t ∧ Claims.lastCmd t = some (.acc o) ∧ o.kind = .commit ∧ o.acc = n.toNat ∧ t.p 7 = ⟨0, false⟩ ∧
        t.me.ctr.t = s.me.ctr.t + 1 ∧ t.holdsAny = false) ∧
      (∃ t o, Runs (.tdsc n) s t ∧ Claims.lastCmd t = some (.acc o) ∧ o.kind = .discard ∧ o.acc = n.toNat ∧ t.p 7 = ⟨0, false⟩ ∧
        t.me.ctr.t = s.me.ctr.t + 1 ∧ t.holdsAny = false)) ∧
    (∀ n, s.holdsShadow n.toNat = true → ¬ Claims.wideRoom s → Stalls (.tcmt n) s ∧ Stalls (.tdsc n) s) ∧
    (∀ n, s.holdsShadow n.toNat = false → Runs (.tcmt n) s ((s.setP 7 (BitVec.allOnes 64) false).past 4) ∧
      Runs (.tdsc n) s ((s.setP 7 (BitVec.allOnes 64) false).past 4)) ∧
    (∀ (d : GIdx) (k : BitVec 2), let t := s.slotOf k.toNat
      Runs (.tbinf d k) s ((s.setG d ⟨((0#8 ++ t.header.extractLsb' 16 8 ++ 0#7 ++ BitVec.ofBool t.valid ++ t.header.extractLsb' 40 4 ++
        t.header.extractLsb' 0 4 ++ t.header.extractLsb' 64 32 : Dword)).setWidth 128, false, t.taint⟩).past 4)) ∧
    (∀ (k : BitVec 2) (a : GIdx) va bs tn s1, capCheckAt (s.cap a) [0] { r := true } (s.cap a).addr.toNat 1088 64 = .ok va →
      s.readThrough va 1088 = .ok (bs, tn, s1) → ∃ t, Runs (.tbld k a) s t ∧
        (∀ i, i < 40 ∨ 44 ≤ i → (t.slotOf k.toNat).header.getLsbD i = (BitVec.ofNat 512 (ofBytes (bs.take 64))).getLsbD i) ∧ (t.slotOf k.toNat).taint = tn ∧
        t.p 7 = ⟨Claims.all64 (!(t.slotOf k.toNat).valid), (s.g a).taint || tn⟩ ∧ t.mem = s1.mem) ∧
    (∀ (k : BitVec 2) (a : GIdx) va pl s1, let t := s.slotOf k.toNat
      capCheckAt (s.cap a) [0] { w := true } (s.cap a).addr.toNat 1088 64 = .ok va →
      (piecesOf va 1088).foldlM (fun (acc : List (Trans × Dword × List Byte) × State) p => do
        let (tr, s1) ← acc.2.translate s.ctx .store false p.1
        s1.guardTaint tr.pte t.taint p.1
        return (acc.1 ++ [(tr, p.1, (t.image.drop p.2.1).take p.2.2)], s1)) ([], s) = .ok (pl, s1) →
      Runs (.tbst k a) s (((pl.foldl (fun (s : State) p =>
        ((s.settleOver p.1.loc p.2.2.length).writeLoc s.ctx p.1.loc p.2.2 t.taint).noteLost p.1.loc t.taint) s1).setP 7 (Claims.all64 (!t.valid))
          ((s.g a).taint || t.taint)).past 4))

namespace Sys2Proof.Claims

/-- A unit of the quad may serve a core next: its rotation among the queues has come to it (R44). -/
def turnOf (s : State) (u : QuadUnit) (waits : Nat → Bool) (core : Nat) : Prop :=
  ∀ y, y / 4 = core / 4 → y ≠ core → waits y = true → (u, y) ∉ (s.core core).passed

/-- A command that the wide engine has in hand for a core, whose turn it is: its owner may run, no copy carries an earlier TMMA of the
owner, and the rotation has come to the core (R44, R228, R374). -/
def heads (s : State) (core : Nat) (c : Cmd) (rest : List Cmd) (order : Nat) : Prop :=
  (s.core core).wide = c :: rest ∧ s.mayRun c.owner = true ∧ s.carriedFirst c.owner order = false ∧ turnOf s .wide s.wideWaits core

/-- The engine that takes a command of a core's queue has its turn for that core (R44). -/
def engineFree (s : State) (core : Nat) : Cmd → Prop
  | .copy _ | .gather _ => turnOf s .copy s.copyWaits core
  | .spring _ _ => turnOf s .spring s.springWaits core
  | .vector _ => (s.core core).wide = [] ∧ turnOf s .wide s.wideWaits core
  | .tmma _ | .acc _ => (s.core core).wide = []

/-- What a TMMA's first block starts from (R219, R226): the tile, zero where this command allocated it, or the shadow, which a binding command
fills from the tile; Z clears the first M rows and N columns. A later block starts from what the target holds. -/
def startOf (s : State) (core : Nat) (t : Tmma) (i j : Nat) : Word :=
  let tileE := if t.x.fresh then 0 else tileGet (s.tile core t.x.acc).data i j
  if 0 < t.next then tileGet (s.target t.x).1 i j
  else if t.x.zero = true ∧ i < t.x.m ∧ j < t.x.n then 0
  else if t.x.shadow = true ∧ t.x.bind = false then tileGet (s.core core).shadow.data i j else tileE

/-- Nothing of the owner is left on a tile it has given up, once the head of the wide engine's line is done (R219). -/
def lastOn (s : State) (core : Nat) (o : Owner) (acc : Nat) (rest : List Cmd) : Prop :=
  (s.tile core acc).leave = true ∧ (s.tile core acc).owner = some o ∧
  (s.modCore core (fun k => { k with wide := rest })).pending core (Cmd.onTile o acc) = false

end Sys2Proof.Claims

/-- R44, R219, R231: ENGINE_TAKE moves the oldest command of a core's queue to its engine once that one's rotation among the quad's queues has
come to the core; a vector instruction's turn ends with it (log entry 125). ACCUM_OP_COMPLETE at its turn takes the operation off the wide
engine's line and lowers T by one; TZERO leaves every element +0, TCMT gives the tile the shadow's elements, and TDSC and TCMT
empty the shadow. A tile its holder has given up is free once the last of the holder's commands on it is done. -/
def Sys2Proof.Claims.AccumulatorEffects : Prop :=
  (∀ (s : State) (core : Nat) (c : Cmd) (rest : List Cmd), (s.core core).queue = c :: rest → s.mayRun c.owner = true →
    Claims.engineFree s core c → (∀ g, c ≠ .gather g) → ∃ t, exec (.engineTake core) s = .next t ∧ (t.core core).queue = rest ∧
      (match c with
        | .vector _ => (t.core core).wide = [] ∧ (t.core core).copies = (s.core core).copies
        | .copy x => (t.core core).copies = (s.core core).copies ++ [x] ∧ (t.core core).wide = (s.core core).wide
        | .spring o n => (t.core core).copies = (s.core core).copies ∧ (t.core core).wide = (s.core core).wide ∧
          (s.alive o = true → ∀ v ∈ (t.strand o.slot).vstates, v.order = n → v.taken = true)
        | _ => (t.core core).wide = (s.core core).wide ++ [c] ∧ (t.core core).copies = (s.core core).copies)) ∧
  (∀ (s : State) (core : Nat) (o : AccOp) (rest : List Cmd), Claims.heads s core (.acc o) rest o.order →
    coreOfSlot o.owner.slot = core → o.acc < 4 → ∃ t, exec (.accumOpComplete core) s = .next t ∧ (t.core core).wide = rest ∧
      (s.alive o.owner = true → (t.strand o.owner.slot).ctr.t = (s.strand o.owner.slot).ctr.t - 1) ∧
      (o.kind = .zero ∨ o.kind = .release → ∀ i j, tileGet (t.tile core o.acc).data i j = 0) ∧
      (o.kind = .commit → (s.tile core o.acc).leave = false → ∀ i j, tileGet (t.tile core o.acc).data i j = tileGet (s.core core).shadow.data i j) ∧
      (o.kind = .commit ∨ o.kind = .discard → ∀ i j, tileGet (t.core core).shadow.data i j = 0) ∧
      (Claims.lastOn s core o.owner o.acc rest → (t.tile core o.acc).owner = none))

/-- R77, R78, R219, R226: a TMMA under way folds its next K-block into every element of its target's first M rows and N columns, in order, and
changes no other element; its first block starts from the tile, the shadow or zero as its form says; after the last block it leaves the line
and T falls by one, and its target stays unless its holder has given it up. That a block reads its buffers in the step that runs it is the
model's reading (log entry 38). -/
def Sys2Proof.Claims.MultiplyFoldsBlocks : Prop :=
  ∀ (s : State) (core : Nat) (t : Tmma) (rest : List Cmd), Claims.heads s core (.tmma t) rest t.x.order → coreOfSlot t.x.owner.slot = core →
    t.x.acc < 4 →
    let lim := min 32 (t.x.k - 32 * t.next)
    let ra := s.blockRows t.a (t.x.j0 + t.next) t.x.m lim
    let rb := s.blockRows t.b (t.x.j0 + t.next) t.x.n lim
    let sc (i j : Nat) : Option (Fl × Fl) := if t.x.sclm = 0 then none
      else some (s.scale t.x.sclm t.scalesA t.x.m t.next i, s.scale t.x.sclm t.scalesB t.x.n t.next j)
    let e := Claims.startOf s core t
    ∃ u, exec (.tmmaKblock core) s = .next u ∧
      (t.next + 1 < t.blocks ∨ ((s.tile core t.x.acc).leave = false ∧ (s.core core).shadow.leave = false) →
        ∀ i j, tileGet (u.target t.x).1 i j = if i < t.x.m ∧ j < t.x.n
          then foldBlock (e i j) (List.zipWith leaf32 (ra.getD i []) (rb.getD j []) ++ List.replicate (32 - lim) posZero) (sc i j)
          else e i j) ∧
      (t.next + 1 < t.blocks → ∃ v, (u.core core).wide = .tmma v :: rest ∧ v.next = t.next + 1 ∧ v.x = t.x) ∧
      (t.blocks ≤ t.next + 1 → (u.core core).wide = rest ∧
        (s.alive t.x.owner = true → (u.strand t.x.owner.slot).ctr.t = (s.strand t.x.owner.slot).ctr.t - 1))

/-- R81, R84, R85: RECHECK_COMPLETE frees the quad's check buffer, reports what was found to telemetry, and counts a deviation above CHKT as a
suspect; a write to CHKN rounds down to a power of two, at most 2^16, and starts the core's TMMA count again. -/
def Sys2Proof.Claims.RecheckResults : Prop :=
  (∀ (s : State) (quad : Nat) (c : Check) (dev m n : Nat), Table.find? s.checks quad = some c → c.result = some (dev, m, n) →
    ∃ t, exec (.recheckComplete quad) s = .next t ∧ t.checks = Table.erase s.checks quad ∧
      t.parts = (let u := s.postTel c.part ⟨BitVec.ofNat 256 (s.nowNat + 2 ^ 64 * c.src + 2 ^ 88 * (decide ((s.core c.core).chkt.toNat < dev)).toNat +
          2 ^ 89 * c.forced.toNat + 2 ^ 96 * (c.opid % 2 ^ 32) + 2 ^ 128 * dev + 2 ^ 160 * m + 2 ^ 168 * n), false, 1, s.nowNat, c.src⟩
        if (s.core c.core).chkt.toNat < dev then (u.count c.part 0x328 1).parts else u.parts)) ∧
  (∀ (s : State) (core : Nat) (v : Dword), ∃ t, exec (.chknWrite core v) s = .next t ∧ (t.core core).tmmaCount = 0 ∧
    (t.core core).chkn.toNat = (let n := v.toNat % 2 ^ 17
      if n = 0 then 0 else if 65536 < n then 65536 else 2 ^ n.log2))

/-! ## State words, clocks and events -/

namespace Sys2Proof.Claims

/-- What a scalar state instruction runs with (R252): the ticks sampled at its issue, the machine it runs on, and whether its home serves
it now; one that is not served at issue is served at a later turn of its strand (log entry 47). -/
def asked (s : State) : Ticks × State × Bool :=
  match s.me.ticks with
  | some t => (t, s.modMe (fun m => { m with ticks := none }), true)
  | none => (s.ticksOf s.myCrew, s.draw.2, s.draw.1 % 2 == 0)

/-- The instruction completes with u, or keeps the ticks it has sampled, with nothing else done, until its home serves it. -/
def Answers (i : Instr) (s u : State) : Prop :=
  exec i s = .next (if (asked s).2.2 then u.past 4 else (asked s).2.1.modMe (fun m => { m with ticks := some (asked s).1 }))

/-- The register form of a state operation's answer (R254): V1 and V0, tainted, with its taint event. -/
def valueTo (t : State) (d : GIdx) (w : StateWord) (taint own : Bool) : State :=
  let u := t.setG d ⟨(w.v1 ++ w.v0).setWidth 128, false, taint || own⟩
  if own then u.taintEvent else u

/-- e1's event field (R256): bit 31 set, the event's tick in e1[15:0] and e0. -/
def eventOf (s : State) : Option (BitVec 48) := if (s.e 1).getLsbD 31 then some ((s.e 1).setWidth 16 ++ s.e 0) else none

/-- The flag bits of a word as SDIS returns them: bits 127:120 (R86). -/
def flagsByte (w : StateWord) : Dword := (w.toBits.extractLsb' 120 8).setWidth 64

end Sys2Proof.Claims

/-- R252, R255 to R258: a scalar state instruction whose word can be reached and opened completes once its home serves it, with the ticks
sampled at issue: SRD gives the advanced value, SADV and SUPD store it and give it, SSET builds a word and clears P, SARM predicts (bit 63
alone and p7 where it arms nothing), SDIS disarms, SRAW gives the word's bits. One its home does not serve at once keeps its ticks and is
served at a later turn (the model's reading, log entry 47). SDIS and SRAW's mode 0 need no law: where the word's law can be read and is of
the device clock their answers are tainted, and where it cannot be read they are not (R92; the model's reading, log entry 126). -/
def Sys2Proof.Claims.StateWordResults : Prop :=
  ∀ (s0 : State) (d a b : GIdx),
    let t := (Claims.asked s0).1
    let s := (Claims.asked s0).2.1
    (∀ o s1, s.stateAt a .stateRead { r := true } = .ok (o, s1) →
      (∀ w tn own s2, s1.readOp { o with ticks := t } = .ok (w, tn, own, s2) →
        Claims.Answers (.srd d a) s0 (Claims.valueTo s2 d w (tn || (s.g a).taint) own) ∧
        (∀ m : GIdx, m ≠ 0 → Claims.Answers (.sraw d a m) s0
          ((s2.setG d ⟨w.toBits, false, (s.g a).taint || tn || own⟩).taintEventIf own))) ∧
      let own := s1.timeWord o (s1.rawWord o.loc).1.law
      Claims.Answers (.sraw d a 0) s0
        ((s1.setG d ⟨(s1.rawWord o.loc).1.toBits, false, (s.g a).taint || (s1.rawWord o.loc).2 || own⟩).taintEventIf own)) ∧
    (∀ o s1, s.stateAt a .stateOp { r := true, w := true } = .ok (o, s1) →
      let old := (s1.rawWord o.loc).1
      let tn0 := (s.g a).taint || (s1.rawWord o.loc).2
      let none' (u : State) (tn : Bool) : State := (u.setG d ⟨BitVec.ofNat 128 (2 ^ 63), false, tn⟩).setP 7 (BitVec.allOnes 64) tn
      (∀ w tn own s2, s1.advanceOp { o with ticks := t } (s.g a).taint = .ok (w, tn, own, s2) →
        Claims.Answers (.sadv d a) s0 (Claims.valueTo s2 d w tn own)) ∧
      (∀ w tn own s2, (s.e 1).extractLsb' 16 15 = 0 →
        s1.updateOp { o with ticks := t } (Claims.eventOf s) ((s.x b).setWidth 32) (s.t2 a b || s.eT 0 || s.eT 1) = .ok (w, tn, own, s2) →
        Claims.Answers (.supd d a b) s0 (Claims.valueTo s2 d w tn own)) ∧
      (∀ e s2 w1 s3 s4, (s.e 2).toNat < 256 → s1.lawAt o.ctx o.lawb ((s.e 2).setWidth 8) = .ok (e, s2) →
        s2.repredict { o with ticks := t } e ⟨0, false, false, false, (s2.rawWord o.loc).1.a, false, (s.e 2).setWidth 8, e.tickOf t,
          (s.x b).extractLsb' 32 32, (s.x b).setWidth 32⟩ (e.tickOf t) = (w1, s3) →
        (s3.unpoison o.loc).putWord { o with ticks := t } w1 (s.t2 a b || s.eT 2 || !e.tsrc) = .ok s4 →
        Claims.Answers (.sset a b) s0 (s4.taintEventIf (!e.tsrc))) ∧
      (old.p = true → Claims.Answers (.sarm d a) s0 (none' s1 tn0)) ∧
      (∀ x s2, old.p = false → s1.openWord { o with ticks := t } = .ok (x, s2) →
        let own := x.stale || !x.e.tsrc
        (x.e.act = 0 → Claims.Answers (.sarm d a) s0 ((none' s2 (tn0 || own)).taintEventIf own)) ∧
        (∀ r w1 s3 s4, x.e.act ≠ 0 →
          ({ s2 with arming := Table.set s2.arming o.loc ⟨o.crew, o.ctx, o.va⟩ } : State).predict { o with ticks := t } x.e
            { x.w with a := true, f := false, u := false } x.n = (r, w1, s3) →
          s3.putWord { o with ticks := t } w1 own = .ok s4 →
          Claims.Answers (.sarm d a) s0
            (((s4.setG d ⟨r.bits.setWidth 128, false, tn0 || own⟩).setP 7 0 (tn0 || own)).taintEventIf own))) ∧
      (∀ s2, let own := s1.timeWord o old.law
        (s1.dropEntry o.loc).putWord o { old with a := false, u := false } own = .ok s2 →
        Claims.Answers (.sdis d a) s0 ((s2.setG d ⟨(Claims.flagsByte old).setWidth 128, false, tn0 || own⟩).taintEventIf own))) ∧
    (∀ (o : StOp) (l : BitVec 8) t1 s1 g, s.translate o.ctx .engineRead false (State.lawAddr o.lawb l) = .ok (t1, s1) →
      s1.readHome t1.loc 32 = some g →
      let e := LawEntry.ofBits (BitVec.ofNat 256 g.nat)
      s.timeWord o l = (e.valid && !e.tsrc))

/-- R109, R259: SSWP registers a region, or takes one back, and says in p7 when it did neither: a 16-byte aligned region of a state capability
that lies whole in memory or in one scratchpad window of the cluster, at most 256 in a cluster and none twice for a crew. How it checks that a
region lies whole in memory is the model's reading (log entry 50). -/
def Sys2Proof.Claims.SweepRegistration : Prop :=
  ∀ (s0 : State) (a b : GIdx) va s2,
    let s := (Claims.asked s0).2.1
    let c := s.cap a
    capCheckAt c [5] { state := true } c.addr.toNat 16 16 = .ok va → c.base % 16 = 0 → c.top % 16 = 0 → s.regionWhole c = .ok s2 →
    let rs := Table.getD s2.regions s.myCluster []
    let there := rs.any (fun r => r.sameAs c.base c.top s.myCrew)
    let put (l : List Region) : State := { s2 with regions := Table.set s2.regions s.myCluster l }
    ((s.x b).getLsbD 0 = true → there = false → rs.length < 256 → Claims.Answers (.sswp a b) s0
      ((put (rs ++ [⟨c.base, c.top, ⟨s.myCrew, s.ctx, c.addr⟩, none, false, s.time.toNat, (s.crew s.myCrew).lclk⟩])).setP 7 0 (s.t2 a b))) ∧
    ((s.x b).getLsbD 0 = true → (there = true ∨ 256 ≤ rs.length) →
      Claims.Answers (.sswp a b) s0 (s2.setP 7 (BitVec.allOnes 64) (s.t2 a b))) ∧
    ((s.x b).getLsbD 0 = false → there = true → Claims.Answers (.sswp a b) s0
      ((put (rs.filter (fun r => !r.sameAs c.base c.top s.myCrew))).setP 7 0 (s.t2 a b))) ∧
    ((s.x b).getLsbD 0 = false → there = false → Claims.Answers (.sswp a b) s0 (s2.setP 7 (BitVec.allOnes 64) (s.t2 a b)))

namespace Sys2Proof.Claims

/-- A quiet word as its home opens it: not stale, unarmed, without a late report due, under a law on the logical clock. -/
def quietWord (x : State.Opened) : Prop := x.w.w = false ∧ x.w.a = false ∧ x.w.u = false ∧ x.e.tsrc = true

end Sys2Proof.Claims

/-- R96, R98, R105, R255, R256: at the home, a word that is neither armed, stale nor unscheduled. A read changes nothing and gives the word advanced to
the current tick; SADV stores it, anchored there; SUPD at an event between the anchor and now adds the input to V0 as it stands at the event, rounded once
and clamped, and anchors the word at the event. -/
def Obligations.StateWordSemantics : Prop :=
  ∀ (s s1 : State) (o : StOp) (x : State.Opened), s.openWord o = .ok (x, s1) → Claims.quietWord x → o.dg = false →
    let now := advanceWord x.e x.w x.n
    (now.2 = false → s.readOp o = .ok ({ now.1 with t := x.n }, x.taint, false, s1)) ∧
    (∀ regs, now.2 = false → s.advanceOp o regs = .ok ({ now.1 with t := x.n, rsv := 0, w := false }, x.taint || regs, false,
      s1.writeHome o.loc (toBytes 16 ({ now.1 with t := x.n, rsv := 0, w := false } : StateWord).toBits.toNat) (x.taint || regs))) ∧
    (∀ regs input, ∀ ev : BitVec 48, atOrBefore x.w.t ev = true → atOrBefore ev x.n = true →
      let u := (advanceWord x.e x.w ev).1
      let w : StateWord := { u with
        v0 := clamp32 x.e (BitVec.ofNat 32 (addFl .b32 .rne (fl32 u.v0) (fl32 input)).1), t := ev, rsv := 0, w := false }
      s.updateOp o (some ev) input regs = .ok (w, x.taint || regs, false, s1.writeHome o.loc (toBytes 16 w.toBits.toNat) (x.taint || regs)))

namespace Sys2Proof.Claims

/-- A vector state instruction: its operation, its v register, the g register of its block and the v registers it reads. -/
def vstateForm : Instr → Option (VStateOp × VIdx × GIdx × List VIdx)
  | .vsrd d a => some (.srd, d, a, [])
  | .vsrdy d a => some (.srdy, d, a, [])
  | .vsadv d a => some (.sadv, d, a, [])
  | .vsupd d a b => some (.supd, d, a, [b])
  | _ => none

/-- Before its lanes are sent the strand's earlier reductions and stores go to their homes, and the core's copies of the block with them; it
takes its place in the strand's order (R253, R262). -/
def sentLanes (s : State) (core : Nat) (loc : Loc) : State :=
  ((List.range 8).foldl (fun (s : State) i => s.evictAt s.myCore (loc.plus (128 * i))) ((s.settleReds (fun _ => true)).flushCore core)).nextSerial.2

/-- Its input register, with the taint of the event's registers (R256, R261). -/
def vstateInput (s : State) (src : List VIdx) (xs : List VReg) : VReg :=
  if src = [] then VReg.zero else { nth xs 0 with taint := (nth xs 0).taint || s.eT 0 || s.eT 1 }

end Sys2Proof.Claims

/-- R112, R261, R262, R332: a vector state instruction whose 1,024-byte block passes its check runs: with an active lane L rises, the core's
command queue takes it, and one request in flight holds the ticks sampled at issue, the mask's lanes, the crew's law base and the inputs; no
register changes yet. With none, nothing is pending. With L at 255 or the queue full it stalls. Into an active write stream it is issued in
the same way: the stream keeps the element's place, or takes note that it is past its end, and the element is pushed with the last lane. -/
def Sys2Proof.Claims.VectorStateResults : Prop :=
  ∀ (i : Instr) (s u s1 : State) (op : VStateOp) (d : VIdx) (a : GIdx) (src : List VIdx) (xs : List VReg) (va : Dword) (t : Trans),
    Claims.vstateForm i = some (op, d, a, src) → (op = .supd → (s.e 1).extractLsb' 16 15 = 0) → Claims.readAll s src = .ok (xs, u) →
    let writes := op == .sadv || op == .supd
    let mask := (u.p (Claims.memMaskOf u)).bits
    let input := Claims.vstateInput s src xs
    let ev := if op = .supd then Claims.eventOf s else none
    capCheckAt (u.cap a) [0, 5] { r := true, w := writes, state := true } (u.cap a).addr.toNat 1024 1024 = .ok va →
    u.translate u.ctx (if writes then .stateOp else .stateRead) false va = .ok (t, s1) →
    let room := u.me.ctr.l < 255 ∧ (u.core u.myCore).queue.length < 8
    let issued (w : State) (v : VState) : Prop := w.me.regs = u.me.regs ∧ w.me.vstates = u.me.vstates ++ [v] ∧ w.me.ctr.l = u.me.ctr.l + 1 ∧
      (w.core u.myCore).queue = (u.core u.myCore).queue ++ [.spring u.me? v.order] ∧ v.op = op ∧ v.vd = d ∧ v.lanes = mask ∧
      v.ticks = u.ticksOf u.myCrew ∧ v.event = ev ∧ v.lawb = (u.crew u.myCrew).lawb ∧ v.base = va ∧ v.loc = t.loc ∧ v.input = input.bits
    ((∀ st, u.stream? d = some st → st.write = false) →
      (mask = 0 → ∃ w, Runs i s w ∧ w.me.vstates = u.me.vstates ∧ w.me.ctr.l = u.me.ctr.l ∧
        ∀ k, (w.me.regs.rv k).bits = (u.me.regs.rv k).bits) ∧
      (mask ≠ 0 → room → ∃ w v, Runs i s w ∧ issued w v ∧ v.push = none) ∧
      (mask ≠ 0 → ¬ room → Stalls i s)) ∧
    (∀ st, u.stream? d = some st → st.write = true →
      let sent := Claims.sentLanes s1 u.myCore t.loc
      let bits := (u.me.regs.rv d).bits
      (mask = 0 → ∀ tn w, tn = ((u.me.regs.rv d).taint || ((u.g a).taint || (u.p (Claims.memMaskOf u)).taint || input.taint)) →
        sent.writeV d ⟨bits, tn⟩ = .ok w → Runs i s (w.past 4)) ∧
      (mask ≠ 0 → ∀ z, sent.reservePush d st = .ok z →
        (room → ∃ w v, Runs i s w ∧ issued w v ∧ v.push = some (st, bits) ∧ w.mem = z.mem ∧
          w.stream? d = some (if st.pos < st.total then { st with pos := st.pos + 1 } else { st with ovr := true })) ∧
        (¬ room → Stalls i s)) ∧
      (mask ≠ 0 → ∀ c v x, sent.reservePush d st = .error (.trap c v x) → Traps i s c v x))

/-- R253, R262, R374: a lane of a vector state instruction that its Spring unit has taken is served once the strand's earlier instructions owe
the word nothing: the lane takes the value and no other changes, the core's copy of the line goes, and L falls with the last lane of the
strand's oldest instruction. A lane that fails keeps its value, and the report WAIT raises names the lane's word. Where the destination is a
write stream the lane's value goes into the element to push, no register changes, and the element is stored before L falls. -/
def Sys2Proof.Claims.VectorStateLands : Prop :=
  ∀ (s : State) (slot index k : Nat) (v : VState), (s.strand slot).vstates[index]? = some v → v.taken = true → k < 64 →
    v.lanes.getLsbD k = true → ((s.strand slot).vstates.take index).any (fun q => q.owes (v.loc.plus (16 * k))) = false →
    let last := v.lanes &&& ~~~(BitVec.ofNat 64 (2 ^ k)) = 0
    let loc := v.loc.plus (16 * k)
    (∀ w tn own s1 st bits, s.serveLane v k = .ok (w, tn, own, s1) → v.push = some (st, bits) →
      let s2 := (s1.taintAt slot own).evictAt (coreOfSlot slot) loc
      let bits' := setLane bits k w
      ∃ t, exec (.vstateLane slot index k) s = .next t ∧
        (¬ (last ∧ (s1.strand slot).oldestL v.order = true) → (t.strand slot).regs = (s1.strand slot).regs ∧ t.mem = s2.mem ∧
          (t.strand slot).ctr.l = (s1.strand slot).ctr.l ∧ ∀ q, (t.strand slot).vstates[index]? = some q → q.push = some (st, bits')) ∧
        (last → (s1.strand slot).oldestL v.order = true →
          (st.pushAt = .ok none → t.mem = s2.mem ∧ (t.strand slot).ctr.l = (s1.strand slot).ctr.l - 1) ∧
          (∀ a u x, st.pushAt = .ok (some a) → x = ⟨bits', if v.whole then v.taint || tn else ((s1.strand slot).regs.rv v.vd).taint || (v.taint || tn)⟩ →
            ((s2.focus slot).storeElement a x).bind State.raiseS = .ok u → t.mem = u.mem ∧ (t.strand slot).ctr.s = u.me.ctr.s ∧
              (t.strand slot).ctr.l = u.me.ctr.l - 1 ∧ (t.strand slot).regs = u.me.regs))) ∧
    (v.push = none → ∀ w tn own s1, s.serveLane v k = .ok (w, tn, own, s1) →
      ∃ t, exec (.vstateLane slot index k) s = .next t ∧ t.mem = (s1.evictAt (coreOfSlot slot) loc).mem ∧
        (∀ j < 64, lane ((t.strand slot).regs.rv v.vd).bits j = if j = k then w else lane ((s1.strand slot).regs.rv v.vd).bits j) ∧
        (t.strand slot).ctr.l =
          (if last ∧ (s1.strand slot).oldestL v.order = true then (s1.strand slot).ctr.l - 1 else (s1.strand slot).ctr.l)) ∧
    (v.push = none → ∀ c a x, s.serveLane v k = .error (.trap c a x) → ∃ t, exec (.vstateLane slot index k) s = .next t ∧
      (∀ j < 64, lane ((t.strand slot).regs.rv v.vd).bits j = lane ((s.strand slot).regs.rv v.vd).bits j) ∧
      (last → (s.strand slot).oldestL v.order = true → v.fault = none →
        (t.strand slot).lates = (s.strand slot).lates ++ [⟨c, v.base + BitVec.ofNat 64 (16 * k), 0, false, v.order⟩]))

namespace Sys2Proof.Claims

/-- The place of a clock move among the crew's moves, and the machine that holds it; none once the clock is moved (R265). -/
def clockPlace (s : State) : Option (Nat × State) :=
  match s.me.wait with
  | some ⟨_, .clock _ (some _), _, _, _⟩ => none
  | some ⟨_, .clock order none, _, _, _⟩ => some (order, s)
  | _ => some s.nextSerial

/-- How a clock move to the tick n goes, from its place in the order: it waits for the moves before it and for the strand's vector state
operations; it sets the clock; and it completes, leaving out, once no entry of the crew is due by n (R106, R265). -/
def Moves (i : Instr) (s : State) (n : BitVec 48) (out : State → State) : Prop :=
  (∀ order s1, clockPlace s = some (order, s1) →
    (s1.clockTurn s.cur order = true →
      ((s1.setClock s.myCrew n).clockDone s.myCrew n = true → Runs i s ((out (s1.setClock s.myCrew n)).past 4)) ∧
      ((s1.setClock s.myCrew n).clockDone s.myCrew n = false → Pauses i s (s1.setClock s.myCrew n) (.clock order (some n)))) ∧
    (s1.clockTurn s.cur order = false → Pauses i s s1 (.clock order none)))

/-- The same once the clock is moved: it completes when the calendar has fired up to the tick it set. -/
def Moved (i : Instr) (s : State) (out : BitVec 48 → State → State) : Prop :=
  ∀ w order n h q b, s.me.wait = some ⟨w, .clock order (some n), h, q, b⟩ →
    (s.clockDone s.myCrew n = true → Runs i s ((out n s).past 4)) ∧ (s.clockDone s.myCrew n = false → Waits i s (.clock order (some n)))

/-- A move forward reaches the crew's entries at or before the new tick; a move back reaches none (R265). -/
def reached (k : CrewId) (n : BitVec 48) (x : CalEntry) : CalEntry :=
  if x.tsrc = true ∧ x.arm.crew = k ∧ atOrBefore x.tick n = true then { x with due := true } else x

end Sys2Proof.Claims

/-- R91, R92, R263 to R266: SCLKR gives LCLK; SCLKW and SCLKA with a legal operand set it in the crew's order, and complete when no entry of
the crew's calendar is due by the new tick, waiting until then; STIME gives the device tick, tainted; SLAW on an entry of the crew's table makes later operations see it and says
in p7 whether it is invalid; EVPOP stores the oldest record and takes it from the queue, or says there is none; EVWAIT runs while there
is one and waits while there is none. -/
def Sys2Proof.Claims.ClockAndEventResults : Prop :=
  ∀ (s : State) (d a : GIdx),
    let k := s.myCrew
    Runs (.sclkr d) s ((s.setG d ⟨(s.crew k).lclk.setWidth 128, false, false⟩).past 4) ∧
    ((s.x a).toNat < 2 ^ 48 → Claims.Moves (.sclkw a) s ((s.x a).setWidth 48) id ∧ Claims.Moved (.sclkw a) s (fun _ t => t)) ∧
    ((s.x a).toNat < 2 ^ 47 →
      let out (n : BitVec 48) (t : State) : State := t.setG d ⟨n.setWidth 128, false, (s.g a).taint⟩
      let n := (s.crew k).lclk + (s.x a).setWidth 48
      Claims.Moves (.sclka d a) s n (out n) ∧ Claims.Moved (.sclka d a) s out) ∧
    (s.me.wait = none → (2 ^ 48 ≤ (s.x a).toNat → Traps (.sclkw a) s 0x01 (s.x a) 0) ∧
      (2 ^ 47 ≤ (s.x a).toNat → Traps (.sclka d a) s 0x01 (s.x a) 0)) ∧
    (∀ n, ((s.setClock k n).crew k).lclk = n ∧ ((n - (s.crew k).lclk).toNat < 2 ^ 47 →
        (s.setClock k n).calendars = s.calendars.map (fun (c, es) => (c, es.map (Claims.reached k n)))) ∧
      (2 ^ 47 ≤ (n - (s.crew k).lclk).toNat → (s.setClock k n).calendars = s.calendars)) ∧
    Runs (.stime d) s (((s.setG d ⟨(BitVec.ofNat 48 (s.time.toNat / 2 ^ (s.crew k).stick.toNat)).setWidth 128, false, true⟩).taintEvent).past 4) ∧
    (∀ va t s1 g, capCheckAt (s.cap a) [0] { r := true } (s.cap a).addr.toNat 32 32 = .ok va → (s.crew k).lawb.toNat ≤ va.toNat →
      va.toNat < (s.crew k).lawb.toNat + 0x4000 → s.translate s.ctx .load false va = .ok (t, s1) →
      let s2 : State := (s1.settleOver t.loc 32).evictAt s.myCore t.loc
      s2.readHome t.loc 32 = some g →
      Runs (.slaw a) s ((({ s2 with laws := Table.erase s2.laws t.loc } : State).setP 7 (Claims.all64
        (decide (va.toNat < (s.crew k).lawb.toNat + 0x2000) && !(LawEntry.ofBits (BitVec.ofNat 256 g.nat)).valid)) ((s.g a).taint || g.taint)).past 4)) ∧
    (∀ va, capCheckAt (s.cap a) [0] { w := true } (s.cap a).addr.toNat 32 32 = .ok va →
      ((s.crew k).events = [] → Runs (.evpop a) s ((s.setP 7 (BitVec.allOnes 64) (s.g a).taint).past 4)) ∧
      (∀ r rest s1, (s.crew k).events = r :: rest → s.storeAt va r.bytes r.taint = .ok s1 → s1.me.ctr.s < 255 →
        Runs (.evpop a) s ((((s1.modCrew k (fun c => { c with events := rest })).modCtr (fun c => { c with s := c.s + 1 })).setP 7 0 (s.g a).taint).past 4))) ∧
    ((s.crew k).events ≠ [] → Runs .evwait s (s.past 4)) ∧ ((s.crew k).events = [] → Waits .evwait s .events)

/-- R91, R103, R104, R107, R109, R110: STICK takes its written value, at most 20; an entry of the calendar whose time source has reached its tick sends one request; its
service takes the entry off and, on an armed word that crosses there, sets F, clears A and posts the record to the word's arming crew, oldest tick first; a record held for room
is posted once there is room; a sweep pass starts over every region for which one is due, and visits its words in order. Among the entries
that fire together the calendar's own order holds, and so it does at the home (R426). That each region is swept on its own, its passes timed
from its registration, is the model's choice (log entry 116). -/
def Sys2Proof.Claims.CalendarAndSweep : Prop :=
  ∀ (s : State) (cluster index slot : Nat) (v : Dword),
    (exec (.stickWrite slot v) s = .next (s.modCrew (s.crewOf slot) (fun c => { c with stick := BitVec.ofNat 5 (min 20 (v.toNat % 32)) }))) ∧
    (∀ x, (Table.getD s.calendars cluster [])[index]? = some x → x.held = none → x.sent = false →
      (if x.tsrc then x.due else atOrBefore x.tick (BitVec.ofNat 48 (s.time.toNat / 2 ^ (s.crew x.arm.crew).stick.toNat))) = true →
      (∀ y ∈ Table.getD s.calendars cluster [], s.fires? y = true → y.before x = false) →
      ∃ t, exec (.calendarFire cluster index) s = .next t ∧ t.fires = s.fires ++ [⟨cluster, x, s.time⟩] ∧
        (Table.getD t.calendars cluster [])[index]? = some { x with sent := true }) ∧
    (∀ r, s.fires[index]? = some r → (∀ q ∈ s.fires.take index, s.servedFirst q r = false) → ∃ t, exec (.fireRequestServe index) s = .next t ∧ t.fires = listDrop s.fires index ∧
      (∀ e s1, let w := (s.rawWord r.entry.loc).1
        let arm := Table.getD s.arming r.entry.loc r.entry.arm
        w.p = false → w.a = true →
        ({ s with fires := listDrop s.fires index, calendars := Table.modify s.calendars r.cluster [] (fun l => l.filter (fun x =>
            !(decide (x.loc = r.entry.loc) && x.sent && decide (x.tick = r.entry.tick)))) } : State).lawAt arm.ctx (s.crew arm.crew).lawb w.law = .ok (e, s1) →
        e.act ≠ 0 → crossesAt e w r.entry.tick = true →
        t = (s1.writeHome r.entry.loc (toBytes 16 ({ w with f := true, a := false } : StateWord).toBits.toNat) (!e.tsrc)).postRecord r.entry.loc e.tsrc arm
          (State.crossingRecord e w (r.entry.tick - w.t).toNat arm.va false (s.srcNum 3 arm.crew.cluster)))) ∧
    (∀ x r, (Table.getD s.calendars cluster [])[index]? = some x → x.held = some r → s.crewLive x.arm.crew = true → s.eventRoom x.arm.crew = true → r.task = false →
      ∃ t, exec (.heldFiringPost cluster index) s = .next t ∧ (t.crew x.arm.crew).events = State.insertRecord r (s.crew x.arm.crew).events ∧
        Table.getD t.calendars cluster [] = listDrop (Table.getD s.calendars cluster []) index) ∧
    (∀ r ∈ Table.getD s.regions cluster [], r.next = none → (r.lastTime + 2 ^ 40 ≤ s.time.toNat ∨ s.tickDue r = true) →
      ∃ t, exec (.sweepPass cluster) s = .next t ∧
      Table.getD t.regions cluster [] = (Table.getD s.regions cluster []).map (fun r =>
        if r.next ≠ none then r
        else if r.lastTime + 2 ^ 40 ≤ s.time.toNat then
          { r with next := some r.base, logical := false, lastTime := s.time.toNat, lastTick := (s.crew r.arm.crew).lclk }
        else if s.tickDue r then { r with next := some r.base, logical := true, lastTick := (s.crew r.arm.crew).lclk }
        else r)) ∧
    (∀ r a, (Table.getD s.regions cluster []).find? (fun r => r.next.isSome) = some r → r.next = some a →
      ∃ t, exec (.sweepWord cluster) s = .next t ∧ Table.getD t.regions cluster [] = (Table.getD s.regions cluster []).map (fun q =>
        if q = r then { q with next := if a + 16 < r.top then some (a + 16) else none } else q))

/-! ## Chains -/

namespace Sys2Proof.Claims

/-- The strand runs a stage of a bound chain. -/
def stageOf (s : State) (r : ChainRef) (c : Chain) : Prop := s.me.chain = some r ∧ s.findChain r.cluster r.id = some c

/-- January seeks no cut that this strand could stand at (R275, R276). -/
def noCut (s : State) (c : Chain) : Prop := c.triggers = [] ∨ s.pointClear s.cur = false

/-- The registers after a pipe instruction: e0 to e7 and p1 to p7 zero and untainted (R272). -/
def cleared (s : State) : Regs := { s.me.regs with p := Vector.replicate 8 PReg.zero, e := Vector.replicate 8 EReg.zero }

/-- The strand's chain after an instruction: its pipe holds these items, every other pipe is as it was. -/
def pipeHolds (t : State) (r : ChainRef) (c : Chain) (p : Nat) (items : List Item) : Prop :=
  ∃ k, t.findChain r.cluster r.id = some k ∧ (k.pipe? p).map (·.items) = some items ∧ ∀ j, j ≠ p → k.pipe? j = c.pipe? j

/-- A g register as a pipe carries it, and back (R269). -/
def itemOf (g : GReg) : Item := ⟨g.bits.setWidth 2048, g.tag, g.taint⟩
def gOf (x : Item) : GReg := ⟨x.bits.setWidth 128, x.tag, x.taint⟩

/-- An instruction that runs and leaves these registers and these items in the pipe. -/
def pipeRuns (i : Instr) (s : State) (r : ChainRef) (c : Chain) (p : Nat) (regs : Regs) (items : List Item) : Prop :=
  ∃ t, Runs i s t ∧ t.me.regs = regs ∧ pipeHolds t r c p items

/-- The oldest item as its place in the queue region, the residual FIFO or the latch holds it when it is taken (R273, R274). -/
def taken (s : State) (c : Chain) (p : PIdx) (q : Pipe) (x : Item) : Item := ((s.acquire 2).itemAt c p.toNat q 0 x).1

/-- The items left once the oldest is taken: an item beyond the C-th enters the queue as its place holds it (R277). -/
def left (s : State) (c : Chain) (p : PIdx) (q : Pipe) (x : Item) (rest : List Item) : List Item := match q.items[q.cap]?, q.latch with
  | some y, false => listSet rest (q.cap - 1) ((((s.acquire 2).itemAt c p.toNat q 0 x).2).itemAt c p.toNat q q.cap y).1
  | _, _ => rest

/-- The pipe instruction is over as a trap of cause 0x0C (R283). -/
def pipeTrap (i : Instr) (s : State) (p : PIdx) (why : Nat) : Prop := Traps i s 0x0C (BitVec.ofNat 64 (256 * p.toNat + why)) 0

/-- The chain a chain or pipe-end operand names, and whether a CHEQ's operand names the strand's own chain (R284). -/
def cheqNames (s : State) (a : GIdx) (c : Chain) : Prop :=
  a = 0 ∨ ∃ x o, s.chainOperand a [3] = .ok (x, o) ∧ x.ended = false ∧ x.id = c.id

end Sys2Proof.Claims

/-- R269, R271 to R274, R281 to R283: the stage at its end of a pipe of the right kind, with no cut sought of it. GET, C.GET, VGET and GETE of g items take the
oldest item, PUT, C.PUT and VPUT add theirs as the newest while there is room; GETT and PUTT do so or say in p7 that they could not; GETE of a closed
empty pipe gives the end word; e0 to e7 and p1 to p7 are zero afterwards. The strand that cannot go on waits in a spread chain and gives way to the pipe's
other party in a folded one; a closed pipe is cause 0x0C. VGET may write an active stream, and VPUT read one. -/
def Obligations.PipeResults : Prop :=
  ∀ (s : State) (r : ChainRef) (c : Chain) (p : PIdx) (q : Pipe) (d : GIdx) (dd v : VIdx), Claims.stageOf s r c → Claims.noCut s c →
    c.pipe? p.toNat = some q →
    let regs := Claims.cleared s
    let runs (i : Instr) (g : Regs) (items : List Item) : Prop := Claims.pipeRuns i s r c p.toNat g items
    let blocks (i : Instr) (get : Bool) : Prop :=
      (c.folded = false → Waits i s (.pipe r.cluster r.id p.toNat get)) ∧
      (let o := if get then q.prod else q.cons
       c.folded = true → c.triggers = [] → c.running = r.stage → o ≠ r.stage → c.canProceed o = true →
        ∃ t, exec i s = .next t ∧ t.me.chain = some { r with stage := o } ∧ t.me.regs.g = s.me.regs.g ∧ t.me.regs.v = s.me.regs.v)
    (q.cons = r.stage →
      (∀ x tail, q.items = x :: tail → let y := Claims.taken s c p q x
        let rest := Claims.left s c p q x tail
        (q.wide = false → runs (.get d p) (regs.wg d (Claims.gOf y)) rest ∧ runs (.cGet dd p) (regs.wg (g5 dd) (Claims.gOf y)) rest ∧
          runs (.gete d p) ((regs.wg d (Claims.gOf y)).wp 7 ⟨0, false⟩) rest ∧
          runs (.gett d p) ((regs.wg d { Claims.gOf y with taint := true }).wp 7 ⟨0, true⟩) rest) ∧
        (q.wide = true → runs (.gete d p) ((regs.wg d GReg.zero).wp 7 ⟨0, false⟩) q.items ∧
          ((∀ st, s.stream? v = some st → st.write = false) → runs (.vget v p) (regs.wv v ⟨y.bits, y.taint⟩) rest) ∧
          (∀ st u, s.stream? v = some st → st.write = true → (s.takeItem r c p q x).2.writeV v ⟨y.bits, y.taint⟩ = .ok u →
            Runs (.vget v p) s (u.past 4)))) ∧
      (q.items = [] →
        (q.closed = false → blocks (.gete d p) true ∧ (q.wide = true → blocks (.vget v p) true) ∧
          (q.wide = false → runs (.gett d p) (regs.wp 7 ⟨BitVec.allOnes 64, true⟩) [] ∧ blocks (.get d p) true ∧ blocks (.cGet dd p) true)) ∧
        (q.closed = true →
          runs (.gete d p) ((regs.wg d (Claims.asData (BitVec.ofNat 64 (1 + 2 * q.broken.toNat + 2 ^ 8 * q.prod + 2 ^ 16 * q.cause.toNat)) false)).wp 7
            ⟨BitVec.allOnes 64, false⟩) [] ∧
          (∀ i, (q.wide = false ∧ (i = .get d p ∨ i = .cGet dd p ∨ i = .gett d p)) ∨ (q.wide = true ∧ i = .vget v p) →
            exec i s = .next ((s.acquire 2).spent.takeTrap 0x0C (BitVec.ofNat 64 (256 * p.toNat + 4)) 0))))) ∧
    (q.prod = r.stage →
      (q.closed = false → c.ready p.toNat false = true →
        (q.wide = false → runs (.put d p) regs (q.items ++ [Claims.itemOf (s.g d)]) ∧
          runs (.cPut dd p) regs (q.items ++ [Claims.itemOf (s.g (g5 dd))]) ∧
          runs (.putt d p) (regs.wp 7 ⟨0, true⟩) (q.items ++ [Claims.itemOf (s.g d)])) ∧
        (q.wide = true → ∀ y u, s.readV v = .ok (y, u) → runs (.vput v p) (Claims.cleared u) (q.items ++ [⟨y.bits, false, y.taint⟩]))) ∧
      (q.closed = false → c.ready p.toNat false = false →
        (q.wide = false → runs (.putt d p) (regs.wp 7 ⟨BitVec.allOnes 64, true⟩) q.items ∧ blocks (.put d p) false ∧ blocks (.cPut dd p) false) ∧
        (q.wide = true → blocks (.vput v p) false)) ∧
      (q.closed = true → ∀ i, (q.wide = false ∧ (i = .put d p ∨ i = .cPut dd p ∨ i = .putt d p)) ∨ (q.wide = true ∧ i = .vput v p) →
        Claims.pipeTrap i s p 4))

/-- R270, R273, R284, R285: CHBND of a readable descriptor whose save area its capability covers binds it and gives its chain capability, or
gives the reason in gD with p7 all ones; CHST reports a chain's and a pipe's bits, tainted, and gives a pipe's end; CHEND of a producer, or by a pipe
end, closes an open pipe and does nothing to a closed one; CHWT of an ended chain frees it and reports what broke, and waits for one that has not; CHEQ
says whether a switch stood here; CHFLD and CHSPR of a chain in that form already say so, CHFLD of a pinned chain says it cannot, and else they ask
January and wait. -/
def Obligations.ChainResults : Prop :=
  ∀ (s : State) (d a b : GIdx),
    (∀ va bs tn s1 save, s.me.status = .ready → let t := s.t2 a b || s.eT 0 || tn
      (s.e 0).toNat < 3 → capCheckAt (s.cap a) [0] { r := true } (s.cap a).addr.toNat 256 64 = .ok va → (s.release 2).readVirt s.ctx va 256 = .ok (bs, tn, s1) →
      capCheckAt (s.cap b) [0] { r := true, w := true } (s.cap b).addr.toNat (ChainDesc.ofNat (ofBytes bs)).saveSize 4096 = .ok save →
      ∃ u, Runs (.chbnd d a b) s u ∧
        ((∃ reason, 1 ≤ reason ∧ reason ≤ 4 ∧ u.me.regs = (s.me.regs.wg d ⟨BitVec.ofNat 128 reason, false, t⟩).wp 7 ⟨BitVec.allOnes 64, t⟩ ∧ u.chains = s.chains) ∨
         (u.me.regs = (s.me.regs.wg d ⟨(chainCapability va).bits, true, t⟩).wp 7 ⟨0, t⟩ ∧
           (Table.getD u.chains s.myCluster []).length = (Table.getD s.chains s.myCluster []).length + 1))) ∧
    (∀ c, s.chainOperand a [3, 6] = .ok (c, none) →
      let out (n : Nat) : Prop := Runs (.chst d a b) s (((s.setG d (Claims.asData (BitVec.ofNat 64 n) true)).taintEvent).past 4)
      (b = 0 → out (c.folded.toNat + 2 * c.pinned.toNat + 4 * c.foldable.toNat + 8 * c.ended.toNat +
        2 ^ 4 * c.stageBits (·.ended) + 2 ^ 20 * c.pipeBits (·.closed) + 2 ^ 28 * c.pipeBits (·.broken))) ∧
      (∀ q, c.pipe? (b.toNat % 8) = some q → (8 ≤ b.toNat → b.toNat < 16 → out q.items.length) ∧
        (16 ≤ b.toNat → b.toNat < 24 → Runs (.chst d a b) s ((s.setCap d (pipeEnd c (b.toNat % 8)) (s.g a).taint).past 4)))) ∧
    (∀ c p q, s.chainOperand a [3, 6] = .ok (c, some p) → b = 0 → c.pipe? p = some q →
      Runs (.chst d a b) s (((s.setG d (Claims.asData (BitVec.ofNat 64 (q.items.length + 256 * q.closed.toNat + 512 * q.broken.toNat)) true)).taintEvent).past 4)) ∧
    (∀ r c (p : PIdx) q k, r.cluster = s.myCluster → c.pipe? p.toNat = some q → s.findChain r.cluster r.id = some c →
      (∀ (x : GIdx) (n : PIdx), (x = 0 ∧ n = p ∧ s.me.chain = some r ∧ q.prod = r.stage) ∨
          (x ≠ 0 ∧ n = 0 ∧ s.chainOperand x [6] = .ok (c, some p.toNat) ∧ r.id = c.id) →
        (q.closed = true → Runs (.chend x n k) s (s.past 4)) ∧
        (q.closed = false → ∃ u c' q', Runs (.chend x n k) s u ∧ u.findChain r.cluster r.id = some c' ∧ c'.pipe? p.toNat = some q' ∧
          q'.closed = true ∧ q'.broken = k ∧ q'.items = q.items))) ∧
    (∀ c, s.chainOperand a [3] = .ok (c, none) →
      (c.ended = true → Runs (.chwt d a) s (((((s.acquire 2).dropChain s.myCluster c.id).windowShut s.myCrew).setG d
        (Claims.asData (BitVec.ofNat 64 (c.stageBits (·.killed) + 2 ^ 16 * c.pipeBits (·.broken))) (s.g a).taint)).past 4)) ∧
      (c.ended = false → Waits (.chwt d a) s (.chainEnd s.myCluster c.id)) ∧
      (c.ended = false → s.me.wait = none →
        let said (v : Dword) : State := ((s.setP 7 v true).taintEvent).past 4
        let asks (i : Instr) (f : Bool) : Prop :=
          Pauses i s (s.addTrigger s.myCluster c.id (.request s.cur f)) (.chainForm s.myCluster c.id f)
        (c.folded = true → Runs (.chfld a) s (said 0) ∧ asks (.chspr a) false) ∧
        (c.folded = false → Runs (.chspr a) s (said 0) ∧
          if c.pinned then Runs (.chfld a) s (said (BitVec.allOnes 64)) else asks (.chfld a) true))) ∧
    (∀ w cl id f since hit expired, s.me.wait = some ⟨w, .chainForm cl id f, since, hit, expired⟩ → hit = true ∨ expired = true →
      let said := ((s.setP 7 (Claims.all64 expired) true).taintEvent).past 4
      Runs (.chfld a) s said ∧ Runs (.chspr a) s said) ∧
    (s.me.chain = none → Runs (.cheq d a) s ((s.setG d GReg.zero).past 4) ∧ ∀ x y : VIdx, Runs (.cCheq x y) s ((s.setG (g5 x) GReg.zero).past 2)) ∧
    (∀ r c, Claims.stageOf s r c → Claims.noCut s c →
      let tells (i : Instr) (d : GIdx) : Prop := ∃ u, Runs i s u ∧
        u.me.regs = (Claims.cleared s).wg d ⟨BitVec.ofNat 128 (c.stage r.stage).switched.toNat, false, true⟩ ∧ u.me.csr.taintSticky = true
      (Claims.cheqNames s a c → tells (.cheq d a) d) ∧
      (∀ x y : VIdx, Claims.cheqNames s (g5 y) c → tells (.cCheq x y) (g5 x)))

/-- R276, R441: a policy sample counts what it sees; a trigger for which no cut came within 2,000 ns ends, its requester told; the
state of an ended chain that the launch unit bound is freed. -/
def Sys2Proof.Claims.ChainHousekeeping : Prop :=
  ∀ (s : State) (cluster chain : Nat) (c : Chain), s.findChain cluster chain = some c →
    (∃ t k, exec (.chainPolicySample cluster chain) s = .next t ∧ t.findChain cluster chain = some k ∧
      (c.ended = true ∨ c.triggers ≠ [] → k = { c with
        lowSamples := if c.pol = 1 ∧ c.folded = false ∧ (∀ q ∈ c.pipes, q.items.length ≤ c.flo) then min (c.lowSamples + 1) 4 else 0
        readySamples := if c.pol = 1 ∧ c.folded = true ∧ s.runs c.slot cluster chain = true ∧ (s.strand c.slot).status = .ready
          then min (c.readySamples + 1) 4 else 0 })) ∧
    (∀ tr since, c.triggers = [(tr, since)] → since + 2000 ≤ s.time.toNat → ¬ (tr = .back ∧ c.backDue = true) →
      ∃ t k, exec (.chainTriggerTimeout cluster chain) s = .next t ∧ t.findChain cluster chain = some k ∧ k.triggers = []) ∧
    (c.byLaunch = true → c.ended = true →
      ∃ t, exec (.chainStateFree cluster chain) s = .next t ∧ t.findChain cluster chain = none)

/-- R277, R348: at a cut, with a fold sought, CHAIN_FOLD leaves the chain folded on the slot of its lowest live stage, its pipes' items as they were in one
run, every other stage's slot FREE, and the triggers for the folded form answered; at a cut, with a spread sought and a placement, CHAIN_SPREAD leaves it
spread with each live stage on its slot. -/
def Sys2Proof.Claims.ChainSwitches : Prop :=
  ∀ (s : State) (cluster chain : Nat) (c : Chain) (tr : Trigger), s.findChain cluster chain = some c → s.sought c = some tr →
    (∀ low rest, c.live = low :: rest → tr.fold = true → c.folded = false → c.pinned = false → s.foldCut cluster c (c.slotOf low) = true →
      ∃ t k, exec (.chainFold cluster chain) s = .next t ∧ t.findChain cluster chain = some k ∧ k.folded = true ∧ k.slot = (c.stage low).slot ∧
        k.pipes.map (·.items) = c.pipes.map (·.items) ∧ k.running ∈ c.live ∧ k.triggers = c.triggers.dropWhile (fun x => x.1.fold) ∧
        ∀ j ∈ c.live, c.slotOf j ≠ c.slotOf low → (t.strand (c.slotOf j)).status = .free) ∧
    (∀ slots, tr.fold = false → c.folded = true → s.unfoldSlots cluster c = some slots → s.spreadCut cluster c = true →
      ∃ t k, exec (.chainSpread cluster chain) s = .next t ∧ t.findChain cluster chain = some k ∧ k.folded = false ∧
        k.pipes.map (·.items) = c.pipes.map (·.items) ∧ k.triggers = c.triggers.dropWhile (fun x => !x.1.fold) ∧
        ∀ j ∈ c.live, (k.stage j).slot = slots.getD j 0)

/-! ## Handles -/

namespace Sys2Proof.Claims

/-- A handle operand that passes the checks of R289 with a permission. -/
def handleOk (c : Cap) (perm : Bool) : Prop := c.tag = true ∧ c.otype = 0 ∧ c.kind = 1 ∧ perm = true

/-- A reason word (R291). -/
def reason (n : Nat) (cause : BitVec 8) (user : Word) (origin : Dword) : Qword :=
  BitVec.ofNat 128 (origin.toNat + 2 ^ 64 * n + 2 ^ 72 * cause.toNat + 2 ^ 80 * user.toNat)

/-- What an AWAIT of a resolved handle of this device gives: the value, or the reason word of one that broke or is no more (R291, R297). -/
def resolved (s : State) (id : Dword) : Option (GReg × Bool) := match s.handleView id with
  | .stale => some (⟨reason 6 0 0 id, false, false⟩, true)
  | .here _ _ h => match h.state with
    | .fulfilled => some (h.value, false)
    | .broken => some (⟨reason h.reason h.cause h.user h.origin, false, false⟩, true)
    | _ => none
  | .remote => none

/-- The strand has no message to the handle on its way (R299). -/
def arrived (s : State) (id : Dword) : Prop := ∀ m ∈ s.hmsgs, m.src = s.strandSrc s.cur → m.id ≠ id

end Sys2Proof.Claims

/-- R289, R291, R297, R301, R334: AWAIT of a resolved handle of this device gives its value with p7 zero or its reason word with p7 all ones, an
acquire; AWAITT of a broken one is cause 0x0B with the reason word, after the acquire; both wait for one that is not resolved; POLLH answers at once,
tainted; HSTAT gives the state and the reason, tainted. A handle of another device answers the same ways, which of them being free (log entry 51). A handle
capability without R is cause 0x03. -/
def Sys2Proof.Claims.HandleReads : Prop :=
  ∀ (s : State) (d a : GIdx),
    let c := s.cap a
    let ta := (s.g a).taint
    let gives (i : Instr) (u : State) (v : GReg) (broke own : Bool) : Prop := Runs i s
      (((((u.acquire 4).setG d { v with taint := v.taint || (ta || own) }).setP 7 (Claims.all64 broke) (ta || own)).taintEventIf own).past 4)
    let traps (u : State) (v : GReg) : Prop := exec (.awaitt d a) s = .next ((u.acquire 4).spent.takeTrap 0x0B c.addr v.bits)
    let polls (u : State) : Prop := Runs (.pollh d a) s ((((u.setG d ⟨0, false, true⟩).setP 7 (BitVec.allOnes 64) true).taintEvent).past 4)
    (Claims.handleOk c c.permR →
      (∀ v broke, Claims.resolved s c.addr = some (v, broke) → gives (.await d a) s v broke false ∧ gives (.pollh d a) s v broke true ∧
        (broke = false → gives (.awaitt d a) s v false false) ∧ (broke = true → traps s v)) ∧
      (s.handleView c.addr = .stale →
        Runs (.hstat d a) s ((((s.acquire 4).setG d (Claims.asData (BitVec.ofNat 64 (4 + 16 * 6)) true)).taintEvent).past 4)) ∧
      (∀ pi k h, s.handleView c.addr = .here pi k h →
        (h.unresolved = true → Waits (.await d a) s (.handle c.addr) ∧ Waits (.awaitt d a) s (.handle c.addr) ∧ polls s ∧
          Runs (.hstat d a) s (((s.setG d ⟨if h.state = .unbound then 1 else 2, false, true⟩).taintEvent).past 4)) ∧
        (h.state = .fulfilled → Runs (.hstat d a) s ((((s.acquire 4).setG d ⟨3, false, true⟩).taintEvent).past 4)) ∧
        (h.state = .broken → Runs (.hstat d a) s ((((s.acquire 4).setG d (Claims.asData (BitVec.ofNat 64 (4 + 16 * h.reason)) true)).taintEvent).past 4))) ∧
      (s.handleView c.addr = .remote → ∀ x s1, s.look c.addr = (x, s1) →
        (x = .pending → Waits (.await d a) s (.handle c.addr) ∧ Waits (.awaitt d a) s (.handle c.addr) ∧ polls s1) ∧
        (∀ v, x = .value v → gives (.await d a) s1 v false false ∧ gives (.awaitt d a) s1 v false false ∧ gives (.pollh d a) s1 v false true) ∧
        (∀ w, x = .broken w → gives (.await d a) s1 ⟨w, false, false⟩ true false ∧ traps s1 ⟨w, false, false⟩ ∧
          gives (.pollh d a) s1 ⟨w, false, false⟩ true true) ∧
        ∃ (u : State) (st reason : Nat), 1 ≤ st ∧ st ≤ 4 ∧
          Runs (.hstat d a) s (((u.setG d (Claims.asData (BitVec.ofNat 64 (st + 16 * reason)) true)).taintEvent).past 4))) ∧
    (c.tag = true → c.otype = 0 → c.kind = 1 → c.permR = false → ∀ i, i = .await d a ∨ i = .awaitt d a ∨ i = .pollh d a ∨ i = .hstat d a →
      Traps i s 0x03 c.addr ((c.bits.extractLsb' 64 64).setWidth 128))

/-- R289, R291, R292, R296, R299: HFUL, HBRK, HDROP and HBIND, once the strand's messages to the handle have arrived, of an entry of this device, and of an id
whose use is over: the first three change an unresolved entry with p7 zero and say in p7 that another cannot be changed; HDROP frees a resolved one at once and
an unresolved one when it resolves; HBIND of an unbound one with a readable mailbox of at least one slot, by a strand responsible for fewer than 16, binds it.
Of an entry of another device, whether it was changed is free, and so is how many that the strand has bound there are still unresolved: the
model's choice (log entry 51). With a message still on its way they stall. -/
def Sys2Proof.Claims.HandleChanges : Prop :=
  ∀ (s : State) (a b : GIdx),
    let c := s.cap a
    let no (u : State) (i : Instr) (t : Bool) : Prop := Runs i s ((u.setP 7 (BitVec.allOnes 64) t).past 4)
    let yes (u : State) (i : Instr) (t : Bool) : Prop := Runs i s ((u.setP 7 0 t).past 4)
    let away (u : State) (i : Instr) (t : Bool) : Prop := Runs i s ((u.draw.2.setP 7 (Claims.all64 (u.draw.1 % 2 == 1)) t).past 4)
    let t := s.t2 a b
    (Claims.handleOk c c.permW → Claims.arrived s c.addr →
      (s.handleView c.addr = .stale → no (s.release 4) (.hful a b) t ∧ no (s.release 4) (.hbrk a b) t) ∧
      (s.handleView c.addr = .remote → away (s.release 5) (.hful a b) t ∧ away (s.release 5) (.hbrk a b) t) ∧
      (∀ pi k h, s.handleView c.addr = .here pi k h → let u := s.release (if h.xdev then 5 else 4)
        (h.unresolved = false → no u (.hful a b) t ∧ no u (.hbrk a b) t) ∧
        (h.unresolved = true →
          let f := u.fulfil pi k h (s.g b) s.myCore
          let w := u.breakEntry pi k h 7 0 ((s.x b).setWidth 32) (h.id s.devId k)
          yes f (.hful a b) t ∧ yes w (.hbrk a b) t ∧
          (h.drop = false → ∃ h1 h2, Table.find? (f.part pi).entries k = some h1 ∧ h1.state = .fulfilled ∧ h1.value = s.g b ∧ h1.msgs = [] ∧
            Table.find? (w.part pi).entries k = some h2 ∧ h2.state = .broken ∧ h2.reason = 7 ∧ h2.user = (s.x b).setWidth 32 ∧ h2.origin = h.id s.devId k) ∧
          (h.drop = true → ∃ h1 h2, Table.find? (f.part pi).entries k = some h1 ∧ h1.state = .free ∧
            Table.find? (w.part pi).entries k = some h2 ∧ h2.state = .free))) ∧
      (∀ va g s1 z, capCheckAt (s.cap b) [0] { r := true, w := true } (s.cap b).addr.toNat 64 64 = .ok va → s.loadAt .load va 4 = .ok (g, s1) → g.nat ≠ 0 →
        capCheckAt (s.cap b) [0] { r := true, w := true } (s.cap b).addr.toNat (64 + 32 * g.nat) 64 = .ok z → let tb := t || g.taint
        let n := s1.burden.1
        let s2 := s1.burden.2
        (s1.handleView c.addr = .stale → no s1 (.hbind a b) tb) ∧
        (s1.handleView c.addr = .remote → (16 ≤ n → no s2 (.hbind a b) tb) ∧
          (n < 16 → s2.draw.1 % 2 = 1 → no s2.draw.2 (.hbind a b) tb) ∧
          (n < 16 → s2.draw.1 % 2 = 0 → yes (s2.draw.2.modMe (fun m => { m with farBound := m.farBound + 1 })) (.hbind a b) tb)) ∧
        (∀ pi k h, s1.handleView c.addr = .here pi k h →
          let may := h.resp.any (fun r => decide (r.1 = s.me?)) = true ∨ n < 16
          (h.state = .unbound → may → yes (s2.setEntry pi k { h with
            state := .bound, box := some ⟨va, g.nat, s.ctx, (s.cap b).permStc, s.me?⟩, home := s.myCore, resp := some (s.me?, s.me.stage) }) (.hbind a b) tb) ∧
          (h.state ≠ .unbound ∨ ¬ may → no s2 (.hbind a b) tb)))) ∧
    (let mine (e : Nat × Part) : Nat := e.2.entries.countP (fun x => x.2.unresolved && x.2.resp.any (fun r => decide (r.1 = s.me?)))
      let here := (s.parts.map mine).sum
      here ≤ s.burden.1 ∧ s.burden.1 ≤ here + s.me.farBound ∧ (s.me.farBound = 0 → s.burden.2 = s)) ∧
    (Claims.handleOk c c.permR → Claims.arrived s c.addr →
      (s.handleView c.addr = .stale → no s (.hdrop a) (s.g a).taint) ∧ (s.handleView c.addr = .remote → away s (.hdrop a) (s.g a).taint) ∧
      (∀ pi k h, s.handleView c.addr = .here pi k h →
        (h.unresolved = true → yes (s.setEntry pi k { h with drop := true }) (.hdrop a) (s.g a).taint) ∧
        (h.unresolved = false → yes (s.freeEntry pi k h) (.hdrop a) (s.g a).taint))) ∧
    (¬ Claims.arrived s c.addr → (Claims.handleOk c c.permW → Stalls (.hful a b) s ∧ Stalls (.hbrk a b) s) ∧
      (Claims.handleOk c c.permR → Stalls (.hdrop a) s))

namespace Sys2Proof.Claims

/-- A handle allocated and returned (R294): with none left gD is zero and p7 all ones, nothing sent; else gD is the invoker's capability
and p7 zero, and the machine is what `sent` makes of the released one. -/
def returned (i : Instr) (s u : State) (d : GIdx) (t far : Bool) (sent : Nat → Dword → State → State) : Prop :=
  let slice := 2 * s.myCluster + s.myCore % 2
  (u.allocate slice far (d == 0) = none → Runs i s (((u.setG d ⟨0, false, t⟩).setP 7 (BitVec.allOnes 64) t).past 4)) ∧
  (∀ k id w, u.allocate slice far (d == 0) = some (k, id, w) → Runs i s
    ((sent k id (((w.release (if far then 5 else 4)).setG d ⟨(invokerCap id).bits, true, false⟩).setP 7 0 t)).past 4))

/-- A new handle that breaks at once (R291, R394). -/
def brokenNew (u : State) (k : Nat) (id : Dword) (reason : Nat) : State := match Table.find? (u.part u.myPart).entries k with
  | some h => u.breakEntry u.myPart k h reason 0 0 id
  | none => u

/-- A granule of a service record, as a register holds it. -/
def granule (g : Got) : GReg := ⟨BitVec.ofNat 128 g.nat, g.tag && !(Cap.malformed ⟨BitVec.ofNat 128 g.nat, true⟩), g.taint⟩

end Sys2Proof.Claims

/-- R287, R288, R292 to R295, R299: SENDH releases and sends its value; INVON with an executable code capability, and INVOKE and INVAT with a readable record
whose checks pass, allocate a handle and return its capability with p7 zero, their message sent; with no handle left they give zero with p7 all ones and send
nothing. INVAT's placement word is gB's. A record for a device that is absent breaks its handle, as INVON's breaks on a handle of a device
with no partition of the set (R394), and what goes to another device leaves the machine. The key and the ring of INVON's record, and what
goes to another device and comes back, are the model's choices (log entries 77 and 51). -/
def Sys2Proof.Claims.InvocationResults : Prop :=
  ∀ (s : State) (d a b : GIdx),
    (Claims.handleOk (s.cap a) (s.cap a).permInvoke → let far := decide (s.handleView (s.cap a).addr = .remote)
      let shut := s.noMember (s.cap a).addr
      (far = true → Runs (.sendh a b) s ((s.release 5).past 4)) ∧
      (far = false → ∃ t m, Runs (.sendh a b) s t ∧ t.hmsgs = s.hmsgs ++ [m] ∧ m.id = (s.cap a).addr ∧ m.body = .send (s.g b) ∧ m.src = s.strandSrc s.cur ∧
        m.seq = Table.getD s.hseq (s.strandSrc s.cur, (s.cap a).addr) 0 ∧ t.me.regs = s.me.regs) ∧
      (∀ args c, s.invokeArgs = .ok args → (TaskRec.ofGranules (s.g b) GReg.zero GReg.zero GReg.zero none).check = .ok c →
        Claims.returned (.invon d a b) s s d (s.t2 a b || s.eT 0) (far || shut)
          (fun k id u => if shut then Claims.brokenNew u k id 4 else if far then u else u.sendMsg (s.cap a).addr (.invon c args id)))) ∧
    (∀ va g0 s1 g1 s2 g2 s3 code args, capCheckAt (s.cap a) [2] { r := true, ldc := true, invoke := true } (s.cap a).addr.toNat 48 16 = .ok va →
      s.loadAt .capLoad va 16 = .ok (g0, s1) → s1.loadAt .capLoad (va + 16) 16 = .ok (g1, s2) → s2.loadAt .load (va + 32) 16 = .ok (g2, s3) →
      let r := TaskRec.ofGranules (Claims.granule g0) (Claims.granule g1) ⟨0, false, g2.taint⟩ ⟨0, false, false⟩ none
      r.check = .ok code → g2.nat % 2 ^ 128 < 2 ^ 64 → s3.invokeArgs = .ok args →
      ∀ i place tp, (i = .invoke d a ∧ place = BitVec.ofNat 64 g2.nat ∧ tp = g2.taint) ∨ (i = .invat d a b ∧ place = s.x b ∧ tp = (s.g b).taint) →
        placeFlaw place = false → let mode := (place.extractLsb' 0 3).toNat
        let dev := (place.extractLsb' 8 8).toNat
        (mode = 0 → (s.part s.myPart).hasCluster (clusterOfCore (place.extractLsb' 16 11).toNat) = true) →
        let far := decide (mode = 4 ∧ dev ≠ s.devId)
        let dset := (((s.part s.myPart).reg 0x030).extractLsb' 8 8).toNat
        Claims.returned i s s3 d ((s.g a).taint || tp || s.eT 0) far (fun k id u =>
          if far then (if dset ≠ 0 ∧ Config.peerHolds dev dset = true then u else Claims.brokenNew u k id 4)
          else u.sendMsg id (.record place s.myCore { r with key := place.extractLsb' 32 32, callee := some ⟨id, args, s.myCluster⟩ })))

/-- R289 to R291, R295, R296, R299, R300, R342, R391: a message is served in its source's order, one over a link in the order of its sequence
numbers, or is a route drop where its cluster is in no bitmap of its partition (log entry 127), the handle of an invocation so dropped
hearing that it broke; a SENDH joins an unresolved entry's buffer, or is dropped and counted; MAILBOX_DELIVER writes the slot, taken from WR
as memory holds it (the model's choice, log entry 78), and moves WR on; a link timeout breaks an unresolved handle that spans devices; a
SENDH for a halted context's mailbox is caught in its cluster's spill ring and replayed, in the ring's order for its context, once the
context runs. -/
def Sys2Proof.Claims.HandleMessages : Prop :=
  ∀ (s : State) (index : Nat) (m : HMsg),
    (s.hmsgs[index]? = some m → s.msgBlocked index m = false → s.msgForHalted m = false →
      let u := ({ s with hmsgs := listDrop s.hmsgs index } : State).expectNext m
      exec (.handleMessage index) s = .next (u.landMsg m) ∧
      (s.routed m = false → ∃ t, exec (.handleMessage index) s = .next t ∧ t.parts = (u.count m.part 0x340 1).parts ∧
        let tells (k : Dword) (reason : Nat) (origin : Dword) : Prop :=
          ∃ x, t.hmsgs = u.hmsgs ++ [x] ∧ x.id = k ∧ x.part = m.part ∧ x.body = .broke reason 0 0 origin
        (∀ code args k, m.body = .invon code args k → tells k 5 m.id) ∧ (∀ core v code args k, m.body = .start core v code args k → tells k 4 k) ∧
        (∀ w core r c, m.body = .record w core r → r.callee = some c → tells c.handle 4 c.handle) ∧ (∀ v, m.body = .send v → t.hmsgs = u.hmsgs)) ∧
      (∀ v pi k h, s.routed m = true → m.body = .send v → s.handleIn m.part m.id = .here pi k h → ¬ (h.state = .bound ∧ h.box = none) →
        (h.unresolved = true → h.msgs.length < 65535 → ∃ t x, exec (.handleMessage index) s = .next t ∧
          Table.find? (t.part pi).entries k = some { h with msgs := h.msgs ++ [{ m with place := x }] } ∧ t.hmsgs = listDrop s.hmsgs index) ∧
        (h.unresolved = false → exec (.handleMessage index) s = .next (u.count pi 0x358 1)))) ∧
    (s.hmsgs[index]? = some m → s.fromAway m = true → m.seq ≠ Table.getD s.hseq (m.src, m.id) 0 →
      (∀ pi k h, s.handleIn m.part m.id = .here pi k h → h.state ≠ .broken) → exec (.handleMessage index) s = .next s) ∧
    (∀ q, s.fromAway q = true → (s.expectNext q).hseq = Table.set s.hseq (q.src, q.id) (q.seq + 1)) ∧
    (∀ part k h, Table.find? (s.part part).entries k = some h → h.xdev = true → h.unresolved = true →
      exec (.handleLinkTimeout part k) s = .next (s.breakEntry part k h 8 0 0 (h.id s.devId k))) ∧
    (∀ v pi k h b, s.hmsgs[index]? = some m → m.body = .send v → s.handleIn m.part m.id = .here pi k h → h.box = some b → s.msgBlocked index m = false →
      h.state = .bound → s.boxHalted b = true → (Table.getD s.spills (clusterOfSlot b.owner.slot) []).length < 4096 →
      exec (.spillCatch index) s = .next (({ s with
        hmsgs := listDrop s.hmsgs index
        spills := Table.set s.spills (clusterOfSlot b.owner.slot) (Table.getD s.spills (clusterOfSlot b.owner.slot) [] ++ [⟨b.owner, .handle m⟩]) } : State).expectNext m)) ∧
    (∀ cluster i x q, (Table.getD s.spills cluster [])[i]? = some x → x.body = .handle q →
      (∀ y ∈ (Table.getD s.spills cluster []).take i, s.replays y = false ∧ y.owner ≠ x.owner) →
      (∀ pi k h b, s.handleIn q.part q.id = .here pi k h → h.box = some b → s.boxHalted b = false) →
      exec (.spillReplay cluster) s =
        .next (({ s with spills := Table.set s.spills cluster (listDrop (Table.getD s.spills cluster []) i) } : State).landMsg q)) ∧
    (∀ part k h b i id p src seq cl v place bs tn s1, Table.find? (s.part part).entries k = some h → h.box = some b → h.state = .bound → s.boxHalted b = false →
      h.msgs.findIdx? (fun m => match m.body with | .send _ => true | _ => false) = some i → h.msgs[i]? = some ⟨id, p, src, seq, cl, .send v, place⟩ →
      s.readVirt b.ctx (b.addr + 8) 16 = .ok (bs, tn, s1) → (ofBytes bs % 2 ^ 64 + 2 ^ 64 - ofBytes bs / 2 ^ 64) % 2 ^ 64 < b.cap →
      ∀ t0 s2 s4 s5 t1 s6, let wr := ofBytes bs % 2 ^ 64
        let slot := b.addr + BitVec.ofNat 64 (64 + 32 * (wr % b.cap))
        s1.translate b.ctx (if v.tag && b.stc then .capStore else .engineWrite) (v.tag && b.stc) slot = .ok (t0, s2) →
        (s2.writeCapHome t0.loc v.bits (v.tag && b.stc) v.taint).writeVirt b.ctx (slot + 16) (toBytes 16 (src + 2 ^ 32 * (seq % 2 ^ 32))) v.taint = .ok s4 →
        s4.writeVirt b.ctx (b.addr + 8) (toBytes 8 (wr + 1)) false = .ok s5 →
        s5.translate b.ctx .engineWrite false (b.addr + 8) = .ok (t1, s6) →
        let u := s6.unitSync (if h.xdev then 5 else 4) (.slice h.slice) t1.loc
        exec (.mailboxDeliver part k) s =
          .next (u.setEntry part k { Table.getD (u.part part).entries k h with msgs := listDrop h.msgs i }))

/-! ## Control registers, traps, privileged instructions -/

namespace Sys2Proof.Claims

/-- How many layers of a set are present. -/
def countLayers (l : BitVec 144) : Nat := (List.range 144).countP l.getLsbD

/-- The registers below 0x4000 that CSRR may name, with what each shows (R304 to R306, R19, R20, R224, R253, R260, R262, R279). -/
def shows (s : State) (i : Nat) : Option Dword :=
  let c := s.me.csr
  let core := s.core (s.cur / 4)
  let crew := s.crew ⟨s.me.launch, s.cur / 128⟩
  match i with
  | 0x00 => some s.time
  | 0x01 => some (BitVec.ofNat 64 (2 ^ 24 * s.devId + 2 ^ 11 * s.cur))
  | 0x02 => some (BitVec.ofNat 64 s.me.stage)
  | 0x03 => some (match s.myChain with
    | some (_, k) => if k.folded then 3 else 2
    | none => 0)
  | 0x04 => some (BitVec.ofNat 64 (s.me.ctr.l + 2 ^ 8 * s.me.ctr.s + 2 ^ 16 * s.me.ctr.c + 2 ^ 24 * s.me.ctr.t + 2 ^ 32 * s.me.ctr.mj))
  | 0x05 => some (BitVec.ofNat 64 (2 ^ 16 * s.devId + s.cur))
  | 0x10 => some c.fmta
  | 0x11 => some c.fmtb
  | 0x12 => some c.fmte
  | 0x13 => some c.scla
  | 0x14 => some c.sclb
  | 0x15 => some (c.sclm.setWidth 64)
  | 0x16 => some (core.chkn.setWidth 64)
  | 0x20 => some (c.frm.setWidth 64)
  | 0x21 => some (c.fflg.setWidth 64)
  | 0x30 => some (crew.lclk.setWidth 64)
  | 0x31 => some crew.lawb
  | 0x32 => some (crew.stick.setWidth 64)
  | 0x40 => some (BitVec.ofNat 64 (2 ^ 63 * c.taintSticky.toNat + c.taintCount.toNat))
  | 0x41 => some (if s.dmode s.me.launch then 1 else 0)
  | 0x50 => some (core.channels[0].next ++ core.channels[0].done)
  | 0x51 => some (core.channels[1].next ++ core.channels[1].done)
  | 0x52 => some (core.channels[2].next ++ core.channels[2].done)
  | 0x53 => some (core.channels[3].next ++ core.channels[3].done)
  | 0x54 => some (core.channels[4].next ++ core.channels[4].done)
  | 0x55 => some (core.channels[5].next ++ core.channels[5].done)
  | 0x56 => some (core.channels[6].next ++ core.channels[6].done)
  | 0x57 => some (core.channels[7].next ++ core.channels[7].done)
  | 0x60 => some (c.trapv.setWidth 64)
  | 0x61 => some (c.tcause.setWidth 64)
  | 0x62 => some c.tval
  | 0x63 => some c.tepc
  | 0x64 => some (BitVec.ofNat 64 (c.inh.toNat + 2 ^ 4 * c.stg.toNat))
  | 0x65 => some c.repi
  | 0x66 => some (core.chkt.setWidth 64)
  | _ => none

/-- The same at 0x4000 and above, for code with SYS (R178, R304 to R306). -/
def showsSys (s : State) (i : Nat) : Option GReg := match i with
  | 0x4000 => some ⟨s.me.csr.asid.setWidth 128, false, false⟩
  | 0x4001 => some ⟨BitVec.ofNat 128 (2 ^ 12 * s.me.csr.ptbr.toNat), false, false⟩
  | 0x4002 => some ⟨BitVec.ofNat 128 s.myPart, false, false⟩
  | 0x4003 => some ⟨((s.part s.myPart).reg 0x088 &&& 0x0000FFFFFFFFF00F).setWidth 128, false, false⟩
  | 0x4004 => some ⟨(BitVec.ofNat 64 (2 ^ 32 * countLayers ((s.part s.myPart).layers &&& s.sys.layers))).setWidth 128, false, false⟩
  | 0x4005 => some ⟨BitVec.ofNat 128 (2 ^ 64 * 0x3F000100FF0000E0 + 1), true, false⟩
  | _ => none

/-- An address field, bits 47:lo, sign-extended from bit 47. -/
def addrField (lo : Nat) (v : Dword) : Dword := ((v.extractLsb' 0 48) &&& ~~~(BitVec.ofNat 48 (2 ^ lo - 1))).signExtend 64

/-- The strand's own registers below 0x4000 that CSRW may name: what a write leaves of its fields; the others keep what they were (R305, R306). -/
def takes (c : Csr) (i : Nat) (v : Dword) : Option Csr := match i with
  | 0x10 => some { c with fmta := v &&& 0x00FFFF0000000003 }
  | 0x11 => some { c with fmtb := v &&& 0x00FFFF0000000003 }
  | 0x12 => some { c with fmte := v &&& 0x00FFFF0000000003 }
  | 0x13 => some { c with scla := addrField 2 v }
  | 0x14 => some { c with sclb := addrField 2 v }
  | 0x15 => some { c with sclm := v.setWidth 2 }
  | 0x20 => some { c with frm := v.setWidth 2 }
  | 0x21 => some { c with fflg := v.setWidth 5 }
  | 0x40 => some { c with taintSticky := v.getLsbD 63, taintCount := v.setWidth 32 }
  | 0x60 => some { c with trapv := v.setWidth 49 }
  | 0x61 => some { c with tcause := v.setWidth 8 }
  | 0x62 => some { c with tval := v }
  | 0x63 => some { c with tepc := v }
  | 0x64 => some { c with stg := BitVec.ofNat 4 (v.toNat / 16), inh := v.getLsbD 0 }
  | 0x65 => some { c with repi := v &&& 0x87FFFFFFFFFFFFFF }
  | _ => none

/-- ASID and PTBR. -/
def takesSys (c : Csr) (i : Nat) (v : Dword) : Option Csr := match i with
  | 0x4000 => some { c with asid := v.setWidth 16 }
  | 0x4001 => some { c with ptbr := v.extractLsb' 12 36 }
  | _ => none

/-- Cause 0x03 at the instruction's own address, for code without SYS in PCC (R162). -/
def needsSys (i : Instr) (s : State) : Prop := s.sysMode = false → Traps i s 0x03 s.pc ((s.me.pcc.bits.extractLsb' 64 64).setWidth 128)

end Sys2Proof.Claims

/-- R303 to R306, R150, R178: EXT loads an extension register; CSRR of every register below 0x4000 shows it, TIME tainted always and SID and FORM in a chain; one
at or above needs SYS; one that the list lacks is cause 0x01 with the instruction's word. -/
def Sys2Proof.Claims.ControlRegisterReads : Prop :=
  ∀ (s : State) (d : GIdx) (i : BitVec 15) (k : PIdx) (imm : BitVec 16),
    Runs (.ext k false imm) s ((s.setE k (imm.setWidth 32) false).past 4) ∧
    Runs (.ext k true imm) s ((s.setE k (imm ++ (s.e k).setWidth 16) (s.eT k)).past 4) ∧
    (∀ v, Claims.shows s i.toNat = some v →
      let t := decide (i.toNat = 0 ∨ (i.toNat = 1 ∨ i.toNat = 3) ∧ s.me.chain.isSome = true)
      Runs (.csrr d i) s (((s.setG d (Claims.asData v t)).taintEventIf t).past 4)) ∧
    (∀ g, Claims.showsSys s i.toNat = some g → s.sysMode = true → Runs (.csrr d i) s ((s.setG d g).past 4)) ∧
    (∀ g, Claims.showsSys s i.toNat = some g → Claims.needsSys (.csrr d i) s) ∧
    (Claims.shows s i.toNat = none → Claims.showsSys s i.toNat = none → Traps (.csrr d i) s 0x01 (s.word.setWidth 64) 0)

/-- R304 to R306, R150, R238, R259: CSRW writes a register's fields and nothing else; CHKN sets the block count of the core's TMMAs anew, CHKT its tolerance, LAWB and
STICK the crew's; ASID and PTBR need SYS; a read-only register and one that the list lacks are cause 0x01; a tainted source is a taint event. -/
def Sys2Proof.Claims.ControlRegisterWrites : Prop :=
  ∀ (s : State) (d : GIdx) (i : BitVec 15),
    let v := s.x d
    let done (t : State) : Prop := Runs (.csrw d i) s ((t.taintEventIf (s.g d).taint).past 4)
    (∀ c, Claims.takes s.me.csr i.toNat v = some c → done (s.modCsr (fun _ => c))) ∧
    (∀ c, Claims.takesSys s.me.csr i.toNat v = some c → (s.sysMode = true → done (s.modCsr (fun _ => c))) ∧ Claims.needsSys (.csrw d i) s) ∧
    (i.toNat = 0x16 → done (s.writeChkn (s.cur / 4) v)) ∧
    (i.toNat = 0x66 → done (s.modCore (s.cur / 4) (fun k => { k with chkt := v.setWidth 32 }))) ∧
    (i.toNat = 0x31 → done (s.modCrew ⟨s.me.launch, s.cur / 128⟩ (fun c => { c with lawb := Claims.addrField 6 v }))) ∧
    (i.toNat = 0x32 → done (s.writeStick ⟨s.me.launch, s.cur / 128⟩ v)) ∧
    (Claims.takes s.me.csr i.toNat v = none → Claims.takesSys s.me.csr i.toNat v = none → i.toNat ≠ 0x16 → i.toNat ≠ 0x66 → i.toNat ≠ 0x31 → i.toNat ≠ 0x32 →
      Traps (.csrw d i) s 0x01 (s.word.setWidth 64) 0)

/-- R308, R335, R337, R388: TRAP takes the cause it names with its own address as TVAL; ERET goes to TEPC with INH clear, and an odd TEPC is cause
0x08 with INH kept; ECALL parks the strand past itself with a record of cause 0x00 that carries g8, in the fault queue or, with SYS, the system fault queue; SRET
resumes or kills a PARKED strand of its partition whose record has been placed, stalls until it has been, and says in p7 when the slot holds
none. That SRET stalls is the model's reading of R337 (log entry 121), TEPC of ECALL's record is its own address by the model's reading (88),
and TRAP of 0x10 traps whatever SSE holds by its choice (90). -/
def Obligations.TrapInstructions : Prop :=
  ∀ (s : State) (c d a : GIdx),
    Traps (.trap c) s (c.setWidth 8) s.pc 0 ∧
    (s.me.csr.tepc.getLsbD 0 = true → Traps .eret s 0x08 s.me.csr.tepc 0) ∧
    (s.me.csr.tepc.getLsbD 0 = false → Runs .eret s { s with
      me := { (s.me.setPc s.me.csr.tepc) with
        csr := { s.me.csr with inh := false }
        resumed := true
        wait := none }
      retired := true } ∧ (s.me.setPc s.me.csr.tepc).pcc.addr = s.me.csr.tepc) ∧
    (s.me.follow = none → ∃ t, Runs .ecall s t ∧ t.me.status = .parked ∧ t.pc = s.pc + 4 ∧ t.me.regs = s.me.regs ∧ t.me.csr = s.me.csr ∧ (s.burden.1 = 0 → s.me.farBound = 0 → t.mem = s.mem) ∧
      let r : FaultRec := ⟨(s.x 8).setWidth 128, s.pc, 0, s.time.toNat, s.me.csr.asid, BitVec.ofNat 4 s.me.stage, 0, 2 ^ 16 * s.devId + s.cur, true⟩
      (s.sysMode = false → (s.part s.myPart).state ≠ 0 → (t.part s.myPart).faults = (s.part s.myPart).faults ++ [(r, s.time.toNat)] ∧ t.sys.faults = s.sys.faults) ∧
      (s.sysMode = true → t.sys.faults = s.sys.faults ++ [(r, s.time.toNat, s.myPart)])) ∧
    (let slot := (s.x a).toNat % 2 ^ 13
     let m := s.strand slot
     let tn := (s.g a).taint
     (s.sysMode = true → m.status = .parked → m.launch.part = s.myPart → s.recordWaits slot = true → Stalls (.sret d a) s) ∧
     (s.sysMode = true → m.status = .parked → m.launch.part = s.myPart → s.recordWaits slot = false →
       (BitVec.getLsbD (s.x a) 63 = false → Runs (.sret d a) s ((((s.modStrand slot (fun m => { m with
         status := .ready, wait := none, resumed := true, sysPark := false })).setG d ⟨0, false, tn⟩).setP 7 0 tn).past 4)) ∧
       (BitVec.getLsbD (s.x a) 63 = true → ∃ t, Runs (.sret d a) s t ∧
         (m.chain = none → slot ≠ s.cur → (t.strand slot).status = .free ∧ t.me.regs = (s.me.regs.wg d ⟨0, false, tn⟩).wp 7 ⟨0, tn⟩))) ∧
     (s.sysMode = true → (m.status ≠ .parked ∨ m.launch.part ≠ s.myPart) → Runs (.sret d a) s ((s.setP 7 (BitVec.allOnes 64) tn).past 4)) ∧
     Claims.needsSys (.sret d a) s)

namespace Sys2Proof.Claims

/-- The fields of e0 that the invalidations read: an ASID unless bit 16 says every one, and bit 17 for G entries (R309). -/
def space (s : State) : Option (BitVec 16) × Bool := (if (s.e 0).getLsbD 16 then none else some ((s.e 0).setWidth 16), (s.e 0).getLsbD 17)

def spaceOk (s : State) : Prop := (s.e 0).toNat < 2 ^ 18

/-- The request of an invalidation, after its release at DEVICE scope (R310). -/
def inval (s : State) (lo hi : Nat) (async : Bool) : State :=
  let r := s.release 4
  { r with invals := r.invals ++ [⟨s.me?, s.myPart, (space s).1, (space s).2, lo, hi, async⟩] }

end Sys2Proof.Claims

/-- R309, R310, R163: TLBIR asks for its range and waits until every unit has acknowledged, then acquires; TLBIRA and TLBIA ask and go on, a ninth outstanding one stalls;
TLBW waits for them all, an acquire. A range that is not whole pages, an empty one and a reserved field of e0 are cause 0x01. -/
def Sys2Proof.Claims.InvalidationResults : Prop :=
  ∀ (s : State) (a b : GIdx),
    let lo := (s.x a).toNat
    let n := (s.x b).toNat
    Claims.needsSys (.tlbir a b) s ∧ Claims.needsSys (.tlbira a b) s ∧ Claims.needsSys .tlbia s ∧ Claims.needsSys .tlbw s ∧
    (s.sysMode = true →
      (lo % 4096 = 0 → n % 4096 = 0 → n ≠ 0 → Claims.spaceOk s →
        (s.me.wait = none → Pauses (.tlbir a b) s (Claims.inval s lo (lo + n) false) .inval) ∧
        (s.me.ctr.inval < 8 → Runs (.tlbira a b) s (((Claims.inval s lo (lo + n) true).modCtr (fun c => { c with inval := c.inval + 1 })).past 4)) ∧
        (8 ≤ s.me.ctr.inval → Stalls (.tlbira a b) s)) ∧
      (∀ w t e, s.me.wait = some ⟨w, .inval, t, true, e⟩ → Runs (.tlbir a b) s ((s.acquire 4).past 4)) ∧
      (∀ w t e, s.me.wait = some ⟨w, .inval, t, false, e⟩ → Waits (.tlbir a b) s .inval) ∧
      (Claims.spaceOk s →
        (s.me.ctr.inval < 8 → Runs .tlbia s (((Claims.inval s 0 (2 ^ 64) true).modCtr (fun c => { c with inval := c.inval + 1 })).past 4)) ∧
        (8 ≤ s.me.ctr.inval → Stalls .tlbia s)) ∧
      (¬ Claims.spaceOk s → Traps .tlbia s 0x01 ((s.e 0).setWidth 64) 0 ∧ (lo % 4096 = 0 → n % 4096 = 0 → n ≠ 0 →
        Traps (.tlbira a b) s 0x01 ((s.e 0).setWidth 64) 0 ∧ (s.me.wait = none → Traps (.tlbir a b) s 0x01 ((s.e 0).setWidth 64) 0))) ∧
      ((lo % 4096 ≠ 0 ∨ n % 4096 ≠ 0 ∨ n = 0) → s.me.wait = none → Traps (.tlbir a b) s 0x01 (s.x a) 0 ∧ Traps (.tlbira a b) s 0x01 (s.x a) 0) ∧
      (s.me.ctr.inval = 0 → Runs .tlbw s ((s.acquire 4).past 4)) ∧
      (s.me.ctr.inval ≠ 0 → Waits .tlbw s .invalAll))

/-- R119, R121, R310, R311, R396, R402, R403, R419, R420: an invalidation with no older write of its space under way is acknowledged: no TLB of its partition
keeps a leaf it takes, no window a page of one, and its issuer learns of it (in one step, the model's choice, log entry 54). MIGR of a stalled leaf whose new frame is aligned and present asks for the copy
and waits; MIGRATION_COMMIT of a leaf whose frame can be read whole, to a present one, copies the bytes through the homes, what the device
knows by place following, and sends the entry's invalidation; where it cannot, the MIGR ends. PINS pins a page of its own window; UNPN unpins
it, and says in p7 when the window is of a core outside the partition. That PINS and UNPN check no capability, and what PINS does outside the
windows, are the model's choices (log entry 55), and so is MIGR's check of R and W over 8 bytes (91). A walk caches its leaf, a row that is read is open afterwards, and a
unit that a bad row brings is poisoned. -/
def Sys2Proof.Claims.TranslationUpkeep : Prop :=
  ∀ (s : State) (a b : GIdx),
    (∀ index x, s.invals[index]? = some x → s.invalBusy x = false → ∃ t, exec (.tlbInvalidateAck index) s = .next t ∧
      (∀ core ∈ s.partCores x.part, (∀ e ∈ (t.core core).tlb, x.drops e = false) ∧
        ∀ p ∈ (t.core core).pages,
          x.takes p.asid p.global ((0x7F0000000000 + 0x100000 * core + 4096 * p.page) / 2 ^ p.leaf * 2 ^ p.leaf) (2 ^ p.leaf) = false) ∧
      (∀ cl e, (s.part x.part).hasCluster cl = true → e ∈ Table.getD t.l2tlb cl [] → x.drops e = false)) ∧
    (s.sysMode = true → s.me.wait = none → ∀ va z s1 tr s2 got, capCheckAt (s.cap a) [0] { r := true, w := true } (s.cap a).addr.toNat 8 8 = .ok va →
      s.translate s.ctx .load false va = .ok (z, s1) → s1.translate s.ctx .store false va = .ok (tr, s2) →
      let s3 := ((s2.settleOver tr.loc 8).release 4).evictAt s.myCore tr.loc
      s3.readHome tr.loc 8 = some got →
      let pte : Dword := BitVec.ofNat 64 got.nat
      let leaf := s3.leafAtEntry tr.loc pte
      let new := (s.x b).toNat / 4096 % 2 ^ 36 * 4096
      (Pte.m pte = true → new % 2 ^ leaf.1 = 0 → s3.layerPresent s.myPart new = true → Pauses (.migr a b) s ({ s3 with migrations := s3.migrations ++
          [⟨s.me?, s.myPart, s.me.csr.asid, tr.loc, Pte.frame pte / 2 ^ leaf.1 * 2 ^ leaf.1, new, 2 ^ leaf.1, leaf.2.1, leaf.2.2⟩] } : State) .migrate) ∧
      ((Pte.m pte = false ∨ new % 2 ^ leaf.1 ≠ 0 ∨ s3.layerPresent s.myPart new = false) →
        Runs (.migr a b) s ((s3.setP 7 (BitVec.allOnes 64) (s.t2 a b || got.taint)).past 4))) ∧
    (s.sysMode = true → let tn := s.t2 a b || s.entryTaint a
      (∀ w t e, s.me.wait = some ⟨w, .migrate, t, true, e⟩ → Runs (.migr a b) s (((s.acquire 4).setP 7 0 tn).past 4)) ∧
      (∀ w t, s.me.wait = some ⟨w, .migrate, t, false, true⟩ → Runs (.migr a b) s ((s.setP 7 (BitVec.allOnes 64) tn).past 4)) ∧
      (∀ w t, s.me.wait = some ⟨w, .migrate, t, false, false⟩ → Waits (.migr a b) s .migrate)) ∧
    Claims.needsSys (.migr a b) s ∧ Claims.needsSys (.pins a) s ∧ Claims.needsSys (.unpn a) s ∧
    (∀ index x, s.migrations[index]? = some x →
      let u := (s.partCores x.part).foldl (fun (s : State) c => s.flushCore c) { s with migrations := listDrop s.migrations index }
      (u.mem.wf = true → u.mem.anyPoison x.old x.size = false → u.mem.anyPoison x.new x.size = false → 64 ≤ x.size → x.old % 64 = 0 → x.new % 64 = 0 →
      (∃ p, u.placeOf (State.unitCtx x.part x.asid 0) .engineRead 0 x.old 0 = .ok (.mem p)) → u.layerPresent x.part x.new = true →
      ∃ t, exec (.migrationCommit index) s = .next t ∧ t.invals = u.invals ++ [⟨x.owner, x.part, some x.asid,
        Pte.g (BitVec.ofNat 64 ((State.notice (({ u with mem := u.mem.copyFrame x.old x.new x.size } : State).movePlaces (.mem x.old) x.new x.size)).homeNat x.pte 8)),
          x.lo, x.hi, false⟩] ∧
        (∀ k, k < x.size → (u.mem.copyFrame x.old x.new x.size).byte (x.new + k) = u.mem.byte (x.old + k)) ∧
        t.fires = u.fires.map (fun r => { r with entry := { r.entry with loc := Loc.moved (.mem x.old) x.new x.size r.entry.loc } })) ∧
      ((∀ l, u.placeOf (State.unitCtx x.part x.asid 0) .engineRead 0 x.old 0 ≠ .ok l) ∨ u.layerPresent x.part x.new = false →
        ∃ t, exec (.migrationCommit index) s = .next t ∧ t.invals = u.invals ∧
          (s.alive x.owner = true → ∀ w, (s.strand x.owner.slot).wait = some w → (t.strand x.owner.slot).wait = some { w with expired := true }))) ∧
    (s.sysMode = true → inScratchRange (s.x a).toNat = true →
      (∀ core page frame off pte z s1, s.translate s.ctx .load false (s.x a) = .ok (⟨.scratch core page frame off, pte, z⟩, s1) →
        Runs (.pins a) s (((s1.modPage core page frame (fun p => { p with explicit := true })).setP 7 0 (s.g a).taint).past 4)) ∧
      (s.translate s.ctx .load false (s.x a) = .error .stall → Runs (.pins a) s ((s.setP 7 (BitVec.allOnes 64) (s.g a).taint).past 4)) ∧
      (let n := (s.x a).toNat - 0x7F0000000000
       let mine := (s.part s.myPart).hasCluster (n / 2 ^ 25)
       (mine = false → Runs (.unpn a) s ((s.setP 7 (BitVec.allOnes 64) (s.g a).taint).past 4)) ∧
       (mine = true → Runs (.unpn a) s ((s.modCore (n / 2 ^ 20) (fun k => { k with pages := k.pages.map (fun p =>
         if p.page = n % 2 ^ 20 / 4096 ∧ p.asid = s.me.csr.asid then { p with pinned := false, explicit := false } else p) })).past 4)))) ∧
    (s.sysMode = true → inScratchRange (s.x a).toNat = false →
      Runs (.pins a) s ((s.setP 7 (BitVec.allOnes 64) (s.g a).taint).past 4) ∧ Runs (.unpn a) s (s.past 4)) ∧
    (∀ slot va size pte s1, (s.strand slot).status ≠ .free → s.leaf (s.ctxOf slot) (va.toNat % 2 ^ 48) = .ok (size, pte, s1) →
      exec (.pageWalk slot va) s = .next s1) ∧
    (∀ slot page z s1, (s.strand slot).status = .ready → (s.strand slot).exiting = false → page < 64 →
      s.translate (s.ctxOf slot) .load false (BitVec.ofNat 64 (0x7F0000000000 + 0x100000 * (slot / 4) + 4096 * page)) = .ok (z, s1) →
      exec (.pageFill slot page) s = .next s1) ∧
    (∀ unit bad, unit / 2 ^ 34 % 256 = s.devId → s.sys.layers.getLsbD (unit / 2 ^ 26 % 256) = true →
      let key := bankKey (64 * unit)
      let row := rowOf (64 * unit % 2 ^ 32)
      let ways := Table.getD s.rows key []
      (bad = false → ∃ t, exec (.rowCacheFill unit bad) s = .next t ∧ t.mem = s.mem ∧ ((Table.getD t.rows key []).head?).map (·.row) = some row ∧
        (ways.length ≤ 4 → (Table.getD t.rows key []).length ≤ 4)) ∧
      (bad = true → ways.find? (fun w => w.row == row) = none → (openWay ways).2 = none → ∃ t, exec (.rowCacheFill unit bad) s = .next t ∧
        t.mem = s.mem.poisonUnit unit)) ∧
    (∀ core line, exec (.l1Evict core line) s = .next (s.evictLine core line) ∧ Table.find? ((s.evictLine core line).core core).lines line = none) ∧
    (∀ slot, (s.strand slot).status ≠ .free → ∃ t, exec (.stalledWriteRetry slot) s = .next t ∧ t.mem = s.mem ∧
      ∀ e ∈ (t.core (slot / 4)).tlb, Pte.m e.pte = false ∨ (e.asid ≠ (s.strand slot).csr.asid ∧ Pte.g e.pte = false)) ∧
    (∀ core page p, (s.core core).pages.find? (fun p => p.page == page && !p.pinned && !p.explicit && p.dirty != 0) = some p →
      ∃ t, exec (.pageDrain core page) s = .next t ∧ t.mem = (s.drainPage p).mem ∧ t.me.regs = s.me.regs)

/-- R311, R332, R339 to R343, R408 to R412, R418: PREQ asks for the halt or the resumption of every crew of a RUNNING launch of its partition and waits, p7 zero at the
end, or says in p7 that there is none; SCTX writes a saved context and frees its slot, once no copy that it takes along still runs; LCTX puts
one back, HALTED; TELW appends a software record while the ring has room. PREQ's wait and its p7 are the model's choices (log entry 55), and
so are what SCTX and LCTX put in p7 and what the parts without a layout hold (53). -/
def Sys2Proof.Claims.ContextResults : Prop :=
  ∀ (s : State) (a b : GIdx),
    let slot := (s.x b).toNat % 2 ^ 13
    let tn := s.t2 a b
    (Claims.needsSys (.preq a b) s ∧ Claims.needsSys (.sctx a b) s ∧ Claims.needsSys (.lctx a b) s ∧ Claims.needsSys (.telw a) s) ∧
    (s.sysMode = true →
      (∀ w, s.me.wait = some w → (w.hit = true → Runs (.preq a b) s ((s.setP 7 0 tn).past 4)) ∧ (w.hit = false → Waits (.preq a b) s w.on)) ∧
      (s.me.wait = none →
        (s.launchAt ((s.x a).toNat % 2 ^ 32) = none → Runs (.preq a b) s ((s.setP 7 (BitVec.allOnes 64) tn).past 4)) ∧
        (∀ l, s.launchAt ((s.x a).toNat % 2 ^ 32) = some l →
          let here := l.crews.filter (fun c => !c.gone && !c.out)
          (BitVec.getLsbD (s.x b) 0 = false → Pauses (.preq a b) s
            (here.foldl (fun (u : State) c => u.askHalt ⟨l.id, c.cluster⟩ (2 ^ 16 * s.devId + s.cur) none) s) (.preempt l.id true)) ∧
          (BitVec.getLsbD (s.x b) 0 = true →
            let halted := here.filter (fun c => c.halted || (s.crewSlots ⟨l.id, c.cluster⟩).any (fun q => (s.strand q).status == .halted))
            (halted.any (fun c => s.sectionAway ⟨l.id, c.cluster⟩) = true → Runs (.preq a b) s ((s.setP 7 (BitVec.allOnes 64) tn).past 4)) ∧
            (halted.any (fun c => s.sectionAway ⟨l.id, c.cluster⟩) = false → Pauses (.preq a b) s
              (halted.foldl (fun (u : State) c => u.modPlaced ⟨l.id, c.cluster⟩ (fun c => { c with resuming := true })) s) (.preempt l.id false))))) ∧
      (s.savable slot = false → Runs (.sctx a b) s ((s.setP 7 (BitVec.allOnes 64) tn).past 4)) ∧
      (s.savable slot = true → ∀ va u, let image := s.ctxImage slot s.draw.1
        (s.copyRuns slot image.csec = true → Stalls (.sctx a b) s) ∧
        (s.copyRuns slot image.csec = false →
        capCheckAt (s.cap a) [0] { w := true } (s.cap a).addr.toNat image.size 4096 = .ok va → s.draw.2.storeParts va image.parts = .ok u →
        ∃ t, Runs (.sctx a b) s t ∧ t.mem = u.mem ∧ (slot ≠ s.cur → (t.strand slot).status = .free ∧ t.me.regs = s.me.regs.wp 7 ⟨0, tn⟩))) ∧
      ((s.strand slot).status ≠ .free ∨ (s.part s.myPart).hasCluster (slot / 128) = false → Runs (.lctx a b) s ((s.setP 7 (BitVec.allOnes 64) tn).past 4)) ∧
      ((s.strand slot).status = .free → (s.part s.myPart).hasCluster (slot / 128) = true → ∀ va low z u,
        capCheckAt (s.cap a) [0] { r := true } (s.cap a).addr.toNat 0x3000 4096 = .ok va → s.readThrough va 0x3000 = .ok (low, z, u) →
        let h := CtxHead.ofNat (ofBytes (low.take 64))
        (h.bits % 2 ^ 16 ≠ 0x5343 ∨ h.bits / 2 ^ 20 % 2 ^ 13 ≠ slot ∨ s.ctxHeld (slot / 4) h = true →
          Runs (.lctx a b) s ((s.setP 7 (BitVec.allOnes 64) (tn || z)).past 4)) ∧
        (h.bits % 2 ^ 16 = 0x5343 → h.bits / 2 ^ 20 % 2 ^ 13 = slot → s.ctxHeld (slot / 4) h = false → ∀ q x w,
          capCheckAt (s.cap a) [0] { r := true } (s.cap a).addr.toNat h.at3 4096 = .ok q → u.readImage va h = .ok (x, w) →
          ∃ t, Runs (.lctx a b) s t ∧ t.mem = w.mem ∧ (slot ≠ s.cur → (t.strand slot).status = .halted ∧ (t.strand slot).pcc = x.pcc ∧
            (t.strand slot).regs = State.regsOfImage x.gs low ∧ t.me.regs = s.me.regs.wp 7 ⟨0, tn || z || x.taint⟩))) ∧
      (∀ va bs tb u, capCheckAt (s.cap a) [0] { r := true } (s.cap a).addr.toNat 32 1 = .ok va → s.readThrough va 32 = .ok (bs, tb, u) →
        (u.telFull s.myPart = true → Runs (.telw a) s ((u.setP 7 (BitVec.allOnes 64) ((s.g a).taint || tb)).past 4)) ∧
        (u.telFull s.myPart = false → ∃ t, Runs (.telw a) s t ∧ t.mem = u.mem ∧ t.me.regs = u.me.regs.wp 7 ⟨0, (s.g a).taint || tb⟩ ∧
          (t.part s.myPart).tel = (u.part s.myPart).tel ++ [⟨BitVec.ofNat 256 (ofBytes bs), tb, 2, s.time.toNat, 2 ^ 16 * s.devId + s.cur⟩])))

/-- R339 to R343, R276, R332: a request reaches its crew's cores at one time, and seeks to fold the crew's spread chains; 1,000 ns after the
chain window closes copies no longer hold the halt up; a crew with nothing left to complete halts, with a fence of what it wrote, and posts a record of cause 0x11; a crew
told to resume goes on from where it stood, and a chain the pre-emption folded has its cores-return trigger, whose cut January seeks once its
strand is READY (R349). -/
def Sys2Proof.Claims.PreemptionEvents : Prop :=
  ∀ (s : State) (part age cluster : Nat), let k : CrewId := ⟨⟨part, age⟩, cluster⟩
    (∀ c h, s.placed? k = some c → c.halting = some h → (s.launch? k.launch).isSome = true → age ≠ 0 →
      (h.reached = none → ∃ t, exec (.preemptRequest part age cluster h.src) s = .next t ∧ t.mem = s.mem ∧ t.me.regs = s.me.regs ∧
        (∃ h', (t.placed? k).bind (·.halting) = some h' ∧ h'.reached = some s.time.toNat ∧ h'.src = h.src ∧ h'.drained = h.drained ∧
          ((∀ x ∈ Table.getD t.chains cluster [], x.launch = k.launch → ∀ tr ∈ x.triggers, tr.1 ≠ .preempt) → h'.shut ≠ none)) ∧
        ∀ id r, s.findChain cluster id = some r → r.launch = k.launch → r.folded = false → r.pinned = false → r.ended = false → r.triggers = [] →
          ∃ q, t.findChain cluster id = some q ∧ (q.triggers.any (fun x => decide (x.1 = .preempt))) = true) ∧
      (∀ t0, h.shut = some t0 →
        (t0 + 1000 ≤ s.time.toNat → h.drained = false → ∃ t, exec (.copyDrainExpiry part age cluster) s = .next t ∧
          (t.placed? k).bind (·.halting) = some { h with drained := true } ∧ t.mem = s.mem) ∧
        (s.time.toNat < t0 + 1000 → exec (.copyDrainExpiry part age cluster) s = .next s)) ∧
      (h.shut = none → exec (.copyDrainExpiry part age cluster) s = .next s) ∧
      (∀ t0, h.reached = some t0 →
        (s.haltReady k h = false → exec (.preemptHaltComplete part age cluster) s = .next s) ∧
        (s.haltReady k h = true → h.src ≠ 2 ^ 16 * s.devId + 5 * 2 ^ 13 + 18 → ∃ t, exec (.preemptHaltComplete part age cluster) s = .next t ∧
          (∀ slot ∈ s.crewSlots k, (s.strand slot).status ≠ .parked → (t.strand slot).status = .halted ∧ (t.strand slot).regs = (s.strand slot).regs) ∧
          ((s.part part).state ≠ 0 → (s.part part).faults.length < 64 → ∃ r, (t.part part).faults = (s.part part).faults ++ [(r, s.time.toNat)] ∧
            r.cause = 0x11 ∧ r.src = h.src ∧ r.parked = false)))) ∧
    (∀ c, s.placed? k = some c → c.resuming = true → s.sys.held = false → ∃ t, exec (.crewResume part age cluster) s = .next t ∧ t.mem = s.mem ∧
      (∀ slot ∈ s.crewSlots k, (t.strand slot).regs = (s.strand slot).regs) ∧
      ((∀ x ∈ Table.getD s.chains cluster [], ∀ tr ∈ x.triggers, ∀ sl f, tr.1 ≠ .request sl f) →
        ∀ slot ∈ s.crewSlots k, (t.strand slot).status = (if (s.strand slot).status = .halted then (s.strand slot).prior else (s.strand slot).status)) ∧
      ∀ id q, s.findChain cluster id = some q → q.launch = k.launch → q.sched = some false → q.folded = true →
        ∃ q', t.findChain cluster id = some q' ∧ q'.backDue = true ∧ ∃ since, (Trigger.back, since) ∈ q'.triggers)

/-! ## Events of strands and tasks -/

namespace Sys2Proof.Claims

/-- A strand whose wait is over: READY, with what its instruction finds when it issues again. -/
def woken (s : State) (slot : Nat) (w : WaitRec) : State :=
  s.setStrand slot { s.strand slot with status := .ready, wait := some w }

end Sys2Proof.Claims

/-- R25, R31, R33 to R37, R162, R194, R204: an illegal pattern is cause 0x01 with the pattern as TVAL; a strand whose condition holds wakes; WAITA and SLEEP end at
their times and not before, and RJOIN's wait for a leader at a time that the model leaves free (log entry 1); a follower 16 instructions behind detaches; an attached follower takes its turn; an exited strand with L and T zero
frees its slot, and with either left it does not. -/
def Obligations.StrandEvents : Prop :=
  ∀ (s : State) (slot : Nat),
    (∀ (w : Word) half, Traps (.illegalInstruction w half) s 0x01 (if half then (w.setWidth 16).setWidth 64 else w.setWidth 64) 0) ∧
    (∀ w, (s.strand slot).status = .waiting → (s.strand slot).wait = some w →
      (s.waitHolds slot w = true → exec (.wake slot) s = .next (Claims.woken s slot { w with hit := true })) ∧
      (s.waitHolds slot w = false → exec (.wake slot) s = .next s) ∧
      (∀ u, w.on = .sleep u → (u ≤ s.time.toNat → exec (.sleepExpiry slot) s = .next (Claims.woken s slot { w with hit := true })) ∧
        (s.time.toNat < u → exec (.sleepExpiry slot) s = .next s)) ∧
      (∀ loc n c v b cls, w.on = .word loc n c v b cls → w.hit = false →
        (cls = 0 → exec (.waitaTimeout slot) s = .next s) ∧
        (cls ≠ 0 → w.since + 2 ^ (4 * cls + 6) ≤ s.time.toNat → exec (.waitaTimeout slot) s = .next (Claims.woken s slot { w with expired := true })) ∧
        (cls ≠ 0 → s.time.toNat < w.since + 2 ^ (4 * cls + 6) → exec (.waitaTimeout slot) s = .next s)) ∧
      (∀ gid b, w.on = .join gid b → w.hit = false → exec (.rjoinTimeout slot) s = .next (Claims.woken s slot { w with expired := true }))) ∧
    (∀ f, (s.strand slot).follow = some f → f.hop ≠ 0 → f.attached = true →
      (16 ≤ f.stream.length → exec (.followerLagDetach slot) s = .next (s.setStrand slot { s.strand slot with follow := f.off }) ∧
        (f.gone = false → ∃ q, f.off = some q ∧ q.attached = false ∧ q.stream = [] ∧ q.gid = f.gid ∧ q.leader = f.leader)) ∧
      (f.stream.length < 16 → exec (.followerLagDetach slot) s = .next s) ∧
      (f.stream ≠ [] → exec (.followerIssue slot) s = .next { s with agenda := ⟨0, .issue slot⟩ :: s.agenda })) ∧
    ((s.strand slot).status = .ready → (s.strand slot).exiting = true → (s.strand slot).chain = none →
      ((s.strand slot).ctr.l = 0 → (s.strand slot).ctr.t = 0 → ∃ t, exec (.strandRetire slot) s = .next t ∧ (t.strand slot).status = .free ∧
        ((∀ e ∈ s.parts, ∀ x ∈ e.2.entries, x.2.resp.any (fun r => decide (r.1 = ⟨slot, (s.strand slot).born⟩)) = false) → t.mem = s.mem)) ∧
      ((s.strand slot).ctr.l ≠ 0 ∨ (s.strand slot).ctr.t ≠ 0 → exec (.strandRetire slot) s = .next s))

/-- R27, R29, R39, R193, R288, R326, R327, R329 to R331: a FREE slot of a core with a record in its ready ring starts the oldest one, as the ring's page holds it, as a strand with its code and frame, or
posts the record of what fails its check; DISPATCH_RETRY does the same; a held record goes to its segment once there is room; a balance round moves
records only inside its cluster and loses none, and moves none where neighbours are within 8. What the record of a failed check says beside
its cause is the model's reading (log entry 95). -/
def Obligations.TaskEvents : Prop :=
  ∀ (s : State) (slot part slice cluster : Nat),
    exec (.dispatchRetry slot) s = exec (.dispatch slot) s ∧
    ((s.strand slot).status ≠ .free → exec (.dispatch slot) s = .next s) ∧
    (∀ r rest, slot < 8192 → (s.strand slot).status = .free → s.partOfCluster (slot / 128) = some part → s.noDispatch slot = false → s.claimed part slot = false →
      (s.part part).resize = none → s.ringRecs (slot / 4) = r :: rest → r.callee = none →
      let left := (s.core (slot / 4)).ring.drop 1
      (∀ code, r.check = .ok code → ∃ t, exec (.dispatch slot) s = .next t ∧ (t.core (slot / 4)).ring = left ∧ (t.strand slot).status = .ready ∧
        (t.strand slot).pcc = code ∧ (t.strand slot).regs = (Regs.fresh.wg 3 ⟨r.frame.bits, r.frame.tag, r.frameTaint⟩).wg 4
          ⟨BitVec.ofNat 128 (r.jaddr.toNat + 2 ^ 64 * r.key.toNat), false, false⟩ ∧ t.mem = s.mem) ∧
      (∀ cause, r.check = .error cause → (s.part part).state ≠ 0 → (s.part part).faults.length < 64 → ∃ t f, exec (.dispatch slot) s = .next t ∧
        (t.core (slot / 4)).ring = left ∧ (t.strand slot).status = .free ∧ (t.part part).faults = (s.part part).faults ++ [(f, s.time.toNat)] ∧
        f.cause = cause ∧ f.addr = r.code.addr ∧ f.parked = false)) ∧
    (∀ r rest, (s.part part).heldRecs.getD slice [] = r :: rest → let q := (s.part part).segments.getD slice []
      (q.length < 2 ^ (((s.part part).reg 0x048).toNat % 32) → exec (.heldRecordPush part slice) s = .next (s.modPart part (fun p => { p with
        segments := Table.set p.segments slice (q ++ [r]), heldRecs := Table.set p.heldRecs slice rest }))) ∧
      (2 ^ (((s.part part).reg 0x048).toNat % 32) ≤ q.length → exec (.heldRecordPush part slice) s = .next s)) ∧
    (∃ t, exec (.balanceRound cluster) s = .next t ∧ t.mem = s.mem ∧ t.me = s.me ∧ (∀ c, c / 32 ≠ cluster → t.core c = s.core c) ∧
      ((List.range 32).map (fun p => (t.core (32 * cluster + p)).ring.length)).sum = ((List.range 32).map (fun p => (s.core (32 * cluster + p)).ring.length)).sum ∧
      ((∀ p q, (s.core (32 * cluster + p % 32)).ring.length ≤ (s.core (32 * cluster + q % 32)).ring.length + 8) → ∀ p, p < 32 →
        (t.core (32 * cluster + p)).ring = (s.core (32 * cluster + p)).ring))

/-! ## Events of memory and engines -/

/-- R126 to R128, R134, R145, R148, R198: a store completes and S falls by one; the oldest combining-buffer entry that its strand's EXIT or a halt sends home leaves the buffer, and no other does; a home serves a reduction unless an older one of its
strand overlaps it, and one that can be performed leaves the word's new value, its strands' cores giving up their copies of the line; one
whose home's cluster is not of its partition is a route drop where routers check such requests, which is free (log entry 127); two matching
reductions may merge into one, of both strands, at the place of the one that no other keeps there; an orphan is counted and reported with
cause 0x14. -/
def Obligations.ReductionEvents : Prop :=
  ∀ (s : State) (slot core index first second : Nat),
    ((s.strand slot).ctr.s ≠ 0 → exec (.storeComplete slot) s = .next (s.modStrand slot (fun m => { m with ctr := { m.ctr with s := m.ctr.s - 1 } }))) ∧
    ((s.strand slot).ctr.s = 0 → exec (.storeComplete slot) s = .next s) ∧
    (let buf := (s.core core).combine
     (∀ i r, buf[i]? = some r → s.mustFlush r = true → (∀ q ∈ buf.take i, s.mustFlush q = false) →
       ∃ t, exec (.combiningFlush core) s = .next t ∧ t.reds = s.reds ++ [r] ∧ (t.core core).combine = listDrop buf i ∧ t.mem = s.mem) ∧
     ((∀ q ∈ buf, s.mustFlush q = false) → exec (.combiningFlush core) s = .next s)) ∧
    (∀ r, s.reds[index]? = some r →
      let late : Bool := (s.reds.take index).any (fun q => (q.owner :: q.others).any r.of && q.loc.overlaps q.width r.loc r.width)
      let left : State := { s with reds := listDrop s.reds index }
      (late = true → exec (.homeRequest index) s = .next s) ∧
      (late = false → s.homeRouted r = true → exec (.homeRequest index) s = .next (left.applyRed r)) ∧
      (late = false → s.homeRouted r = false → exec (.homeRequest index) s = .next (left.count r.part 0x340 1)) ∧
      (∀ pa, r.loc = .mem pa → s.mem.wf = true → r.width ≤ 8 → let u := (r.owner :: r.others).foldl (fun (s : State) o => s.evictAt (coreOfSlot o.slot) r.loc) s
        u.homeFault r.part r.loc r.width = none → u.mem.anyPoison pa r.width = false → (s.applyRed r).mem.bytes pa r.width =
          toBytes r.width (redNew r.op (8 * r.width) r.signed (u.mem.nat pa r.width) r.operand.toNat))) ∧
    (∀ r q, s.reds[first]? = some r → s.reds[second]? = some q → first < second → r.loc = q.loc → r.op = q.op → r.width = q.width → r.signed = q.signed →
      r.scope = q.scope → r.part = q.part → r.op.float = false →
      let between := (s.reds.take second).drop (first + 1)
      let early : Prop := ∀ x ∈ between, x.before q = false
      let late : Prop := ∀ x ∈ between, r.before x = false
      (¬ early → ¬ late → exec (.routerMerge first second) s = .next s) ∧
      ∃ m, (early → exec (.routerMerge first second) s = .next { s with reds := listSet (listDrop s.reds second) first m }) ∧
        (¬ early → late → exec (.routerMerge first second) s = .next { s with reds := listDrop (listSet s.reds second m) first }) ∧ m.loc = r.loc ∧ m.op = r.op ∧
        m.count = r.count + q.count ∧ (∀ o, m.of o = (r.of o || q.of o)) ∧ (r.op = .add → r.width = 8 → m.operand = r.operand + q.operand)) ∧
    (∀ r cause, s.orphans[index]? = some (r, cause) → ∃ t, exec (.orphanReduction index) s = .next t ∧ t.orphans = listDrop s.orphans index ∧
      ((s.part r.part).state ≠ 0 → (s.part r.part).faults.length < 64 → ∃ f, (t.part r.part).faults = (s.part r.part).faults ++ [(f, s.time.toNat)] ∧
        f.cause = 0x14 ∧ f.addr = r.va ∧ f.src = r.src ∧ f.stg = r.ctx.stg ∧ f.extra = 0#56 ++ cause ++ r.operand ∧ f.parked = false))

/-- R235 to R239, R247 to R251, R342, R416: a started copy lands its next unit, in channel order with its credit for COPYB (the model's reading,
log entry 44; that its units are of 8 bytes, in rising order, is its choice, 33); the oldest of its channel with all its bytes landed
completes, DONE and C moving; a faulting one is recorded in its channel and, its strand gone, in the fault queue. A copy with a unit in the
spill ring does not complete till the ring has replayed it, nor does a gather, and a gather whose status
area or fill counts lie in a halted context's window waits (the model's choice, log entry 118). A gather serves an element or finds it to fail, once each, and is over when none is left; LOGM applies an address's entries as one
operation, and clears its fill counts at its end. FADDR where the index cannot be read is free (the model's choice, log entry 120). -/
def Obligations.CopyAndGatherEvents : Prop :=
  ∀ (s : State) (core index element : Nat),
    (∀ c, (s.core core).copies[index]? = some c →
      (c.error = none → c.broken = none → s.mayRun c.owner = true → c.pos < c.total → ∀ u c1, s.copyUnit c = .ok (u, c1) →
        (c.kind ≠ .copyb → exec (.copyUnitLand core index) s = .next (u.setCopy core index c1)) ∧
        (c.kind = .copyb → s.channelHead core c = true → c1.pos ≤ c.pos → exec (.copyUnitLand core index) s = .next (u.setCopy core index c1)) ∧
        (c.kind = .copyb → s.channelHead core c = true → c.pos < c1.pos → ∀ v, u.creditAt c (c1.pos - c.pos) = .ok v → exec (.copyUnitLand core index) s = .next (v.setCopy core index c1)) ∧
        (c.kind = .copyb → s.channelHead core c = false → exec (.copyUnitLand core index) s = .next s)) ∧
      (c.error = none → c.broken = none → s.mayRun c.owner = true → s.channelHead core c = true → c.total ≤ c.pos → c.chan < 8 → c.acted = false → s.spilled c.sender = false →
        ∀ u, s.finalAct c = .ok u →
        (u.spilled c.sender = true → exec (.copyComplete core index) s = .next (u.setCopy core index { c with acted := true })) ∧
        (u.spilled c.sender = false → ∃ t, exec (.copyComplete core index) s = .next t ∧ t.mem = u.mem ∧ t.me.regs = u.me.regs ∧
          (t.core core).copies = listDrop (u.core core).copies index ∧ (t.channel core c.chan).done = (u.channel core c.chan).done + 1 ∧
          (u.alive c.owner = true → (t.strand c.owner.slot).ctr.c = (u.strand c.owner.slot).ctr.c - 1))) ∧
      (s.channelHead core c = false ∨ s.spilled c.sender = true → exec (.copyComplete core index) s = .next s) ∧
      (∀ cause a mark, s.copyFault core c = some (cause, a, mark) → s.mayRun c.owner = true → c.chan < 8 → c.tmma = none → c.held = [] → ∃ t,
        exec (.copyError core index cause a) s = .next t ∧ t.mem = s.mem ∧ t.channel core c.chan = (s.channel core c.chan).record c.id cause a ∧
        ((t.core core).copies = listSet (s.core core).copies index { c with error := some (cause, a), broken := if mark then some (cause, a) else none }) ∧
        (s.alive c.owner = true → (t.part c.ctx.part).faults = (s.part c.ctx.part).faults))) ∧
    (∀ g, (s.core core).gathers[index]? = some g → s.mayRun g.owner = true →
      (s.statusAway g = true → exec (.gatherElement core index element) s = .next s) ∧
      (element ∈ g.todo → g.kind ≠ .logm → s.statusAway g = false →
        (∀ g1 u, s.serve g element = .ok (g1, u) → let g2 := { g1 with todo := g.todo.filter (· != element), done := g1.done + 1 }
          (u.spilled (g.sender element) = false →
            exec (.gatherElement core index element) s = .next (((u.markElement g2 element).writeStatus g2).setGather core index g2)) ∧
          (u.spilled (g.sender element) = true →
            exec (.gatherElement core index element) s = .next (u.setGather core index { g2 with done := g1.done }))) ∧
        (∀ cause v x, s.serve g element = .error (.trap cause v x) → ∃ g2,
          exec (.gatherElement core index element) s = .next ((s.draw.2.writeStatus g2).setGather core index g2) ∧ g2.failed = g.failed ++ [element] ∧
          g2.todo = g.todo.filter (· != element) ∧ (g.cause = 0 → g2.cause = cause ∧ ∀ a, s.elementAddr g element = some a → g2.faddr = a) ∧
          (g.cause ≠ 0 → g2.cause = g.cause ∧ g2.faddr = g.faddr))) ∧
      (element ∈ g.todo → g.kind = .logm → ∀ a vs, g.merges[element]? = some (a, vs) → s.mergeStalls g a = false → s.statusAway g = false →
        exec (.gatherElement core index element) s =
          .next ((s.applyMerge g a vs).setGather core index { g with todo := g.todo.filter (· != element) })) ∧
      (element ∉ g.todo → exec (.gatherElement core index element) s = .next s) ∧
      (g.todo = [] → s.gatherSpilled g = true → exec (.gatherComplete core index) s = .next s) ∧
      (g.todo = [] → s.gatherSpilled g = false → g.kind ≠ .logm → ∃ t, exec (.gatherComplete core index) s = .next t ∧ t.mem = s.mem ∧ (t.core core).gathers = listDrop (s.core core).gathers index ∧
        (s.alive g.owner = true → (t.strand g.owner.slot).ctr.c = (s.strand g.owner.slot).ctr.c - 1 ∧
          (t.strand g.owner.slot).lates = (s.strand g.owner.slot).lates ++ (if g.failed = [] then [] else [⟨0x0E, g.status, g.statusBits, true, g.order⟩]))) ∧
      (g.todo = [] → s.gatherSpilled g = false → g.kind = .logm → g.failed = [] → s.logAway g = false → ∃ t, exec (.gatherComplete core index) s = .next t ∧ t.mem = (s.clearLog g).mem ∧
        (t.core core).gathers = listDrop ((s.clearLog g).core core).gathers index) ∧
      (g.todo ≠ [] → exec (.gatherComplete core index) s = .next s)) ∧
    (∀ o b, s.contextAway o = true → (Table.getD s.spills (clusterOfSlot o.slot) []).length < 4096 →
      ∃ t, s.caught o b = .ok t ∧ t.mem = s.mem ∧
        Table.getD t.spills (clusterOfSlot o.slot) [] = Table.getD s.spills (clusterOfSlot o.slot) [] ++ [⟨o, b⟩]) ∧
    (∀ cluster i x chan id, (Table.getD s.spills cluster [])[i]? = some x → x.body.sender? = some (.copy core chan id) → s.contextAway x.owner = false →
      (∀ y ∈ (Table.getD s.spills cluster []).take i, s.replays y = false ∧ y.owner ≠ x.owner) →
      ∀ u, ({ s with spills := Table.set s.spills cluster (listDrop (Table.getD s.spills cluster []) i) } : State).landSpill x.body = .ok u →
        exec (.spillReplay cluster) s = .next u)

/-! ## Events of the launch unit and the system die -/

/-- R314 to R319, R324: a doorbell of a FREE partition or beyond its queue is counted; a valid record becomes a launch of the next age, READY or waiting for its dependences, and its status is
written 1; one with a reason to refuse it gets status 4 with the reason; the launch unit keeps what it has observed of each dependence, and once all have resolved a launch whose dependences were all fulfilled is READY, and one with a broken one ends; a crew
that suits the first free cluster starts its strands there; a launch with nothing left has ENDED, its chains gone. -/
def Obligations.LaunchEvents : Prop :=
  ∀ (s : State) (part qidx source age : Nat),
    ((s.part part).state = 0 ∨ 2 ^ (((s.part part).reg 0x038).toNat % 16 + 4) ≤ qidx → exec (.doorbell part qidx source) s = .next (s.count part 0x338 1)) ∧
    ((s.part part).state ≠ 0 → qidx < 2 ^ (((s.part part).reg 0x038).toNat % 16 + 4) →
      let at' := ((s.part part).reg 0x038).toNat / 4096 % 2 ^ 36 * 4096 + 128 * qidx
      let v := s.mem.nat at' 128
      (∀ cause, s.homeFault part (.mem at') 128 = some cause → ∃ t, exec (.doorbell part qidx source) s = .next t ∧
        (t.part part).launches = (s.part part).launches ∧ ((s.part part).faults.length < 64 → ∃ f, (t.part part).faults = (s.part part).faults ++ [(f, s.time.toNat)] ∧
          f.cause = cause ∧ f.addr = BitVec.ofNat 64 at' ∧ f.src = source ∧ f.extra = BitVec.ofNat 128 (2 ^ 64 * qidx))) ∧
      (s.homeFault part (.mem at') 128 = none → s.rejectReason part qidx v = none → v / 2 ^ 896 % 2 ^ 64 = 0 →
        ∃ t l, exec (.doorbell part qidx source) s = .next t ∧ (t.part part).launches = (s.part part).launches ++ [l] ∧ (t.part part).ages = (s.part part).ages + 1 ∧
          l.id = ⟨part, (s.part part).ages⟩ ∧ l.qidx = qidx ∧ l.ringer = source ∧ l.ncrew = v % 2 ^ 32 ∧ l.pri = v / 2 ^ 40 % 4 ∧ l.crews = [] ∧
          l.state = (if v / 2 ^ 44 % 16 = 0 then .ready else .waitDep) ∧ t.mem = s.mem) ∧
      (∀ reason u, s.homeFault part (.mem at') 128 = none → s.rejectReason part qidx v = some reason →
        ((s.unitSync 6 .system (.mem at')).modPart part (fun p => { p with ages := p.ages + 1 })).writeLaunchStatus part (BitVec.ofNat 16 (v / 2 ^ 384)) (v / 2 ^ 448 % 2 ^ 64)
          (BitVec.ofNat 64 (v / 2 ^ 896)) qidx source (4 + 256 * reason) = some u → exec (.doorbell part qidx source) s = .next u)) ∧
    (∀ l, s.launch? ⟨part, age⟩ = some l →
      (l.state = .waitDep → ∃ obs : List (Option Bool), obs.length = l.deps.length ∧
        (∀ i id, l.deps[i]? = some id → (∀ x, l.seen.getD i none = some x → obs.getD i none = some x) ∧
          (l.seen.getD i none = none → obs.getD i none = none ∨ ∃ n, obs.getD i none = s.depState part id n)) ∧
        let u := s.draw.2.modLaunch l.id (fun l => { l with seen := obs })
        (none ∈ obs → exec (.dependenceResolved part age) s = .next u) ∧
        (none ∉ obs → some false ∉ obs → exec (.dependenceResolved part age) s = .next (u.modLaunch l.id (fun l => { l with state := .ready }))) ∧
        (none ∉ obs → some false ∈ obs → l.doneVa = 0 → ∃ t, exec (.dependenceResolved part age) s = .next t ∧ t.launch? ⟨part, age⟩ = none)) ∧
      (l.state ≠ .waitDep → exec (.dependenceResolved part age) s = .next s) ∧
      (s.launchOver l = false → exec (.launchEnd part age) s = .next s) ∧
      (s.launchOver l = true → l.doneVa = 0 → ∃ t, exec (.launchEnd part age) s = .next t ∧ (t.launch? ⟨part, age⟩).map (·.state) = some .ended ∧
        (∀ cl c, c ∈ Table.getD t.chains cl [] → c.launch ≠ ⟨part, age⟩) ∧
        ((∀ e ∈ (s.part part).entries, e.2.invkLaunch ≠ ⟨part, age⟩) → t.mem = s.mem))) ∧
    (∀ cl rest c l, s.freeClusters part = cl :: rest → s.bestFor part cl = some c → c.out = false → c.launch.part = part → s.launch? c.launch = some l → l.chn = false →
      l.state = .running → (∀ k ∈ s.candidateSlots c cl, (s.strand k).status = .free) →
      ∃ t, exec (.crewPlace part) s = .next t ∧ ∀ k ∈ s.candidateSlots c cl, (t.strand k).status = .ready ∧ (t.strand k).pcc = l.code ∧ (t.strand k).launch = l.id ∧
        (t.strand k).regs.rg 3 = ⟨l.frame.bits, l.frame.tag, false⟩)

/-- R320, R322, R337, R388, R401, R418: a waiting crew of priority 0 asks for the halt of a crew of priority 3, and one that waits beyond the quantum for the halt of
a crew that has held its cluster as long, the youngest launch's highest crew in either case; the least record by time and source goes to
the next slot of its ring while that slot is empty, once the hold of a waiting record has ended. The choice of the model is that a placement may come at any
time once the hold has ended (log entry 96). -/
def Obligations.QueueEvents : Prop :=
  ∀ (s : State) (part : Nat),
    (∀ c cls x, s.waitingCandidates part = [(c, cls)] → s.beingServed part c = false →
      (c.pri = 0 → State.youngest ((s.runningOn part cls).filter (fun x => x.1.pri == 3)) = some x → exec (.priorityPreempt part) s = .next (s.haltFor c x)) ∧
      (c.pri ≠ 0 → exec (.priorityPreempt part) s = .next s) ∧
      (let q := ((s.part part).reg 0x058).toNat % 2 ^ 32 * 1000
       let due := (s.runningOn part cls).filter (fun x => decide (x.2.since + q ≤ s.time.toNat) && decide (c.pri ≤ x.1.pri))
       (q = 0 → exec (.quantumExpiry part) s = .next s) ∧
       (q ≠ 0 → (∀ y ∈ due, y.2.since = x.2.since) → State.youngest due = some x → exec (.quantumExpiry part) s = .next (s.haltFor c x)) ∧
       (q ≠ 0 → due = [] → exec (.quantumExpiry part) s = .next s))) ∧
    (∀ i r z, part < 64 → (s.part part).state ≠ 0 → leastOf (fun (x : FaultRec × Nat) => (x.1.time, x.1.src)) (s.part part).faults = some (i, r, z) →
      let fq := (s.part part).reg 0x088
      let slot := fq.toNat / 4096 % 2 ^ 36 * 4096 + 64 * ((s.part part).faultSeq.toNat % 2 ^ (fq.toNat % 16 + 6))
      let held := ∀ x ∈ (s.part part).faults, s.time.toNat < x.2 + 2000
      (held ∨ (s.mem.byte (slot + 8)).getLsbD 0 = true → exec (.faultRecordPlace part) s = .next s) ∧
      (¬ held → (s.mem.byte (slot + 8)).getLsbD 0 = false → ∃ t, exec (.faultRecordPlace part) s = .next t ∧ t.mem = s.mem.store slot (r.bytes part (s.part part).faultSeq.toNat) false ∧
        (t.part part).faults = listDrop (s.part part).faults i ∧ (t.part part).faultSeq = (s.part part).faultSeq + 1)) ∧
    (∀ i r z p, leastOf (fun (x : FaultRec × Nat × Nat) => (x.1.time, x.1.src)) s.sys.faults = some (i, r, z, p) →
      let fq := s.sys.regs.getD 0x0060 0
      let slot := fq.toNat / 4096 % 2 ^ 36 * 4096 + 64 * (s.sys.faultSeq.toNat % 2 ^ (fq.toNat % 16 + 6))
      let held := ∀ x ∈ s.sys.faults, s.time.toNat < x.2.1 + 2000
      (held ∨ fq.toNat / 4096 % 2 ^ 36 = 0 ∨ (s.mem.byte (slot + 8)).getLsbD 0 = true → exec (.faultRecordPlace 64) s = .next s) ∧
      (¬ held → fq.toNat / 4096 % 2 ^ 36 ≠ 0 → (s.mem.byte (slot + 8)).getLsbD 0 = false → ∃ t, exec (.faultRecordPlace 64) s = .next t ∧
        t.mem = s.mem.store slot (r.bytes p s.sys.faultSeq.toNat) false ∧ t.sys.faults = listDrop s.sys.faults i ∧ t.sys.faultSeq = s.sys.faultSeq + 1)) ∧
    (∀ i r, leastOf (fun (x : TelRec) => (x.time, x.src)) (s.part part).tel = some (i, r) → let seq := (s.part part).telSeq
      let slot := s.telSlot part seq.toNat
      let held := ∀ x ∈ (s.part part).tel, s.time.toNat < x.time + 2000
      (held → exec (.telemetryRecordPlace part) s = .next s) ∧ (¬ held → ∃ t, exec (.telemetryRecordPlace part) s = .next t ∧ (t.part part).tel = listDrop (s.part part).tel i ∧ (t.part part).telSeq = seq + 1 ∧
        t.mem = (s.mem.store slot (toBytes 32 r.bits.toNat) r.taint).store (slot + 32) (toBytes 32 (seq.toNat * 2 ^ 32 + 256 + r.type.toNat)) false))

/-- R15, R16, R421: the clock goes down no lower than 600 MHz and up no higher than 1,400 MHz; at 600 MHz a hold stops every crew and ends only when each that it
halted stands; an input out of range unpowers the compute dies and one back in range powers them. The choices of the model are that the dies
keep their state while unpowered and no record says so (log entry 61), that a release waits for the halts of its hold (98), that HELD and its
record come with the request (123), and that crews of the standing launch are held as others are (60). -/
def Obligations.PowerEvents : Prop :=
  ∀ (s : State) (mhz : Nat),
    (600 ≤ mhz → mhz < s.sys.mhz → ∃ t, exec (.thermalClockStep mhz) s = .next t ∧ t.sys.mhz = mhz ∧ t.mem = s.mem ∧ t.me = s.me) ∧
    ((mhz < 600 ∨ s.sys.mhz ≤ mhz) → exec (.thermalClockStep mhz) s = .next s) ∧
    (s.sys.mhz < mhz → mhz ≤ 1400 → ∃ t, exec (.thermalClockRaise mhz) s = .next t ∧ t.sys.mhz = mhz ∧ t.mem = s.mem ∧ t.me = s.me) ∧
    ((mhz ≤ s.sys.mhz ∨ 1400 < mhz) → exec (.thermalClockRaise mhz) s = .next s) ∧
    (s.sys.mhz = 600 → s.sys.held = false → ∃ t, exec .thermalHold s = .next t ∧ t.sys.held = true ∧ t.mem = s.mem ∧ t.me = s.me ∧
      t.sys.heldCrews = s.standingCrews.filter (fun k => !(s.placed? k).any (fun c => c.halted || c.halting.isSome))) ∧
    ((s.sys.mhz ≠ 600 ∨ s.sys.held = true) → exec .thermalHold s = .next s) ∧
    (s.sys.held = true → s.sys.heldCrews.any (fun k => (s.placed? k).any (fun c => c.halting.any (fun h => h.src == 2 ^ 16 * s.devId + 5 * 2 ^ 13 + 19))) = false →
      ∃ t, exec .thermalRelease s = .next t ∧ t.sys.held = false ∧ t.sys.heldCrews = [] ∧ t.mem = s.mem ∧ t.me = s.me) ∧
    (s.sys.held = false → exec .thermalRelease s = .next s) ∧
    exec .inputOutOfRange s = .next { s with sys := { s.sys with powered := false } } ∧
    exec .inputBackInRange s = .next { s with sys := { s.sys with powered := true } }

/-- R11, R15, R379 to R385, R423, R424: RESET leaves flash, its counters and memory, and everything else as after reset, and stage 0 takes copy A of the first stage or, if that one fails, copy B, and the valid LMS record of the RPMC value; stage 1 reads
the owner block; stage 2 trains the layers and ports. A report is asked for once and is done with a new one-time key. A firmware update is
verified when asked and in flash when done. The choices of the model are that RESET keeps memory and the owner pairs a replaced block gave (log entry 59, 67), that a
report takes its nonce when it is asked for (68), which reason a refused or failing update shows (67), and the order in which an image is checked (58). -/
def Obligations.BootAndUpdateEvents : Prop :=
  ∀ (s : State) (part : Nat) (value : Dword),
    (∃ t, exec .reset s = .next t ∧ t.mem = s.mem ∧ t.sys.flash = s.sys.flash ∧ t.sys.rpmc = s.sys.rpmc ∧ t.others = [] ∧ t.parts = State.reset.parts ∧ t.cores = [] ∧
      t.sys.replaced = s.sys.replaced ∧ t.me = State.reset.me ∧ t.time = State.reset.time ∧ t.sys.stage = 0 ∧ t.sys.powered = Sys.fresh.powered ∧ t.sys.layers = 0 ∧
      ((t.sys.bootCopy = 0 ∧ t.sys.result = 2) ∨ (t.sys.result = 0 ∧ (t.sys.bootCopy = 1 ∨ t.sys.bootCopy = 2) ∧
        (s.sys.lmsRecord = none → t.sys.lmsOk = false) ∧
        ∀ second q, s.sys.lmsRecord = some (second, q) → t.sys.lmsOk = true ∧ t.sys.lmsSecond = second ∧ t.sys.lmsIndex = q))) ∧
    (s.sys.stage ≠ 0 ∨ s.sys.result ≠ 0 ∨ s.sys.bootCopy = 0 → exec .bootStage1 s = .next s) ∧
    (s.sys.stage = 0 → s.sys.result = 0 → s.sys.bootCopy ≠ 0 → ∃ t, exec .bootStage1 s = .next t ∧ t.sys.stage = 1 ∧ t.sys.flash = s.sys.flash ∧
      (∃ more, t.sys.hashes = s.sys.hashes ++ more) ∧
      (t.sys.result = 0 ∨ (t.sys.result = 2 ∧ (t.sys.detail = 4 ∨ t.sys.detail = 2)))) ∧
    (∀ layers peers lock, (s.sys.stage = 1 → s.sys.result = 0 → ∃ t, exec (.bootStage2 layers peers lock) s = .next t ∧ t.sys.stage = 2 ∧ t.sys.layers = layers ∧
        ((t.sys.regs.getD 0x0008 0 = 0 ∧ t.sys.regs.getD 0x0010 0 = 0) ∨
          ∃ domain, t.sys.regs.getD 0x0008 0 = BitVec.ofNat 64 ((Config.domainDevice domain).val + 256) ∧
            t.sys.regs.getD 0x0010 0 = BitVec.ofNat 64 (portsUp domain peers + 2 ^ 48 * (Config.domainMaster domain).toNat + 2 ^ 49 * lock.toNat)) ∧
        t.sys.reason = (if s.sys.lmsOk = false then 6 else if 2 ^ 15 ≤ s.sys.lmsIndex then 7 else 0) ∧ t.sys.result = (if t.sys.reason = 0 then 1 else 3)) ∧
      (s.sys.stage ≠ 1 ∨ s.sys.result ≠ 0 → exec (.bootStage2 layers peers lock) s = .next s)) ∧
    (exec (.attestRequest part value) s = .next (if (s.part part).areqBusy = true ∨ value.getLsbD 0 = false then s
      else s.modPart part (fun p => { p with areqBusy := true, areqDone := false, report := s.reportHead part 0 }))) ∧
    ((s.part part).areqBusy = false → exec (.attestDone part) s = .next s) ∧
    ((s.part part).areqBusy = true → ∃ t, exec (.attestDone part) s = .next t ∧ (t.part part).areqBusy = false ∧ (t.part part).areqDone = true ∧ t.mem = s.mem ∧
      (s.sys.lmsOk = true → s.sys.lmsIndex < 2 ^ 15 → t.sys.lmsIndex = s.sys.lmsIndex + 1 ∧ Table.getD t.sys.rpmc 0 0 = Table.getD s.sys.rpmc 0 0 + 1 ∧
        t.sys.lmsSecond = !s.sys.lmsSecond) ∧
      ((s.sys.lmsOk = false ∨ 2 ^ 15 ≤ s.sys.lmsIndex) → t.sys.lmsIndex = s.sys.lmsIndex)) ∧
    (value.getLsbD 63 = true →
      (value.getLsbD 32 = false → exec (.firmwareUpdate value) s = .next (s.firmwareGo value) ∧ exec (.firmwareUpdateCommit value) s = .next s) ∧
      (value.getLsbD 32 = true → exec (.firmwareUpdateCommit value) s = .next (s.firmwareGo value) ∧ exec (.firmwareUpdate value) s = .next s)) ∧
    ((s.firmwareGo value).sys.flash = s.sys.flash ∧ (s.firmwareGo value).mem = s.mem ∧ (s.sys.update.isSome = true → s.firmwareGo value = s) ∧
      ∀ u, s.sys.update = none → (s.firmwareGo value).sys.update = some u → u.dest + u.bytes.length ≤ 0x40000000 ∧
        (s.sys.bootCopy = 1 → 0 < u.bytes.length → 0x400000 ≤ u.dest) ∧ (s.sys.bootCopy = 2 → 0 < u.bytes.length → 0x800000 ≤ u.dest ∨ u.dest + u.bytes.length ≤ 0x400000) ∧
        (0 < u.bytes.length → 0x840000 ≤ u.dest ∨ u.dest + u.bytes.length ≤ 0x820000)) ∧
    (∀ u, s.sys.update = some u → ∃ t, exec .firmwareUpdateDone s = .next t ∧ t.sys.flash = bytesSet 0xFF s.sys.flash u.dest u.bytes ∧ t.sys.update = none ∧
      t.sys.replaced = (if u.dest = 0x800000 ∧ s.sys.owner ≠ [] then s.sys.owner else s.sys.replaced) ∧
      (u.commit = none → t.sys.rpmc = s.sys.rpmc) ∧
      (∀ kind v, u.commit = some (kind, v) → Table.getD t.sys.rpmc kind 0 = max v (Table.getD s.sys.rpmc kind 0)))

/-- R118, R288, R299, R386, R393, R394: a frame of another device is admitted only into the partition with its sender's DSET; one that fails its check twice is dropped and counted; a handle message travels on to its home; the host
reaches present layers through the PF and its partition's 1 GiB window through a VF; the reset of a function ends every launch of
its partition. The choices of the model are that such a reset writes no statuses and keeps the records of the segments (log entry 64), and what a frame
carries: that its data have the tag and the taint it gives them (69). -/
def Obligations.OutsideAccessEvents : Prop :=
  ∀ (s : State) (port : Nat) (retry : Bool) (frame : Frame) (access : HostAccess) (vf : Nat),
    ((36 ≤ port ∨ (s.sys.regs.getD 0x0010 0).getLsbD port = false ∨ frame.device = s.devId) → exec (.dziacFrameReceive port true retry frame) s = .next s) ∧
    (port < 36 → (s.sys.regs.getD 0x0010 0).getLsbD port = true → frame.device ≠ s.devId →
      ((∀ e ∈ s.parts, e.2.state ≠ 0 → (e.2.reg 0x030).toNat / 256 % 256 ≠ frame.dset) → exec (.dziacFrameReceive port true retry frame) s = .next s) ∧
      (frame.dset = 0 → exec (.dziacFrameReceive port true retry frame) s = .next s) ∧
      (∀ a n, frame.body = .access a (.read n) → exec (.dziacFrameReceive port true retry frame) s = .next s) ∧
      (∃ t, exec (.dziacFrameReceive port false false frame) s = .next t ∧ t.mem = s.mem ∧
        t.sys.regs.getD (0x3000 + 16 * port) 0 = satAdd64 1 (s.sys.regs.getD (0x3000 + 16 * port) 0) ∧
        t.sys.regs.getD (0x3008 + 16 * port) 0 = satAdd64 1 (s.sys.regs.getD (0x3008 + 16 * port) 0)) ∧
      (∀ part p, s.parts = [(part, p)] → p.state ≠ 0 → frame.dset ≠ 0 → (p.reg 0x030).toNat / 256 % 256 = frame.dset →
        (∀ a bs taint, frame.body = .access a (.write bs taint) → bs ≠ [] →
          (s.layerPresent part a = true → s.layerPresent part (a + bs.length - 1) = true →
            ∃ t, exec (.dziacFrameReceive port true retry frame) s = .next t ∧ t.mem = s.mem.store a bs taint) ∧
          (s.layerPresent part a = false → exec (.dziacFrameReceive port true retry frame) s = .next s)) ∧
        (∀ a v, frame.body = .access a (.writeCap v) → (s.layerPresent part a = true → a % 16 = 0 →
            exec (.dziacFrameReceive port true retry frame) s = .next (s.writeCapHome (.mem a) v.bits (v.tag && !Cap.malformed ⟨v.bits, true⟩) v.taint)) ∧
          (s.layerPresent part a = false → exec (.dziacFrameReceive port true retry frame) s = .next s)) ∧
        (∀ a op wide x taint g, frame.body = .access a (.amo op wide x taint) → let n := if wide then 8 else 4
          s.layerPresent part a = true → a % n = 0 → s.readHome (.mem a) n = some g →
          exec (.dziacFrameReceive port true retry frame) s = .next (match op with
            | .red code signed => let r : RedOp := [RedOp.add, .and', .or', .xor', .min', .max', .fadd64, .fadd32].getD code.toNat .add
              s.writeHome (.mem a) (toBytes n (redNew r (8 * n) signed g.nat x.toNat)) (taint || r.float)
            | .swap => s.writeHome (.mem a) (toBytes n x.toNat) taint
            | .cas e => if e.toNat % 2 ^ (8 * n) = g.nat then s.writeHome (.mem a) (toBytes n x.toNat) taint else s)) ∧
        (∀ a w taint, frame.body = .access a (.state w taint) → s.layerPresent part a = true → s.layerPresent part (a + 15) = true → a % 16 = 0 →
          exec (.dziacFrameReceive port true retry frame) s = .next (s.writeHome (.mem a) (toBytes 16 w.toNat) taint)) ∧
        (∀ src seq id msg, frame.body = .handle src seq id msg → exec (.dziacFrameReceive port true retry frame) s =
          .next { s with hmsgs := s.hmsgs ++ [⟨id, part, frame.device * 65536 + src % 65536, seq, 256, frameMsgBody id msg, 0⟩] }))) ∧
    (access.data = none → exec (.hostAccess access) s = .next s) ∧
    (∀ bs, access.data = some bs → bs ≠ [] →
      (access.fn = 0 → (∀ a, a = access.addr ∨ a = access.addr + bs.length - 1 → a < 2 ^ 48 ∧ a / 2 ^ 40 = s.devId ∧ s.sys.layers.getLsbD (a / 2 ^ 32 % 256) = true) →
        ∃ t, exec (.hostAccess access) s = .next t ∧ t.mem = s.mem.store access.addr bs false) ∧
      (access.fn ≠ 0 → (∀ e ∈ s.parts, e.2.state ≠ 0 → (e.2.reg 0x030).toNat % 128 ≠ access.fn) → exec (.hostAccess access) s = .next s) ∧
      (∀ part p, access.fn ≠ 0 → s.parts = [(part, p)] → p.state ≠ 0 → (p.reg 0x030).toNat % 128 = access.fn → let at' := (p.reg 0x098).toNat / 2 ^ 30 % 2 ^ 18 * 2 ^ 30 + access.addr
        (2 ^ 30 < access.addr + bs.length → exec (.hostAccess access) s = .next s) ∧
        (access.addr + bs.length ≤ 2 ^ 30 → s.layerPresent part at' = true → s.layerPresent part (at' + bs.length - 1) = true →
          ∃ t, exec (.hostAccess access) s = .next t ∧ t.mem = s.mem.store at' bs false))) ∧
    (vf = 0 ∨ (∀ e ∈ s.parts, e.2.state ≠ 0 → (e.2.reg 0x030).toNat % 128 ≠ vf) → exec (.functionLevelReset vf) s = .next s) ∧
    (∀ part p, vf ≠ 0 → s.parts = [(part, p)] → p.state ≠ 0 → (p.reg 0x030).toNat % 128 = vf → ∃ t, exec (.functionLevelReset vf) s = .next t ∧
      (t.part part).launches = [] ∧ (s.chains = [] → p.entries = [] → t.mem = s.mem) ∧ ∀ slot, (s.strand slot).launch.part = part → (t.strand slot).status = .free)

/-- R388, R389, R419, R420, R442, R26, R308: SYSRES resumes or kills a PARKED strand of any partition whose record has been placed (R337) or is counted; INTMASK delivers what it had held and no longer masks; a counter
is cleared by any write; a register's RW fields take what the PF writes, and ANONCE what the VF of its partition writes.
That SYSRES does nothing while the record waits is the model's reading of R337 (log entry 121). -/
def Obligations.HostRegisterEvents : Prop :=
  ∀ (s : State) (part off : Nat) (value : Dword),
    (let slot := value.toNat % 2 ^ 13
     value.getLsbD 63 = true →
       ((s.strand slot).status ≠ .parked → ∃ t, t = { s with sys := { s.sys with regs := Table.set s.sys.regs 0x0070 (satAdd64 1 (s.sys.regs.getD 0x0070 0)) } } ∧
         (value.getLsbD 32 = false → exec (.sysresResume value) s = .next t) ∧ (value.getLsbD 32 = true → exec (.sysresKill value) s = .next t)) ∧
       ((s.strand slot).status = .parked → s.recordWaits slot = true →
         exec (.sysresResume value) s = .next s ∧ exec (.sysresKill value) s = .next s) ∧
       ((s.strand slot).status = .parked → s.recordWaits slot = false →
         (value.getLsbD 32 = false → exec (.sysresResume value) s = .next (s.setStrand slot { s.strand slot with
           status := .ready, wait := none, resumed := true, sysPark := false })) ∧
         (value.getLsbD 32 = true → (s.strand slot).chain = none → ∃ t, exec (.sysresKill value) s = .next t ∧ (t.strand slot).status = .free ∧
           ((∀ e ∈ s.parts, ∀ x ∈ e.2.entries, x.2.resp.all (fun r => decide (r.1 ≠ ⟨slot, (s.strand slot).born⟩)) = true) → t.mem = s.mem)))) ∧
    (part < 64 →
      (∃ t, exec (.intmaskWrite part value) s = .next t ∧ (t.part part).reg 0x0A0 = value &&& 0xF ∧ t.mem = s.mem ∧
        ∀ v, v < 4 → value.getLsbD v = false → (t.part part).pendingVec.getLsbD v = false) ∧
      (0x300 ≤ off → off < 0x368 → off % 8 = 0 → exec (.counterClear part off) s = .next (s.modPart part (fun p => { p with counters := Table.set p.counters off 0 }))) ∧
      (∀ m, partMask off = some m → off ≠ 0x008 → ¬ (0x018 ≤ off ∧ off ≤ 0x030) → off ≠ 0x000 → off < 0x10000 →
        exec (.registerWrite 0 (0x10000 + 0x10000 * part + off) value) s = .next (s.modPart part (fun p => { p with regs := Table.set p.regs off (value &&& m) })))) ∧
    (0x2000 ≤ off → off < 0x2900 → off % 8 = 0 → exec (.globalCounterClear off) s = .next { s with sys := { s.sys with regs := Table.set s.sys.regs off 0 } }) ∧
    exec .syserrClear s = .next { s with sys := { s.sys with regs := Table.set s.sys.regs 0x0070 0 } } ∧
    exec (.registerWrite 0 0x0040 value) s = .next { s with sys := { s.sys with regs := Table.set s.sys.regs 0x0040 (value &&& 0x0000FFFFFFFFF000) } } ∧
    exec (.registerWrite 0 0x0060 value) s = .next { s with sys := { s.sys with regs := Table.set s.sys.regs 0x0060 (value &&& 0x0000FFFFFFFFF00F) } } ∧
    (∀ p who, who ≠ 0 → s.parts = [(part, p)] → (p.reg 0x030).toNat % 128 = who → 0x0C0 ≤ off → off < 0x0E0 → off % 8 = 0 →
      exec (.registerWrite who off value) s = .next (s.modPart part (fun p => { p with regs := Table.set p.regs off value }))) ∧
    (∀ who, who ≠ 0 → (off < 0x0C0 ∨ 0x0E0 ≤ off) → exec (.registerWrite who off value) s = .next s)

/-- R386 to R392, R442: a partition that meets the conditions of R390 becomes ACTIVE with the clusters of its rectangle, and one that does not says so; one
with no live launch becomes FREE; a resize that may begin takes its rectangle, and commits once the leaving clusters are
clear, with an event of vector 2. The choices of the model are the outcome bits of the writes that R389 and R390 do not name (log entry 62), and what a resize does on a FREE
partition, with a FORCE and before its commit (65). -/
def Obligations.PartitionEvents : Prop :=
  ∀ (s : State) (part : Nat) (value : Dword), part < 64 →
    ((s.part part).state = 0 →
      ((s.modPart part (fun p => { p with outcome := 0 })).mayActivate part = true → ∃ t, exec (.partitionActivate part) s = .next t ∧ (t.part part).state = 1 ∧
        (t.part part).outcome = 0 ∧ (t.part part).bitmap = rectMap ((s.part part).reg 0x008).toNat ∧ (t.part part).launches = [] ∧ t.mem = s.mem) ∧
      ((s.modPart part (fun p => { p with outcome := 0 })).mayActivate part = false → exec (.partitionActivate part) s = .next (s.modPart part (fun p => { p with outcome := 1 }))) ∧
      exec (.partitionDeactivate part) s = .next (s.modPart part (fun p => { p with outcome := 0 }))) ∧
    ((s.part part).state ≠ 0 → exec (.partitionActivate part) s = .next (s.modPart part (fun p => { p with outcome := 0 }))) ∧
    ((s.part part).state ≠ 0 → (∀ l ∈ (s.part part).launches, l.state = .ended) → ∃ t, exec (.partitionDeactivate part) s = .next t ∧ (t.part part).state = 0 ∧
      (t.part part).launches = [] ∧ (t.part part).segments = [] ∧ (t.part part).faults = [] ∧ ∀ k h, Table.find? (t.part part).entries k = some h → h.state = .free) ∧
    ((s.part part).state ≠ 0 → (∃ l ∈ (s.part part).launches, l.state ≠ .ended) →
      exec (.partitionDeactivate part) s = .next (s.modPart part (fun p => { p with outcome := 2 }))) ∧
    (let rect := value.toNat &&& 0x07070707
     let old := ((s.part part).reg 0x008).toNat
     ((s.part part).rszBusy = true → exec (.resizeRequest part value) s = .next s) ∧
     ((s.part part).rszBusy = false → ((s.part part).state ≠ 1 ∨ rectOk rect = false ∨ rectStep old rect = false ∨
         s.otherPart part (fun q => q.claims &&& (rectMap rect &&& ~~~(s.part part).bitmap) != 0) = true) →
       exec (.resizeRequest part value) s = .next (s.modPart part (fun p => { p with rszResult := 1 }))) ∧
     ((s.part part).rszBusy = false → (s.part part).state = 1 → rectOk rect = true → rectStep old rect = true → rectMap rect &&& ~~~(s.part part).bitmap = 0 →
       value.getLsbD 32 = false → ∃ t, exec (.resizeRequest part value) s = .next t ∧ (t.part part).state = 2 ∧ (t.part part).rszBusy = true ∧
         (t.part part).resize = some ⟨rect, false, false⟩ ∧ t.me = s.me ∧ t.mem = s.mem)) ∧
    (∀ r, (s.part part).resize = some r → r.cleared = false → r.force = false →
      ((∃ l ∈ (s.part part).launches, ∃ c ∈ l.crews, c.gone = false ∧ (s.part part).leaving c.cluster = true) → exec (.resizeLeaveClear part) s = .next s) ∧
      ((∀ l ∈ (s.part part).launches, ∀ c ∈ l.crews, c.gone = true ∨ (s.part part).leaving c.cluster = false) → ∃ t, exec (.resizeLeaveClear part) s = .next t ∧
        (t.part part).pendingMap = some (rectMap r.rect) ∧ (t.part part).resize = some { r with cleared := true } ∧
        ∀ slot, (s.strand slot).launch.part = part → (s.part part).leaving (slot / 128) = true → (t.strand slot).status = .free)) ∧
    (∀ r map, (s.part part).resize = some r → (s.part part).pendingMap = some map → r.cleared = true →
      (∀ c ∈ s.leavingCores part, (s.core c).queue = [] ∧ (s.core c).wide = [] ∧ (s.core c).copies = [] ∧ (s.core c).gathers = []) →
      (∀ slot m, (slot, m) ∈ s.allStrands → m.status = .free ∨ slot / 4 ∉ s.leavingCores part) →
      ∃ t, exec (.resizeCommit part) s = .next t ∧ (t.part part).state = 1 ∧ (t.part part).bitmap = map ∧ (t.part part).rszBusy = false ∧ (t.part part).resize = none ∧
        (t.part part).reg 0x008 = BitVec.ofNat 64 r.rect) ∧
    ((s.part part).resize = none → exec (.resizeLeaveClear part) s = .next s ∧ exec (.resizeCommit part) s = .next s)

/-- R404 to R407: LAYCMD adds a present layer that no partition holds, announces a removal, and removes a layer, with its event of kind 3, 1 or 2 and what caches
held of it dropped; a command that may not says so in RESULT; op 0 does nothing; the firmware does ops 2 and 3 of a failing
layer by itself, in LAYCMD of each partition that holds it. A write while BUSY is ignored. The choices of the model are that a command has its effect in one step and stays BUSY for a time that is free (log
entry 66), and that which bytes of memory a removal loses with the L2s and row caches is free (129). -/
def Obligations.LayerEvents : Prop :=
  ∀ (s : State) (part layer : Nat) (value : Dword), part < 64 → layer = value.toNat % 256 →
    ((s.part part).layBusy = true → exec (.layerAdd part value) s = .next s ∧ exec (.layerPredictiveRemove part value) s = .next s ∧
      exec (.layerFinalRemove part value) s = .next s ∧ exec (.laycmdNop part value) s = .next s) ∧
    ((s.part part).layBusy = false →
    let op := value.toNat / 256 % 4
    let cmd := value &&& 0x0000FFFF000003FF
    let written (result : BitVec 7) (busy : Bool) : State := s.draw.2.modPart part (fun p => { p with layCmd := cmd, layResult := result, layBusy := busy })
    let posted (t : State) (p kind : Nat) (grace : Nat) : Prop := (s.part p).state ≠ 0 → (s.part p).faults.length < 64 → ∃ f z, (t.part p).faults = (s.part p).faults ++ [(f, z)] ∧
      f.cause = 0x12 ∧ f.extra = BitVec.ofNat 128 (kind + 2 ^ 8 * layer + 2 ^ 32 * grace) ∧ f.parked = false
    let holds : Bool := decide (layer < 144) && (s.part part).layers.getLsbD layer
    (op ≠ 1 → exec (.layerAdd part value) s = .next s) ∧
    (op = 1 → layer < 144 → s.sys.layers.getLsbD layer = true → s.partOfLayer layer = none → ∃ t, exec (.layerAdd part value) s = .next t ∧
      (t.part part).layers.getLsbD layer = true ∧ (t.part part).layResult = 0 ∧ (t.part part).layCmd = cmd ∧ t.mem = s.mem ∧ posted t part 3 0) ∧
    (op = 1 → (144 ≤ layer ∨ s.sys.layers.getLsbD layer = false ∨ s.partOfLayer layer ≠ none) → ∃ busy, exec (.layerAdd part value) s = .next (written 1 busy)) ∧
    (op = 2 → holds = true → ∃ t, exec (.layerPredictiveRemove part value) s = .next t ∧ (t.part part).layers = (s.part part).layers ∧ (t.part part).layResult = 0 ∧
      t.mem = s.mem ∧ posted t part 1 (value.toNat / 2 ^ 32 % 2 ^ 16)) ∧
    (op = 2 → holds = false → ∃ busy, exec (.layerPredictiveRemove part value) s = .next (written 1 busy)) ∧
    (op = 3 → holds = true → ∃ t, exec (.layerFinalRemove part value) s = .next t ∧ (t.part part).layers.getLsbD layer = false ∧
      (∀ e ∈ t.rows, e.1 / 512 ≠ layer) ∧
      ∀ core ∈ s.partCores part, ∀ e ∈ (t.core core).lines, e.1 / 2 ^ 25 % 2 ^ 16 ≠ 256 * s.devId + layer) ∧
    (op = 3 → holds = false → ∃ busy, exec (.layerFinalRemove part value) s = .next (written 1 busy)) ∧
    (op = 0 → ∃ busy, exec (.laycmdNop part value) s = .next (written 0 busy)) ∧
    (∀ final, s.sys.layers.getLsbD layer = false → exec (.layerErrorLimit layer final) s = .next s) ∧
    ((∃ e ∈ s.parts, e.2.layers.getLsbD layer = true ∧ (s.part e.1).layBusy = true) → ∀ final, exec (.layerErrorLimit layer final) s = .next s) ∧
    (s.sys.layers.getLsbD layer = true → layer < 144 → (∀ e ∈ s.parts, e.2.layers.getLsbD layer = true → (s.part e.1).layBusy = false) → (∃ t, exec (.layerErrorLimit layer true) s = .next t ∧ t.sys.layers.getLsbD layer = false) ∧
      (∃ t, exec (.layerErrorLimit layer false) s = .next t ∧ t.sys.layers = s.sys.layers ∧ t.mem = s.mem)))

/-! ## Frames -/

namespace Sys2Proof.Claims

/-- The registers that the manual lets an instruction write, of the instructions outside chains, vectors and temporal state: g, p, e. -/
def dests : Instr → Option (List GIdx × List PIdx × List (BitVec 3))
  | .add d _ _ | .sub d _ _ | .mul d _ _ | .mulh d _ _ | .mulhz d _ _ | .addw d _ _ | .subw d _ _ | .neg d _
  | .div d _ _ | .divz d _ _ | .rem d _ _ | .remz d _ _ | .min d _ _ | .max d _ _ | .minz d _ _ | .maxz d _ _
  | .and d _ _ | .or d _ _ | .xor d _ _ | .andn d _ _ | .orn d _ _ | .shl d _ _ | .shr d _ _ | .sar d _ _ | .rol d _ _
  | .clz d _ | .ctz d _ | .popc d _ | .brev d _ | .bswap d _ | .sext d _ _ | .zext d _ _ | .addi d _ _ | .andi d _ _
  | .ori d _ _ | .xori d _ _ | .shli d _ _ | .shri d _ _ | .sari d _ _ | .roli d _ _ | .sel d _ _ _ | .li d _
  | .lie d _ | .bfx d _ _ | .bfxz d _ _ | .bfi d _ _ | .pmovg d _ | .pcnt d _ | .cadd d _ _ | .candp d _ _
  | .cget d _ _ | .cseal d _ _ | .cunseal d _ _ | .cclr d _ | .caddi d _ _ | .mov d _ | .movg d _
  | .dadd d _ _ | .dsub d _ _ | .dmul d _ _ | .ddiv d _ _ | .dmin d _ _ | .dmax d _ _ | .dsqrt d _ | .dfma d _ _
  | .fadd d _ _ | .fsub d _ _ | .fmul d _ _ | .fdiv d _ _ | .fmin d _ _ | .fmax d _ _ | .fsqrt d _ | .ffma d _ _
  | .d2i d _ | .i2d d _ | .f2d d _ | .d2f d _ | .f2i d _ | .i2f d _ | .d2z d _ | .z2d d _ | .jalr d _ | .loop d _
  | .ld d _ _ _ _ | .ldq d _ _ | .ldc d _ _ | .ldx d _ _ | .lda d _ _ _ | .amoadd d _ _ _ | .amoand d _ _ _
  | .amoor d _ _ _ | .amoxor d _ _ _ | .amomin d _ _ _ | .amomax d _ _ _ | .amoswap d _ _ _ | .amofadd d _ _ _
  | .barr d _ | .barb d _ _ | .barw d _ | .cperr d _ | .copy d _ _ | .copy2 d _ _ | .copyp d _ _ | .copyz d _ _
  | .copyf d _ _ | .copyt d _ _ | .copyb d _ _ | .csrr d _ | .hstat d _ | .sclkr d | .stime d | .tbinf d _ => some ([d], [], [])
  | .csetb d _ _ | .ctag d _ _ | .amocas d _ _ _ | .jdec d _ | .cpdn d _ _ | .await d _ | .awaitt d _ | .pollh d _ => some ([d], [7], [])
  | .pand d _ _ | .por d _ _ | .pxor d _ _ | .pandn d _ _ | .pnot d _ | .pfromg d _ => some ([], [d], [])
  | .cmpi p _ _ _ | .cmp p _ _ _ | .cmpW p _ _ _ | .fcmpD p _ _ _ | .fcmpS p _ _ _ => some ([], [p], [])
  | .br _ | .brc _ _ _ | .jr _ | .ret | .detach | .fquit | .exit | .yield | .nop | .sleep _ | .rjoin _ | .st _ _ _ _
  | .stq _ _ _ | .stc _ _ _ | .stx _ _ _ | .pref _ _ _ | .stl _ _ _ _ | .red _ _ _ _ | .fenceAcq _ | .fenceRel _
  | .fenceFull _ | .fenceClean _ _ | .fenceInv _ _ | .fenceCleaninv _ _ | .wait _ _ _ _ | .bwait _ _ | .waitid _ _
  | .gath _ _ _ | .gaths _ _ _ | .scat _ _ _ | .scata _ _ _ | .scato _ _ _ | .logm _ | .grest _ _ _ | .csrw _ _
  | .trap _ | .eret | .ecall | .tlbir _ _ | .tlbira _ _ | .tlbia | .tlbw | .unpn _ | .sendh _ _ => some ([], [], [])
  | .follow _ _ | .spawn _ _ | .spawnc _ _ | .enqg _ | .enql _ _ | .waita _ _ _ _ _ | .binit _ _ | .bdrop _ | .pins _
  | .migr _ _ | .telw _ | .hdrop _ | .hful _ _ | .hbrk _ _ | .hbind _ _ | .preq _ _ => some ([], [7], [])
  | .move d _ => some ([], [], [d])
  | .ext k _ _ => some ([], [], [k])
  | .call _ => some ([1], [], [])
  | .cMov d _ | .cAdd d _ | .cSub d _ | .cAddi d _ | .cLi d _ | .cShli d _ | .cShri d _ | .cAnd d _ | .cOr d _
  | .cXor d _ | .cLd d _ => some ([g5 d], [], [])
  | .cSt _ _ | .cBr _ | .cBrc _ _ _ | .cRet | .cExit | .cNop | .cWait0 | .cYield => some ([], [], [])
  | .cCmpeq _ _ | .cCmplt _ _ => some ([], [7], [])
  | _ => none

/-- The scalar floating instructions. -/
def scalarFloat : Instr → Bool
  | .dadd _ _ _ | .dsub _ _ _ | .dmul _ _ _ | .ddiv _ _ _ | .dmin _ _ _ | .dmax _ _ _ | .dsqrt _ _ | .dfma _ _ _
  | .fadd _ _ _ | .fsub _ _ _ | .fmul _ _ _ | .fdiv _ _ _ | .fmin _ _ _ | .fmax _ _ _ | .fsqrt _ _ | .ffma _ _ _
  | .d2i _ _ | .i2d _ _ | .f2d _ _ | .d2f _ _ | .f2i _ _ | .i2f _ _ | .d2z _ _ | .z2d _ _ | .fcmpD _ _ _ _
  | .fcmpS _ _ _ _ => true
  | _ => false

/-- Those that only work on registers: integers, constants, comparisons, predicates, capabilities, moves, scalar floats, branches. -/
def onlyRegisters : Instr → Bool
  | .add _ _ _ | .sub _ _ _ | .mul _ _ _ | .mulh _ _ _ | .mulhz _ _ _ | .addw _ _ _ | .subw _ _ _ | .neg _ _
  | .div _ _ _ | .divz _ _ _ | .rem _ _ _ | .remz _ _ _ | .min _ _ _ | .max _ _ _ | .minz _ _ _ | .maxz _ _ _
  | .and _ _ _ | .or _ _ _ | .xor _ _ _ | .andn _ _ _ | .orn _ _ _ | .shl _ _ _ | .shr _ _ _ | .sar _ _ _ | .rol _ _ _
  | .clz _ _ | .ctz _ _ | .popc _ _ | .brev _ _ | .bswap _ _ | .sext _ _ _ | .zext _ _ _ | .addi _ _ _ | .andi _ _ _
  | .ori _ _ _ | .xori _ _ _ | .shli _ _ _ | .shri _ _ _ | .sari _ _ _ | .roli _ _ _ | .cmpi _ _ _ _ | .cmp _ _ _ _
  | .cmpW _ _ _ _ | .sel _ _ _ _ | .li _ _ | .lie _ _ | .bfx _ _ _ | .bfxz _ _ _ | .bfi _ _ _ | .pand _ _ _
  | .por _ _ _ | .pxor _ _ _ | .pandn _ _ _ | .pnot _ _ | .pmovg _ _ | .pfromg _ _ | .pcnt _ _ | .cadd _ _ _
  | .csetb _ _ _ | .candp _ _ _ | .cget _ _ _ | .cseal _ _ _ | .cunseal _ _ _ | .ctag _ _ _ | .cclr _ _ | .caddi _ _ _
  | .mov _ _ | .move _ _ | .movg _ _ | .dadd _ _ _ | .dsub _ _ _ | .dmul _ _ _ | .ddiv _ _ _ | .dmin _ _ _
  | .dmax _ _ _ | .dsqrt _ _ | .dfma _ _ _ | .fadd _ _ _ | .fsub _ _ _ | .fmul _ _ _ | .fdiv _ _ _ | .fmin _ _ _
  | .fmax _ _ _ | .fsqrt _ _ | .ffma _ _ _ | .d2i _ _ | .i2d _ _ | .f2d _ _ | .d2f _ _ | .f2i _ _ | .i2f _ _ | .d2z _ _
  | .z2d _ _ | .fcmpD _ _ _ _ | .fcmpS _ _ _ _ | .jalr _ _ | .loop _ _ | .br _ | .brc _ _ _ | .jr _ | .ret | .call _
  | .nop | .yield | .ext _ _ _ | .cMov _ _ | .cAdd _ _ | .cSub _ _ | .cAddi _ _ | .cLi _ _ | .cShli _ _ | .cShri _ _
  | .cAnd _ _ | .cOr _ _ | .cXor _ _ | .cBr _ | .cBrc _ _ _ | .cRet | .cNop | .cYield | .cCmpeq _ _ | .cCmplt _ _ => true
  | _ => false

/-- An instruction's outcome that is an exception taken with the strand's registers, control registers and PC as they were. -/
def tookTrap (s t : State) : Prop := ∃ (u : State) (c : BitVec 8) (v : Dword) (x : Qword),
  u.cur = s.cur ∧ u.me.regs = s.me.regs ∧ u.me.csr = s.me.csr ∧ u.me.pcc = s.me.pcc ∧ u.me.pccFar = s.me.pccFar ∧ t = u.takeTrap c v x

/-- The control registers of the strand but for FFLG and TAINT. -/
def sameCsr (a b : Csr) : Prop := b = { a with fflg := b.fflg, taintSticky := b.taintSticky, taintCount := b.taintCount }

/-- No reduction of the core is on its way or in its buffer. -/
def noReductions (s : State) : Prop := (s.core s.myCore).combine = [] ∧ s.reds = []

/-- The state once a core's L1 has room for a line: a full one has written its oldest back and dropped it (R7, R125, log entry 106). -/
def madeRoom (s : State) (core line : Nat) : State :=
  if (s.core core).lines.length < 512 ∨ (Table.find? (s.core core).lines line).isSome = true then s
  else (s.core core).lines.head?.elim s (fun e => s.evictLine core e.1)

/-- An outcome without the instruction's effect: an exception or a stall. Memory and every core are as they were; a strand that parks has
its unresolved handles broken, whose entries the backing area may show (R290, R291). -/
def noEffect (s t : State) : Prop := ((∃ c v x, t = s.spent.takeTrap c v x) ∨ t = s.spent) ∧
  t.hostMem = s.hostMem ∧ t.cores = s.cores ∧ t.me.regs = s.me.regs ∧ t.me.ctr = s.me.ctr ∧
  (t.mem = s.mem ∨ (t.me.status = .parked ∧ s.burden.1 ≠ 0))

end Sys2Proof.Claims

/-- R46, R48, R307: an instruction of these groups changes no register but its destination and, where the manual says so, p7: whatever it does otherwise, a
trap, a stall and a wait among it. The strand is READY and runs no stage of a chain, as every other strand that issues. -/
def Sys2Proof.Claims.RegisterFrame : Prop :=
  ∀ (i : Instr) (s t : State) (gs : List GIdx) (ps : List PIdx) (es : List (BitVec 3)), Claims.dests i = some (gs, ps, es) → s.me.status = .ready → s.me.chain = none →
    exec i s = .next t → s.me.regs.sameBut t.me.regs gs [] ps es

/-- R64, R150, R306, R307: but for CSRW and ERET, which are for that, such an instruction either takes an exception or leaves every control register of the strand as it was,
FFLG and TAINT apart; FFLG changes only for a scalar floating instruction. -/
def Sys2Proof.Claims.ControlRegisterFrame : Prop :=
  ∀ (i : Instr) (s t : State), (Claims.dests i).isSome = true → (∀ d k, i ≠ .csrw d k) → i ≠ .eret → s.me.status = .ready → s.me.chain = none → exec i s = .next t →
    Claims.tookTrap s t ∨ (Claims.sameCsr s.me.csr t.me.csr ∧ (Claims.scalarFloat i = false → t.me.csr.fflg = s.me.csr.fflg))

/-- R46: an instruction that only works on registers leaves every byte of memory, and everything every core holds of it, as it was; only where
it parks a strand that has unresolved handles may the backing area show these broken (R290, R291). -/
def Obligations.RegisterOnlyFrame : Prop :=
  ∀ (i : Instr) (s t : State), Claims.onlyRegisters i = true → exec i s = .next t →
    (t.mem = s.mem ∨ (t.me.status = .parked ∧ s.burden.1 ≠ 0)) ∧ t.hostMem = s.hostMem ∧ t.cores = s.cores ∧ t.reds = s.reds ∧
    t.orphans = s.orphans ∧ t.posted = s.posted ∧ t.crews = s.crews ∧ t.chains = s.chains

/-- R86, R124, R125: a plain load changes no byte of memory, none that another core sees and no counter of its strand, but that where its core's L1
must make room for the line, the oldest one goes home; when it reads a scratchpad or host memory, memory is as the translation left it. One that
does not complete leaves memory and every core as they were. -/
def Obligations.LoadFrame : Prop :=
  ∀ (i : Instr) (s s1 t : State) (f : Claims.LoadForm) (va : Dword) (tr : Trans), Claims.loadForm s i = some f → Claims.noReductions s →
    capCheckAt (s.cap f.a) [0] { r := true } f.addr f.n f.n = .ok va → s.translate s.ctx f.acc false va = .ok (tr, s1) → exec i s = .next t →
    Claims.noEffect s t ∨
    (t.hostMem = s.hostMem ∧ t.me.ctr = s.me.ctr ∧ ((∀ pa, tr.loc ≠ .mem pa) → t.mem = s1.mem) ∧
      (∀ pa, tr.loc = .mem pa → let base := Claims.madeRoom s1 s.myCore (pa / 128)
        t.mem = base.mem ∧ ∀ core x, core ≠ s.myCore → t.seenByte core x = base.seenByte core x))

/-- R54, R86, R124, R125: a plain store changes only the bytes it stores: of device memory as its own core sees it, of the page where it stands in
a scratchpad window, or of host memory; every byte outside them, and every byte that another core sees, is as it was, but that where its core's
L1 must make room for the line, the oldest one goes home. One that does not complete leaves memory and every core as they were. -/
def Obligations.StoreFrame : Prop :=
  ∀ (i : Instr) (s s1 t : State) (f : Claims.StoreForm) (va : Dword) (tr : Trans), Claims.storeForm s i = some f → Claims.noReductions s → let n := f.bytes.length
    capCheckAt (s.cap f.a) [0] { w := true } f.addr n n = .ok va → s.translate s.ctx .store false va = .ok (tr, s1) → exec i s = .next t →
    Claims.noEffect s t ∨
    (((∀ pa, tr.loc ≠ .mem pa) → t.mem = s1.mem) ∧ ((∀ a, tr.loc ≠ .host a) → t.hostMem = s.hostMem) ∧
      (∀ pa, tr.loc = .mem pa → let base := Claims.madeRoom s1 s.myCore (pa / 128)
        t.mem = base.mem ∧ ∀ core x, (core ≠ s.myCore ∨ x < pa ∨ pa + n ≤ x) → t.seenByte core x = base.seenByte core x) ∧
      (∀ core page frame off, tr.loc = .scratch core page frame off → ∀ c p h x, (c ≠ core ∨ p ≠ page ∨ (p ≠ 63 ∧ h ≠ frame) ∨ x < off ∨ off + n ≤ x) →
        (t.findPage c p h).map (fun q => q.bytes.byte x) = (s1.findPage c p h).map (fun q => q.bytes.byte x)) ∧
      (∀ a, tr.loc = .host a → ∀ x, (x < a ∨ a + n ≤ x) → cellGet 0 t.hostMem x = cellGet 0 s.hostMem x))

/-! ## Exceptions, reset, decoding, the step -/

/-- R307, R333, R335 to R337, R189: a user-handleable exception with EN set and INH clear goes to the handler with its five registers written, PCC's bounds
being what they were (R52); any other parks the strand and posts its record, and the unresolved handles it answers for break with reason 1. Either way an interrupted REP leaves its place in REPI, and no other
register changes; memory does only where such handles break (R290, R291). R307 gives the handler as cat(HADDR, 0); that its bit 47 is repeated above it is the
model's reading (log entry 30). -/
def Obligations.ExceptionEntry : Prop :=
  ∀ (s : State) (cause : BitVec 8) (tval : Dword) (extra : Qword), s.me.follow = none →
    let c := s.me.csr
    let repi := match s.me.rep with
      | some r => BitVec.ofNat 64 (2 ^ 63 + 2 ^ 56 * (r.idx % 8) + 2 ^ 28 * (r.count % 2 ^ 28) + r.iter % 2 ^ 28)
      | none => c.repi
    let user : Prop := (1 ≤ cause.toNat ∧ cause.toNat ≤ 5) ∨ (8 ≤ cause.toNat ∧ cause.toNat ≤ 16)
    let handler : Dword := (BitVec.ofNat 48 (2 * (c.trapv.toNat / 2 % 2 ^ 47))).signExtend 64
    (user → c.trapv.getLsbD 0 = true → c.inh = false → (s.takeTrap cause tval extra).pc = handler ∧
      s.takeTrap cause tval extra = { s with me := Strand.setPc { s.me with
        status := .ready
        wait := none
        resumed := false
        rep := none
        csr := { c with repi := repi, tcause := cause, tval := tval, tepc := s.pc, stg := BitVec.ofNat 4 s.me.stage, inh := true } } handler }) ∧
    (¬ (user ∧ c.trapv.getLsbD 0 = true ∧ c.inh = false) → let t := s.takeTrap cause tval extra
      t.me = { s.me with status := .parked, wait := none, resumed := false, rep := none, csr := { c with repi := repi }, parkCause := cause, sysPark := false } ∧
      t.cores = s.cores ∧ t.hostMem = s.hostMem ∧ (s.burden.1 = 0 → t.mem = s.mem) ∧
      ((s.part s.myPart).state ≠ 0 → (t.part s.myPart).faults = (s.part s.myPart).faults ++
        [(⟨extra, s.pc, tval, s.time.toNat, c.asid, BitVec.ofNat 4 s.me.stage, cause, 2 ^ 16 * s.devId + s.cur, true⟩, s.time.toNat)]) ∧
      ((s.parts.map (·.1)).Nodup → ∀ (part serial : Nat) (h : HEntry), ((s.part part).entries.map (·.1)).Nodup → Table.find? (s.part part).entries serial = some h →
        h.unresolved = true → h.resp.map (·.1) = some s.me? → h.drop = false → ∃ h', Table.find? (t.part part).entries serial = some h' ∧
          h'.state = .broken ∧ h'.reason = 1 ∧ h'.cause = cause ∧ h'.user = 0 ∧ h'.origin = h.id s.devId serial))

/-- R11, R14, R27, R46, R81, R234, R236, R306, R382, R389, R390: after reset every slot is FREE, every partition is FREE with its registers at the values of R389, table slots are invalid,
CHKT is 1,024, control registers are zero, no layer is present, boot has not begun and the clock is 1,400 MHz. That caches, queues and requests on their way are empty is the
choice of the model (log entry 7), and so are the zeros of the registers of the global and partition blocks to which the manual gives no reset value (8). -/
def Sys2Proof.Claims.ResetState : Prop :=
  (∀ slot, (State.reset.strand slot).status = .free) ∧
  (∀ part, let p := State.reset.part part
    p.state = 0 ∧ p.outcome = 0 ∧ p.bitmap = 0 ∧ p.reg 0x078 = 64 ∧ p.reg 0x080 = 64 ∧ (∀ off, off ≠ 0x078 → off ≠ 0x080 → p.reg off = 0) ∧ p.counters = [] ∧ p.launches = []) ∧
  (∀ c, let k := State.reset.core c
    k.chkt = 1024 ∧ k.chkn = 0 ∧ k.tables.toList.all (fun t => !t.valid) = true ∧ k.channels = Vector.replicate 8 ⟨0, 0, none⟩ ∧ k.ring = [] ∧ k.queue = [] ∧
    k.lines = [] ∧ k.ilines = [] ∧ k.combine = [] ∧ k.pages = [] ∧ k.tlb = [] ∧ k.copies = [] ∧ k.gathers = []) ∧
  (let c := State.reset.me.csr
   c.trapv = 0 ∧ c.tcause = 0 ∧ c.tval = 0 ∧ c.tepc = 0 ∧ c.stg = 0 ∧ c.inh = false ∧ c.frm = 0 ∧ c.fflg = 0 ∧ c.taintSticky = false ∧ c.taintCount = 0) ∧
  State.reset.sys.layers = 0 ∧ State.reset.sys.stage = 0 ∧ State.reset.sys.result = 0 ∧ State.reset.sys.mhz = 1400 ∧ State.reset.sys.held = false ∧
  State.reset.fadd = none ∧ State.reset.posted = [] ∧ State.reset.chains = [] ∧ State.reset.crews = [] ∧ State.reset.scopes = [] ∧ State.reset.rows = [] ∧ State.reset.reds = [] ∧ State.reset.hmsgs = []

namespace Sys2Proof.Claims

/-- What the turn of an instruction adds to its execution: a vector instruction that has issued takes a place of its core's dispatch queue (R44, log entry 125). -/
def queued (i : Instr) (t : State) : State := if plainVector i = true ∧ t.retired = true then
    t.modCore t.myCore (fun k => { k with queue := k.queue ++ [.vector t.me?] }) else t

/-- The state a turn finds: what the machine does of its own first, and the turn's time (R128, R349, R387, log entry 1). -/
def turned (s : State) (t : Turn) (rest : List Turn) : State :=
  let u := ({ s with agenda := rest } : State).settleBacks.ageFadd
  ({ u with time := s.time + BitVec.ofNat 64 t.dt } : State).systemTurn

end Sys2Proof.Claims

/-- R43, R153, R154, R163, R188, R194: when the turn of the machine is the issue of a strand whose turn of the rotation has come, the step is that
strand's next instruction: of the bytes at its PC, or of the body of its REP, the execution of what they decode to with its word on record, where the
discipline lets it through, and the exception the discipline gives it where not; a pattern that decodes to nothing is an illegal instruction and a
fetch that fails takes its own exception. A strand that has yielded forgoes the turn, and one whose turn has not come takes none. A vector instruction takes a place of
its core's dispatch queue and stalls while that is full (R44); the model's choices are that it has its effect as it takes the place (log entry 125), and that only WAIT
issues while a vector state instruction still owes its write stream an element (130). An event has its turn in the same way where it may happen. -/
def Obligations.StepRunsTheInstruction : Prop :=
  ∀ (s : State) (t : Turn) (rest : List Turn) (slot : Nat), s.agenda = t :: rest → let u := Claims.turned s t rest
    (∀ e, t.act = .event e → (u.mayHappen e = true → step s = exec e u) ∧ (u.mayHappen e = false → step s = .next u)) ∧ (t.act = .issue slot →
    let v := (u.rotated slot).focus slot
    (u.mayIssue slot = false → step s = .next u) ∧
    (u.mayIssue slot = true → v.me.yielded = true → step s = .next (v.modMe (fun m => { m with yielded := false }))) ∧
    (u.mayIssue slot = true → v.me.yielded = false → v.me.follow = none →
      let run (r : Except Reject Instr) (s1 : State) (w : Word) (half : Bool) : Prop := let x := { s1 with word := w, retired := false }
        let owes : Bool := s1.me.vstates.any (fun y => y.push.isSome)
        (owes = true → (∀ i, r = .ok i → isWait i = false) → step s = .next x.spent) ∧
        (∀ i s2, (owes = true → isWait i = true) → r = .ok i → x.discipline i = .ok s2 → let full := plainVector i = true ∧ 8 ≤ (s2.core s2.myCore).queue.length
          (full → step s = .next s2.spent) ∧
          (∀ y, ¬ full → exec i s2 = .next y → (v.me.rep = none ∨ y.me.follow = none) → step s = .next (Claims.queued i y))) ∧
        (∀ i c a e, (owes = true → isWait i = true) → r = .ok i → x.discipline i = .error (.trap c a e) → step s = .next (x.spent.takeTrap c a e)) ∧
        (∀ e, owes = false → r = .error e → step s = exec (.illegalInstruction w half) x)
      (v.me.rep = none →
        (∀ w s1, v.fetchAt v.pc.toNat = .ok (.word w, s1) → run (decodeWord w) s1 w false) ∧
        (∀ h s1, v.fetchAt v.pc.toNat = .ok (.half h, s1) → run (decodeHalf h) s1 (h.setWidth 32) true) ∧
        (∀ c a e, v.fetchAt v.pc.toNat = .error (.trap c a e) → step s = .next (v.spent.takeTrap c a e))) ∧
      (∀ p, v.me.rep = some p → let w := p.body.getD p.idx 0
        run (decodeWord (stagger w (p.iter * p.stride))) v w false)))

namespace Sys2Proof.Claims

/-- Words that the manual writes out beside the instructions they are, some for each family. -/
noncomputable def manualWords : List (Word × Instr) := [
  (0x038C2801, .add 5 6 7), (0xF8061841, .addi 3 3 0x1F0), (0xFFFE48C1, .li 9 0x7FFF), (0x030A98A1, .cmp 3 2 5 6), (0xE5124141, .ffma 8 9 10),
  (0xF0041111, .caddi 2 2 0x1E0), (0x00031A21, .brc 3 false 6), (0x20120A31, .jalr 1 9), (0x220E0251, .rep 7 4 1), (0x13082B01, .ld 5 4 2 true 4),
  (0xFD843311, .st 6 2 3 0x3F), (0x81903331, .lda 6 8 3 4), (0x45123B51, .amoadd 7 9 10 2), (0x03FFFC01, .wait 31 31 31 0), (0x80182C21, .barw 5 12),
  (0x210E0431, .waitid 7 2), (0x000AE451, .stmr 28 5), (0x06165461, .gath 10 11 12), (0x08C51D11, .vfma 3 5 6 2), (0x028425A1, .vld 4 2 5),
  (0x05942E01, .tmma 1 true false false 10 11), (0x000C0E21, .tbld 1 6), (0x44903631, .supd 6 8 9), (0x00042641, .vsrd 4 2), (0x038C2E61, .chbnd 5 6 7),
  (0x00025671, .get 10 1), (0x26925681, .invon 10 9 13), (0x00127691, .await 14 9), (0x7FFFCF01, .ext 1 true 0xFFFF), (0x00402F21, .csrw 5 0x20),
  (0x400C2F31, .sret 5 6), (0x038C0741, .tlbir 6 7)]

end Sys2Proof.Claims

/-- R153 to R157: the words that the manual writes out decode to the instructions it gives them; a word is four bytes, the lowest first, with its
scheduling hint. -/
def Obligations.ManualWordsDecode : Prop :=
  (∀ x ∈ Claims.manualWords, decodeWord x.1 = .ok x.2) ∧ decode [0xA1, 0x98, 0x0A, 0x03] = .ok ⟨.cmp 3 2 5 6, Hint.none, 4⟩ ∧
  decode [0x0D, 0x28, 0x8C, 0x03] = .ok ⟨.add 5 6 7, ⟨true, 2⟩, 4⟩

/-- R307, R162: the machine goes on from every state: a step is always a next state, never a fault, nor a refusal. -/
def Obligations.EveryStepAnswers : Prop := ∀ s : State, Safe s

/-- R153 to R166, R162: every well-formed instruction with a word decodes from its own encoding to itself, whatever its operands and its hint, and takes as many bytes; a 16-bit one has no hint. -/
def Obligations.DecodeOfEncode : Prop :=
  ∀ (h : Hint) (i : Instr) (rest : List Byte), i.WellFormed → ∃ h' n, decode (encode h i ++ rest) = .ok ⟨i, h', n⟩ ∧ n = (encode h i).length ∧
    (n = 4 → h' = h) ∧ (n = 4 ∨ n = 2)

namespace Sys2Proof.Claims

/-- Every sparse memory of the machine is in its one canonical form: device memory, host memory, the flash, and each page of each core, its ready ring's among them. -/
def canonical (s : State) : Prop := s.mem.wf = true ∧ cellsWf 0 s.hostMem = true ∧ cellsWf 0xFF s.sys.flash = true ∧
  ∀ e ∈ s.cores, e.2.ringBytes.wf = true ∧ ∀ p ∈ e.2.pages, p.bytes.wf = true

end Sys2Proof.Claims

/-- R54 to R57, R118, R122, R379: the canonical form of every memory is an invariant of the machine: each step keeps it, whatever happens in it. -/
def Obligations.MemoryStaysCanonical : Prop := ∀ s t : State, Claims.canonical s → step s = .next t → Claims.canonical t

/-- The canonical form holds after reset (log entries 4 and 24). -/
def Sys2Proof.Claims.ResetIsCanonical : Prop := Claims.canonical State.reset

/-- R46: g0 reads as 128 zero bits, untagged and untainted, and p0 as all ones, untainted, in every state, and writes to them are discarded. -/
def Obligations.FixedRegisters : Prop :=
  ∀ (s : State) (v : GReg) (b : Dword) (t : Bool), s.g 0 = ⟨0, false, false⟩ ∧ s.setG 0 v = s ∧ s.p 0 = ⟨BitVec.allOnes 64, false⟩ ∧ s.setP 0 b t = s ∧
    (∀ i j, i ≠ 0 → (s.setG i v).g i = v ∧ (j ≠ i → (s.setG i v).g j = s.g j)) ∧ (∀ i j, i ≠ 0 → (s.setP i b t).p i = ⟨b, t⟩ ∧ (j ≠ i → (s.setP i b t).p j = s.p j))

/-- R59, word for word: each case of the table, for the signed and the unsigned instructions; none traps, and FFLG stays as it is. -/
def Obligations.DivisionCases : Prop :=
  ∀ (s : State) (d a b : GIdx), d ≠ 0 →
    let x := s.x a
    let y := s.x b
    ∃ q r qz rz : State, Runs (.div d a b) s q ∧ Runs (.rem d a b) s r ∧ Runs (.divz d a b) s qz ∧ Runs (.remz d a b) s rz ∧
      q.me.csr = s.me.csr ∧ r.me.csr = s.me.csr ∧ qz.me.csr = s.me.csr ∧ rz.me.csr = s.me.csr ∧
      (y = 0 → q.x d = BitVec.allOnes 64 ∧ r.x d = x ∧ qz.x d = BitVec.allOnes 64 ∧ rz.x d = x) ∧
      (x.toInt = -(2 ^ 63) → y.toInt = -1 → (q.x d).toInt = -(2 ^ 63) ∧ r.x d = 0) ∧
      (y ≠ 0 → ¬ (x.toInt = -(2 ^ 63) ∧ y.toInt = -1) → (q.x d).toInt = x.toInt.tdiv y.toInt ∧ (r.x d).toInt = x.toInt - (q.x d).toInt * y.toInt) ∧
      (y ≠ 0 → (qz.x d).toNat = x.toNat / y.toNat ∧ (rz.x d).toNat = x.toNat - (qz.x d).toNat * y.toNat)

/-- R172, word for word: SEL chooses by bit 0 of the predicate, and its result is data. -/
def Obligations.SelectChooses : Prop :=
  ∀ (s : State) (d a b : GIdx) (p : PIdx), ∃ t : State, Runs (.sel d a b p) s t ∧ (d ≠ 0 → (t.g d).bits.extractLsb' 0 64 = (if (s.p p).bits.getLsbD 0 = true then s.x a else s.x b) ∧
    (t.g d).bits.extractLsb' 64 64 = 0 ∧ (t.g d).tag = false ∧ ((t.g d).taint = true ↔ (s.p p).taint = true ∨ (s.g a).taint = true ∨ (s.g b).taint = true)) ∧
    (∀ j, j ≠ d → t.g j = s.g j)

/-! ## The statements that join several of the parts above -/

/-- Integer, predicate and move instructions run to their end with their results: IntegerResults, PredicateResults and MoveResults. Completed here: ADD, SUB, MUL, MULH, MULHZ, ADDW, SUBW, NEG, DIV, DIVZ, REM, REMZ, MIN, MAX, MINZ, MAXZ, AND, OR, XOR, ANDN, ORN, SHL, SHR, SAR, ROL, CLZ, CTZ, POPC, BREV, BSWAP, SEXT, ZEXT, ADDI, ANDI, ORI, XORI, SHLI, SHRI, SARI, ROLI, CMPI, CMP, CMP_W, SEL, LI, LIE, BFX, BFXZ, BFI, PAND, POR, PXOR, PANDN, PNOT, PMOVG, PFROMG, PCNT, MOVE, MOVG, VINS, VEXT, VBCG, C_MOV, C_ADD, C_SUB, C_ADDI, C_LI, C_SHLI, C_SHRI, C_AND, C_OR, C_XOR, C_CMPEQ, C_CMPLT. -/
def Obligations.ScalarResults : Prop := Claims.IntegerResults ∧ Claims.PredicateResults ∧ Claims.MoveResults

/-- Capability derivation, sealing and unsealing: results and causes: CapabilityResults and SealingFollowsTheChecks. Completed here: CADD, CSETB, CANDP, CGET, CSEAL, CUNSEAL, CTAG, CCLR, CADDI, MOV. -/
def Obligations.CapabilityEffects : Prop := Claims.CapabilityResults ∧ Claims.SealingFollowsTheChecks

/-- The order of capability checks; a derived tag never has wider bounds or a new permission: CapCheckOrder, MovingKeepsBounds and DerivationNeverWidens. -/
def Obligations.CapabilityChecksAndBounds : Prop := Claims.CapCheckOrder ∧ Claims.MovingKeepsBounds ∧ Claims.DerivationNeverWidens

/-- Scalar floating point: results rounded once, canonical NaN, compares and flags: ScalarFloatResults, CanonicalNaN and FloatCompareResults. Completed here: DADD, DSUB, DMUL, DDIV, DMIN, DMAX, DSQRT, DFMA, FADD, FSUB, FMUL, FDIV, FMIN, FMAX, FSQRT, FFMA, D2I, I2D, F2D, D2F, F2I, I2F, D2Z, Z2D, FCMP_D, FCMP_S. -/
def Obligations.ScalarFloating : Prop := Claims.ScalarFloatResults ∧ Claims.CanonicalNaN ∧ Claims.FloatCompareResults

/-- Branches, jumps through capabilities, and REP: BranchResults, JumpResults and RepResults. Completed here: BR, CALL, BRC, JR, JALR, RET, LOOP, REP, C_BR, C_BRC, C_RET. -/
def Obligations.ControlTransfers : Prop := Claims.BranchResults ∧ Claims.JumpResults ∧ Claims.RepResults

/-- Follow groups: FOLLOW, DETACH, RJOIN and FQUIT: FollowGroupResults, LeaderJoins and FollowerJoins. Completed here: FOLLOW, DETACH, RJOIN, FQUIT. -/
def Obligations.FollowGroups : Prop := Claims.FollowGroupResults ∧ Claims.LeaderJoins ∧ Claims.FollowerJoins

/-- Spawning, enqueuing, join counters, and a strand's sleep and end: SpawnResults, EnqueueResults, JoinDecrementResults, StrandLifeResults and ExitResults. Completed here: SPAWN, SPAWNC, ENQG, ENQL, JDEC, EXIT, YIELD, NOP, SLEEP, C_EXIT, C_NOP, C_YIELD. -/
def Obligations.StrandCreation : Prop := Claims.SpawnResults ∧ Claims.EnqueueResults ∧ Claims.JoinDecrementResults ∧ Claims.StrandLifeResults ∧ Claims.ExitResults

/-- Plain loads, stores, STC and PREF: results and causes: LoadResults, StoreResults, StcResults and PrefetchIsInvisible. Completed here: LD, ST, LDQ, STQ, LDC, STC, LDX, STX, PREF, C_LD, C_ST. -/
def Obligations.LoadsAndStores : Prop := Claims.LoadResults ∧ Claims.StoreResults ∧ Claims.StcResults ∧ Claims.PrefetchIsInvisible

/-- What a load sees of its core's line, what a store changes of it, and tags and taint: LoadsSeeTheLine, StoresChangeTheirBytes and StoresClearTags. -/
def Obligations.MemoryView : Prop := Claims.LoadsSeeTheLine ∧ Claims.StoresChangeTheirBytes ∧ Claims.StoresClearTags

/-- Atomics, swaps and remote reductions: AtomicResults, SwapResults, WideSwapResults and ReductionResults. Completed here: AMOADD, AMOAND, AMOOR, AMOXOR, AMOMIN, AMOMAX, AMOSWAP, AMOCAS, AMOFADD, RED. -/
def Obligations.AtomicsAndReductions : Prop := Claims.AtomicResults ∧ Claims.SwapResults ∧ Claims.WideSwapResults ∧ Claims.ReductionResults

/-- Synchronising loads and stores, fences and cache operations: SynchronisingResults, FenceResults and CacheOperationResults. Completed here: LDA, STL, FENCE_ACQ, FENCE_REL, FENCE_FULL, FENCE_CLEAN, FENCE_INV, FENCE_CLEANINV. -/
def Obligations.SynchronisationAndFences : Prop := Claims.SynchronisingResults ∧ Claims.FenceResults ∧ Claims.CacheOperationResults

/-- Counter waits, word waits and barrier words: WaitResults, WaitWordResults and BarrierResults. Completed here: WAIT, WAITA, BINIT, BARR, BARB, BWAIT, BARW, BDROP, C_WAIT0. -/
def Obligations.WaitsAndBarriers : Prop := Claims.WaitResults ∧ Claims.WaitWordResults ∧ Claims.BarrierResults

/-- Copies: what their issue queues, and channels: CopyIssue, PackingCopyIssue and ChannelResults. Completed here: CPDN, WAITID, CPERR, COPY, COPY2, COPYP, COPYZ, COPYF, COPYT, COPYB. -/
def Obligations.CopyCommands : Prop := Claims.CopyIssue ∧ Claims.PackingCopyIssue ∧ Claims.ChannelResults

/-- Read and write streams and the operands that use them: StreamResults and StreamOperands. Completed here: STMR, STMW, STMX, STMD. -/
def Obligations.StreamEffects : Prop := Claims.StreamResults ∧ Claims.StreamOperands

/-- Gathers and scatters at issue, their restart and their log: GatherIssue and GatherRestart. Completed here: GATH, GATHS, SCAT, SCATA, SCATO, LOGM, GREST. -/
def Obligations.GatherCommands : Prop := Claims.GatherIssue ∧ Claims.GatherRestart

/-- Masked vector instructions, 32-bit and packed 16-bit lanes: LaneResults and HalfLaneResults. Completed here: VFADD, VFSUB, VFMUL, VFDIV, VFMIN, VFMAX, VFABS, VFNEG, VFMA, VFMS, VFNMA, VFSQRT, VFRSQ, VFRCP, VFEX2, VFLG2, VBADD, VBMUL, VBFMA, VHADD, VHMUL, VHFMA, VADD, VSUB, VMUL, VMIN, VMAX, VMINZ, VMAXZ, VABS, VAND, VOR, VXOR, VANDN, VSHL, VSHR, VSAR, VNOT, VPRM, VZIP, VUNZ, VSLD, VEXPD, VMOV, VDEC, VF2B, VB2F, VF2H, VH2F, VI2F, VF2I. -/
def Obligations.VectorLanes : Prop := Claims.LaneResults ∧ Claims.HalfLaneResults

/-- Vector instructions that write a whole register, a predicate or an encoding: WholeRegisterResults and ExtremumCompareEncode. Completed here: VFCMP, VICMP, VSEL, VCMPR, VRADD, VRMAX, VRMIN, VRIADD, VSCAN, VISCAN, VDOT, VENC. -/
def Obligations.VectorWhole : Prop := Claims.WholeRegisterResults ∧ Claims.ExtremumCompareEncode

/-- Vector loads and stores, and the landing of a load: VectorLoadResults, VectorLoadLands and VectorStoreResults. Completed here: VLD, VST, VLDS, VSTS, VLDX, VSTX, VLDB, VECTOR_LOAD_COMPLETE. -/
def Obligations.VectorMemory : Prop := Claims.VectorLoadResults ∧ Claims.VectorLoadLands ∧ Claims.VectorStoreResults

/-- TMMA at issue, shadow tiles and table slots: TmmaIssue and ShadowAndTableResults. Completed here: TMMA, TCMT, TDSC, TBLD, TBST, TBINF. -/
def Obligations.MultiplyIssue : Prop := Claims.TmmaIssue ∧ Claims.ShadowAndTableResults

/-- Tile zeroing, tile regions and tile conversion at issue: TileZeroResults, TileRegionResults and TileConvertResults. Completed here: TZERO, TZERO_R, TST, TST_BF, TST_CD, TCVT, TLD, TLD_BF, TADD. -/
def Obligations.TileCommands : Prop := Claims.TileZeroResults ∧ Claims.TileRegionResults ∧ Claims.TileConvertResults

/-- What the multiply engine does to the accumulator, and the recheck of a multiplication: AccumulatorEffects, MultiplyFoldsBlocks and RecheckResults. Completed here: ENGINE_TAKE, TMMA_KBLOCK, ACCUM_OP_COMPLETE, RECHECK_COMPLETE, CHKN_WRITE. -/
def Obligations.AccumulatorWork : Prop := Claims.AccumulatorEffects ∧ Claims.MultiplyFoldsBlocks ∧ Claims.RecheckResults

/-- State-word instructions at issue and at service, and sweep registration: StateWordResults and SweepRegistration. Completed here: SRD, SADV, SUPD, SSET, SARM, SDIS, SSWP, SRAW. -/
def Obligations.StateWordIssue : Prop := Claims.StateWordResults ∧ Claims.SweepRegistration

/-- Vector state-word instructions: issue and landing: VectorStateResults and VectorStateLands. Completed here: VSRD, VSADV, VSUPD, VSRDY, VSTATE_LANE. -/
def Obligations.VectorStateWords : Prop := Claims.VectorStateResults ∧ Claims.VectorStateLands

/-- Clocks, laws, event queues, the calendar and the sweep: ClockAndEventResults and CalendarAndSweep. Completed here: SLAW, SCLKR, SCLKW, SCLKA, EVPOP, EVWAIT, STIME, STICK_WRITE, CALENDAR_FIRE, FIRE_REQUEST_SERVE, HELD_FIRING_POST, SWEEP_PASS, SWEEP_WORD. -/
def Obligations.ClocksAndEvents : Prop := Claims.ClockAndEventResults ∧ Claims.CalendarAndSweep

/-- Folding, spreading and the housekeeping of chains: ChainHousekeeping and ChainSwitches. Completed here: CHAIN_POLICY_SAMPLE, CHAIN_FOLD, CHAIN_SPREAD, CHAIN_TRIGGER_TIMEOUT, CHAIN_STATE_FREE. -/
def Obligations.ChainEvents : Prop := Claims.ChainHousekeeping ∧ Claims.ChainSwitches

/-- Reading, resolving, dropping and binding handles: HandleReads and HandleChanges. Completed here: AWAIT, AWAITT, POLLH, HDROP, HBIND, HFUL, HBRK, HSTAT. -/
def Obligations.HandleEntries : Prop := Claims.HandleReads ∧ Claims.HandleChanges

/-- Invocations, sends and the messages of handles: InvocationResults and HandleMessages. Completed here: INVOKE, INVON, INVAT, SENDH, HANDLE_MESSAGE, MAILBOX_DELIVER, HANDLE_LINK_TIMEOUT, SPILL_CATCH, SPILL_REPLAY. -/
def Obligations.HandleInvocations : Prop := Claims.InvocationResults ∧ Claims.HandleMessages

/-- Reading and writing control registers, and the extension registers: ControlRegisterReads and ControlRegisterWrites. Completed here: EXT, CSRR, CSRW. -/
def Obligations.ControlRegisters : Prop := Claims.ControlRegisterReads ∧ Claims.ControlRegisterWrites

/-- Invalidations, migration, pinning and walks: InvalidationResults and TranslationUpkeep. Completed here: TLBIR, TLBIRA, TLBIA, TLBW, PINS, UNPN, MIGR, PAGE_FILL, PAGE_DRAIN, L1_EVICT, ROW_CACHE_FILL, PAGE_WALK, STALLED_WRITE_RETRY, TLB_INVALIDATE_ACK, MIGRATION_COMMIT. -/
def Obligations.TranslationChanges : Prop := Claims.InvalidationResults ∧ Claims.TranslationUpkeep

/-- Preemption requests, saved contexts and halting: ContextResults and PreemptionEvents. Completed here: PREQ, SCTX, LCTX, TELW, PREEMPT_REQUEST, COPY_DRAIN_EXPIRY, PREEMPT_HALT_COMPLETE, CREW_RESUME. -/
def Obligations.ContextsAndPreemption : Prop := Claims.ContextResults ∧ Claims.PreemptionEvents

/-- What register-writing groups leave unchanged: registers and control registers: RegisterFrame and ControlRegisterFrame. -/
def Obligations.RegisterFrames : Prop := Claims.RegisterFrame ∧ Claims.ControlRegisterFrame

/-- What reset leaves: ResetState and ResetIsCanonical. -/
def Obligations.AfterReset : Prop := Claims.ResetState ∧ Claims.ResetIsCanonical
end

