-- ==== Sys2Proof/Laws/Boot.lean ====
section
/-!
SUPPORT. The laws of boot's records: an LMS state record reads back as it was written (R384).
-/
namespace Sys2Proof.Machine

theorem length_toBytes : ∀ n v : Nat, (toBytes n v).length = n
  | 0, _ => rfl
  | n + 1, v => by simp [toBytes, length_toBytes n]

theorem ofBytes_toBytes : ∀ {n v : Nat}, v < 256 ^ n → ofBytes (toBytes n v) = v
  | 0, v, h => by simp [toBytes, ofBytes]; omega
  | n + 1, v, h => by
    have h1 : v / 256 < 256 ^ n := Nat.div_lt_of_lt_mul (by rw [Nat.mul_comm, ← Nat.pow_succ]; exact h)
    rw [toBytes, ofBytes, ofBytes_toBytes h1, BitVec.toNat_ofNat]
    omega

theorem lmsRecordRead_bytes {q c : Nat} (hq : q < 2 ^ 32) (hc : c < 2 ^ 64) : lmsRecordRead (lmsRecordBytes q c) = some (q, c) := by
  have h1 : (toBytes 4 q ++ toBytes 8 c).length = 12 := by simp [length_toBytes]
  have h2 (k : Nat) : (toBytes 96 k).take 96 = toBytes 96 k := List.take_of_length_le (by rw [length_toBytes])
  have hm : (lmsRecordBytes q c).take 12 = toBytes 4 q ++ toBytes 8 c := List.take_left' h1
  have hs : ((lmsRecordBytes q c).drop 12).take 96 = toBytes 96 (Config.identitySignature (toBytes 4 q ++ toBytes 8 c)) := by
    rw [lmsRecordBytes, List.drop_left' h1, h2]
  unfold lmsRecordRead
  simp only [hm, hs, true_or, if_true]
  rw [List.take_left' (length_toBytes 4 q), List.drop_left' (length_toBytes 4 q), ofBytes_toBytes (by simpa using hq), ofBytes_toBytes (by simpa using hc)]

end Sys2Proof.Machine
end

