-- ==== Sys2Proof/Laws/Memory.lean ====
section
/-!
SUPPORT. The laws of memory: what a read gives after a write, and that every operation keeps the canonical form.
-/
namespace Sys2Proof.Machine

/-! ## Sparse bytes -/

theorem cellGet_cellSet (d : Byte) (c : List Host.Cell) (a : Nat) (b : Byte) : cellsWf d c = true → cellGet d (cellSet d c a b) a = b := by
  induction c with
  | nil => intro _; by_cases h : b = d <;> simp [cellSet, cellGet, h]
  | cons e rest ih =>
    obtain ⟨a', b'⟩ := e
    intro hw
    have hrest : cellsWf d rest = true := by
      cases rest with
      | nil => rfl
      | cons f r => simp [cellsWf] at hw; exact hw.2
    have hhead : a ≤ a' → cellGet d rest a = d := by
      clear ih
      intro hle
      induction rest generalizing a' b' with
      | nil => rfl
      | cons f r ihr =>
        obtain ⟨a2, b2⟩ := f
        simp [cellsWf] at hw
        have : a ≠ a2 := by omega
        simp only [cellGet, this, if_false]
        refine ihr a2 b2 hw.2 ?_ (by omega)
        cases r with
        | nil => rfl
        | cons g r' => simp [cellsWf] at hw; exact hw.2.2
    unfold cellSet
    split
    · rename_i hlt
      by_cases h : b = d
      · have : a ≠ a' := by omega
        simp [h, cellGet, this, hhead (by omega)]
      · simp [h, cellGet]
    · split
      · rename_i heq
        by_cases h : b = d
        · simp [h, hhead (by omega)]
        · simp [h, cellGet]
      · rename_i hne
        simp [cellGet, hne, ih hrest]

theorem cellGet_cellSet_ne (d : Byte) (c : List Host.Cell) (a x : Nat) (b : Byte) (hx : x ≠ a) :
    cellGet d (cellSet d c a b) x = cellGet d c x := by
  induction c with
  | nil => by_cases h : b = d <;> simp [cellSet, cellGet, h, hx]
  | cons e rest ih =>
    obtain ⟨a', b'⟩ := e
    unfold cellSet
    split
    · split <;> simp [cellGet, hx]
    · split
      · rename_i heq
        subst heq
        split <;> simp [cellGet, hx]
      · simp [cellGet, ih]

/-- Every listed address is above a bound and no listed byte is the unlisted one: the form, said with its lower bound. -/
def cellsFrom (d : Byte) (n : Nat) : List Host.Cell → Prop
  | [] => True
  | (a, b) :: rest => n ≤ a ∧ b ≠ d ∧ cellsFrom d (a + 1) rest

theorem cellsFrom_mono {d : Byte} {n m : Nat} {c : List Host.Cell} (h : m ≤ n) (hc : cellsFrom d n c) : cellsFrom d m c := by
  cases c with
  | nil => trivial
  | cons e rest => exact ⟨Nat.le_trans h hc.1, hc.2⟩

theorem cellsWf_iff (d : Byte) (c : List Host.Cell) : cellsWf d c = true ↔ cellsFrom d 0 c := by
  induction c with
  | nil => simp [cellsWf, cellsFrom]
  | cons e rest ih =>
    obtain ⟨a, b⟩ := e
    cases rest with
    | nil => simp [cellsWf, cellsFrom]
    | cons f r =>
      obtain ⟨a2, b2⟩ := f
      simp only [cellsWf, Bool.and_eq_true, decide_eq_true_eq, ih, cellsFrom, Nat.zero_le, true_and]
      constructor
      · rintro ⟨⟨h1, h2⟩, h3, h4⟩; exact ⟨h1, by omega, h3, h4⟩
      · rintro ⟨h1, h2, h3, h4⟩; exact ⟨⟨h1, by omega⟩, h3, h4⟩

theorem cellsFrom_cellSet {d : Byte} {n : Nat} {c : List Host.Cell} (a : Nat) (b : Byte) (hn : n ≤ a) (h : cellsFrom d n c) :
    cellsFrom d n (cellSet d c a b) := by
  induction c generalizing n with
  | nil => by_cases hb : b = d <;> simp [cellSet, cellsFrom, hb, hn]
  | cons e rest ih =>
    obtain ⟨a', b'⟩ := e
    obtain ⟨h1, h2, h3⟩ := h
    unfold cellSet
    split
    · split
      · exact ⟨h1, h2, h3⟩
      · rename_i hb; exact ⟨hn, hb, by omega, h2, h3⟩
    · split
      · rename_i heq
        subst heq
        split
        · exact cellsFrom_mono (by omega) h3
        · rename_i hb; exact ⟨hn, hb, h3⟩
      · exact ⟨h1, h2, ih (by omega) h3⟩

theorem cellsWf_cellSet {d : Byte} {c : List Host.Cell} (a : Nat) (b : Byte) (h : cellsWf d c = true) : cellsWf d (cellSet d c a b) = true :=
  (cellsWf_iff _ _).2 (cellsFrom_cellSet a b (Nat.zero_le a) ((cellsWf_iff _ _).1 h))

theorem cellsWf_bytesSet {d : Byte} (bs : List Byte) : ∀ {c : List Host.Cell} (a : Nat), cellsWf d c = true → cellsWf d (bytesSet d c a bs) = true := by
  induction bs with
  | nil => intro c a h; exact h
  | cons b rest ih => intro c a h; exact ih (a + 1) (cellsWf_cellSet a b h)

theorem cellGet_bytesSet_out {d : Byte} (bs : List Byte) : ∀ (c : List Host.Cell) (a x : Nat), x < a ∨ a + bs.length ≤ x →
    cellGet d (bytesSet d c a bs) x = cellGet d c x := by
  induction bs with
  | nil => intro c a x _; rfl
  | cons b rest ih =>
    intro c a x hx
    simp only [List.length_cons] at hx
    rw [bytesSet, ih _ _ _ (by omega), cellGet_cellSet_ne _ _ _ _ _ (by omega)]

theorem cellGet_bytesSet_in {d : Byte} (bs : List Byte) : ∀ (c : List Host.Cell) (a i : Nat), cellsWf d c = true → (h : i < bs.length) →
    cellGet d (bytesSet d c a bs) (a + i) = bs[i] := by
  induction bs with
  | nil => intro c a i _ h; simp at h
  | cons b rest ih =>
    intro c a i hw h
    cases i with
    | zero =>
      rw [bytesSet, cellGet_bytesSet_out _ _ _ _ (Or.inl (by omega))]
      simpa using cellGet_cellSet d c a b hw
    | succ j =>
      have := ih (cellSet d c a b) (a + 1) j (cellsWf_cellSet a b hw) (by simpa using h)
      rw [bytesSet]
      simpa [Nat.add_assoc, Nat.add_comm 1 j] using this

theorem cellsFrom_filter {d : Byte} (f : Host.Cell → Bool) {c : List Host.Cell} : ∀ {n : Nat}, cellsFrom d n c → cellsFrom d n (c.filter f) := by
  induction c with
  | nil => intro n h; exact h
  | cons e rest ih =>
    intro n h
    obtain ⟨h1, h2, h3⟩ := h
    rw [List.filter_cons]
    split
    · exact ⟨h1, h2, ih h3⟩
    · exact cellsFrom_mono (by omega) (ih h3)

theorem cellsWf_filter {d : Byte} (f : Host.Cell → Bool) {c : List Host.Cell} (h : cellsWf d c = true) : cellsWf d (c.filter f) = true :=
  (cellsWf_iff _ _).2 (cellsFrom_filter f ((cellsWf_iff _ _).1 h))

theorem cellsFrom_shift {d : Byte} (k : Nat) {c : List Host.Cell} : ∀ {n : Nat}, k ≤ n → cellsFrom d n c →
    cellsFrom d (n - k) (c.map (fun e => (e.1 - k, e.2))) := by
  induction c with
  | nil => intro n _ h; exact h
  | cons e rest ih =>
    intro n hk h
    obtain ⟨h1, h2, h3⟩ := h
    refine ⟨by simp; omega, h2, ?_⟩
    have := ih (n := e.1 + 1) (by omega) h3
    rwa [show e.1 + 1 - k = e.1 - k + 1 by omega] at this

theorem cellsFrom_ge {d : Byte} {n k : Nat} {c : List Host.Cell} (hk : ∀ e ∈ c, k ≤ e.1) (h : cellsFrom d n c) : cellsFrom d k c := by
  cases c with
  | nil => trivial
  | cons e rest => exact ⟨hk e (by simp), h.2⟩

/-! ## Sparse sets -/

theorem natHas_natPut (l : List Nat) (a : Nat) (b : Bool) : natsWf l = true → natHas (natPut l a b) a = b := by
  induction l with
  | nil => intro _; cases b <;> simp [natPut, natHas]
  | cons e rest ih =>
    intro hw
    have hrest : natsWf rest = true := by
      cases rest with
      | nil => rfl
      | cons f r => simp [natsWf] at hw; exact hw.2
    have hhead : a ≤ e → natHas rest a = false := by
      clear ih
      intro hle
      induction rest generalizing e with
      | nil => rfl
      | cons f r ihr =>
        simp [natsWf] at hw
        have : a ≠ f := by omega
        simp only [natHas, this, if_false]
        refine ihr f hw.2 ?_ (by omega)
        cases r with
        | nil => rfl
        | cons g r' => simp [natsWf] at hw; exact hw.2.2
    unfold natPut
    split
    · have hne : a ≠ e := by omega
      cases b <;> simp [natHas, hne, hhead (by omega)]
    · split
      · cases b <;> simp_all [natHas]
      · rename_i hne; simp [natHas, hne, ih hrest]

theorem natHas_natPut_ne (l : List Nat) (a x : Nat) (b : Bool) (hx : x ≠ a) : natHas (natPut l a b) x = natHas l x := by
  induction l with
  | nil => cases b <;> simp [natPut, natHas, hx]
  | cons e rest ih =>
    unfold natPut
    split
    · cases b <;> simp [natHas, hx]
    · split
      · rename_i heq; subst heq; cases b <;> simp [natHas, hx]
      · simp [natHas, ih]

def natsFrom (n : Nat) : List Nat → Prop
  | [] => True
  | a :: rest => n ≤ a ∧ natsFrom (a + 1) rest

theorem natsFrom_mono {n m : Nat} {l : List Nat} (h : m ≤ n) (hc : natsFrom n l) : natsFrom m l := by
  cases l with
  | nil => trivial
  | cons e rest => exact ⟨Nat.le_trans h hc.1, hc.2⟩

theorem natsWf_iff (l : List Nat) : natsWf l = true ↔ natsFrom 0 l := by
  induction l with
  | nil => simp [natsWf, natsFrom]
  | cons a rest ih =>
    cases rest with
    | nil => simp [natsWf, natsFrom]
    | cons f r =>
      simp only [natsWf, Bool.and_eq_true, decide_eq_true_eq, ih, natsFrom, Nat.zero_le, true_and]
      exact ⟨fun h => ⟨h.1, h.2⟩, fun h => ⟨h.1, h.2⟩⟩

theorem natsFrom_natPut {n : Nat} {l : List Nat} (a : Nat) (b : Bool) (hn : n ≤ a) (h : natsFrom n l) : natsFrom n (natPut l a b) := by
  induction l generalizing n with
  | nil => cases b <;> simp [natPut, natsFrom, hn]
  | cons e rest ih =>
    obtain ⟨h1, h2⟩ := h
    unfold natPut
    split
    · cases b
      · exact ⟨h1, h2⟩
      · exact ⟨hn, by omega, h2⟩
    · split
      · rename_i heq
        subst heq
        cases b
        · exact natsFrom_mono (by omega) h2
        · exact ⟨hn, h2⟩
      · exact ⟨h1, ih (by omega) h2⟩

theorem natsWf_natPut {l : List Nat} (a : Nat) (b : Bool) (h : natsWf l = true) : natsWf (natPut l a b) = true :=
  (natsWf_iff _).2 (natsFrom_natPut a b (Nat.zero_le a) ((natsWf_iff _).1 h))

theorem natsFrom_filter (f : Nat → Bool) {l : List Nat} : ∀ {n : Nat}, natsFrom n l → natsFrom n (l.filter f) := by
  induction l with
  | nil => intro n h; exact h
  | cons e rest ih =>
    intro n h
    obtain ⟨h1, h2⟩ := h
    rw [List.filter_cons]
    split
    · exact ⟨h1, ih h2⟩
    · exact natsFrom_mono (by omega) (ih h2)

theorem natsWf_filter (f : Nat → Bool) {l : List Nat} (h : natsWf l = true) : natsWf (l.filter f) = true :=
  (natsWf_iff _).2 (natsFrom_filter f ((natsWf_iff _).1 h))

theorem natsFrom_shift (k : Nat) {l : List Nat} : ∀ {n : Nat}, k ≤ n → natsFrom n l → natsFrom (n - k) (l.map (· - k)) := by
  induction l with
  | nil => intro n _ h; exact h
  | cons e rest ih =>
    intro n hk h
    obtain ⟨h1, h2⟩ := h
    refine ⟨Nat.sub_le_sub_right h1 k, ?_⟩
    have := ih (n := e + 1) (by omega) h2
    rwa [show e + 1 - k = e - k + 1 by omega] at this

theorem natsFrom_ge {n k : Nat} {l : List Nat} (hk : ∀ e ∈ l, k ≤ e) (h : natsFrom n l) : natsFrom k l := by
  cases l with
  | nil => trivial
  | cons e rest => exact ⟨hk e (by simp), h.2⟩

theorem natsWf_sub (k : Nat) (f : Nat → Bool) (hf : ∀ x, f x = true → k ≤ x) {l : List Nat} (h : natsWf l = true) :
    natsWf ((l.filter f).map (· - k)) = true := by
  have h1 : natsFrom k (l.filter f) := natsFrom_ge (fun e he => hf e (List.mem_filter.1 he).2) (natsFrom_filter f ((natsWf_iff l).1 h))
  have := natsFrom_shift k (Nat.le_refl k) h1
  exact (natsWf_iff _).2 (natsFrom_mono (Nat.zero_le _) this)

theorem natsWf_foldl_put {α : Type} (k : α → Nat) (xs : List α) : ∀ {l : List Nat}, natsWf l = true →
    natsWf (xs.foldl (fun l x => natPut l (k x) true) l) = true := by
  induction xs with
  | nil => intro l h; exact h
  | cons x rest ih => intro l h; exact ih (natsWf_natPut _ _ h)

/-! ## Memory -/

namespace Memory

theorem wf_iff (m : Memory) : m.wf = true ↔
    cellsWf unlisted m.cells = true ∧ natsWf m.tags = true ∧ natsWf m.taints = true ∧ natsWf m.poison = true := by
  simp [wf, and_assoc]

theorem wf_empty : empty.wf = true := by decide

theorem wf_putByte {m : Memory} (a : Nat) (b : Byte) (h : m.wf = true) : (m.putByte a b).wf = true := by
  rw [wf_iff] at *; exact ⟨cellsWf_cellSet a b h.1, h.2⟩

theorem wf_putBytes {m : Memory} (a : Nat) (bs : List Byte) (h : m.wf = true) : (m.putBytes a bs).wf = true := by
  rw [wf_iff] at *; exact ⟨cellsWf_bytesSet bs a h.1, h.2⟩

theorem wf_putTag {m : Memory} (g : Nat) (b : Bool) (h : m.wf = true) : (m.putTag g b).wf = true := by
  rw [wf_iff] at *; exact ⟨h.1, natsWf_natPut g b h.2.1, h.2.2⟩

theorem wf_putTaint {m : Memory} (k : Nat) (b : Bool) (h : m.wf = true) : (m.putTaint k b).wf = true := by
  rw [wf_iff] at *; exact ⟨h.1, h.2.1, natsWf_natPut k b h.2.2.1, h.2.2.2⟩

theorem wf_putPoison {m : Memory} (u : Nat) (b : Bool) (h : m.wf = true) : (m.putPoison u b).wf = true := by
  rw [wf_iff] at *; exact ⟨h.1, h.2.1, h.2.2.1, natsWf_natPut u b h.2.2.2⟩

/-- A fold of steps that each keep the form keeps it. -/
theorem wf_foldl {α : Type} (f : Memory → α → Memory) (hf : ∀ m x, m.wf = true → (f m x).wf = true) (l : List α) :
    ∀ {m : Memory}, m.wf = true → (l.foldl f m).wf = true := by
  induction l with
  | nil => intro m h; exact h
  | cons x rest ih => intro m h; exact ih (hf m x h)

theorem wf_storeTaint {m : Memory} (a n : Nat) (t : Bool) (h : m.wf = true) : (m.storeTaint a n t).wf = true := by
  unfold storeTaint
  refine wf_foldl _ ?_ _ h
  intro m x hm
  split
  · exact wf_putTaint _ _ hm
  · split
    · exact wf_putTaint _ _ hm
    · exact hm

theorem wf_store {m : Memory} (a : Nat) (bs : List Byte) (t : Bool) (h : m.wf = true) : (m.store a bs t).wf = true :=
  wf_storeTaint _ _ _ (wf_foldl _ (fun _ _ hm => wf_putTag _ _ hm) _ (wf_putBytes _ _ h))

theorem wf_storeCap {m : Memory} (a : Nat) (bits : Qword) (tag t : Bool) (h : m.wf = true) : (m.storeCap a bits tag t).wf = true :=
  wf_storeTaint _ _ _ (wf_putTag _ _ (wf_putBytes _ _ h))

theorem wf_writeBack {m : Memory} (line : Nat) (l : Line) (h : m.wf = true) : (Line.writeBack m line l).wf = true := by
  unfold Line.writeBack
  refine wf_foldl _ ?_ _ (wf_foldl _ ?_ _ (wf_foldl _ ?_ _ h))
  · intro m x hm
    split
    · exact wf_putTaint _ _ hm
    · exact hm
  · intro m x hm
    split
    · exact wf_putTag _ _ hm
    · exact hm
  · intro m x hm
    split
    · exact wf_putByte _ _ hm
    · exact hm

theorem cellsWf_copied (l : List Host.Cell) (a b : Nat) {c : List Host.Cell} (h : cellsWf unlisted c = true) :
    cellsWf unlisted (l.foldl (fun l c => cellSet unlisted l (c.1 - a + b) c.2) c) = true := by
  induction l generalizing c with
  | nil => exact h
  | cons e rest ih => exact ih (cellsWf_cellSet _ _ h)

theorem wf_copyFrame {m : Memory} (a b n : Nat) (h : m.wf = true) : (m.copyFrame a b n).wf = true := by
  rw [wf_iff] at *
  exact ⟨cellsWf_copied _ _ _ (cellsWf_filter _ h.1), natsWf_foldl_put _ _ (natsWf_filter _ h.2.1), natsWf_foldl_put _ _ (natsWf_filter _ h.2.2.1), h.2.2.2⟩

theorem wf_copyHost {m : Memory} (host : List Host.Cell) (a b n : Nat) (h : m.wf = true) : (m.copyHost host a b n).wf = true := by
  rw [wf_iff] at *
  exact ⟨cellsWf_copied _ _ _ (cellsWf_filter _ h.1), natsWf_filter _ h.2.1, natsWf_filter _ h.2.2.1, h.2.2.2⟩

/-- The bytes of a frame as a page (R123). -/
theorem wf_frameBytes {m : Memory} (frame : Nat) (h : m.wf = true) : (State.frameBytes m frame).wf = true := by
  rw [wf_iff] at *
  refine ⟨?_, natsWf_sub _ _ ?_ h.2.1, natsWf_sub _ _ ?_ h.2.2.1, natsWf_sub _ _ ?_ h.2.2.2⟩
  · have h1 := cellsFrom_filter (fun c : Host.Cell => decide (frame ≤ c.1) && decide (c.1 < frame + 4096)) ((cellsWf_iff _ _).1 h.1)
    have h2 := cellsFrom_ge (k := frame) (fun e he => by have := (List.mem_filter.1 he).2; simp at this; exact this.1) h1
    have h3 := cellsFrom_shift frame (Nat.le_refl frame) h2
    exact (cellsWf_iff _ _).2 (cellsFrom_mono (Nat.zero_le _) h3)
  all_goals (intro x hx; simp at hx; omega)

/-! Reads after writes. -/

theorem byte_putByte {m : Memory} (a : Nat) (b : Byte) (h : m.wf = true) : (m.putByte a b).byte a = b :=
  cellGet_cellSet _ _ _ _ ((wf_iff m).1 h).1

theorem byte_putByte_ne (m : Memory) (a x : Nat) (b : Byte) (hx : x ≠ a) : (m.putByte a b).byte x = m.byte x :=
  cellGet_cellSet_ne _ _ _ _ _ hx

theorem byte_foldl {α : Type} (f : Memory → α → Memory) (x : Nat) (hf : ∀ m y, (f m y).byte x = m.byte x) (l : List α) :
    ∀ (m : Memory), (l.foldl f m).byte x = m.byte x := by
  induction l with
  | nil => intro m; rfl
  | cons y rest ih => intro m; exact (ih _).trans (hf m y)

theorem byte_storeTaint (m : Memory) (a n : Nat) (t : Bool) (x : Nat) : (m.storeTaint a n t).byte x = m.byte x := by
  unfold storeTaint
  refine byte_foldl _ x ?_ _ m
  intro m y
  split
  · rfl
  · split <;> rfl

/-- A byte inside a store reads as stored, every other byte as before (R86). -/
theorem byte_store_in {m : Memory} (a : Nat) (bs : List Byte) (t : Bool) (i : Nat) (h : m.wf = true) (hi : i < bs.length) :
    (m.store a bs t).byte (a + i) = bs[i] := by
  unfold store
  rw [byte_storeTaint, byte_foldl (fun m g => m.putTag g false) _ (fun _ _ => rfl)]
  exact cellGet_bytesSet_in bs _ _ _ ((wf_iff m).1 h).1 hi

theorem byte_store_out (m : Memory) (a : Nat) (bs : List Byte) (t : Bool) (x : Nat) (hx : x < a ∨ a + bs.length ≤ x) :
    (m.store a bs t).byte x = m.byte x := by
  unfold store
  rw [byte_storeTaint, byte_foldl (fun m g => m.putTag g false) _ (fun _ _ => rfl)]
  exact cellGet_bytesSet_out bs _ _ _ hx

theorem byte_storeCap_out (m : Memory) (a : Nat) (bits : Qword) (tag t : Bool) (x : Nat) (hx : x < a ∨ a + 16 ≤ x) :
    (m.storeCap a bits tag t).byte x = m.byte x := by
  unfold storeCap
  rw [byte_storeTaint]
  exact cellGet_bytesSet_out _ _ _ _ hx

end Memory

theorem reset_mem_wf : State.reset.mem.wf = true := by decide

end Sys2Proof.Machine
end

