-- ==== Sys2Proof/Laws/State.lean ====
section
/-!
SUPPORT. What each update of the state changes, field by field: no later proof unfolds a record update.
-/
namespace Sys2Proof.Machine.State
variable (s : State)

@[simp] theorem setMe_agenda (m : Strand) : (s.setMe m).agenda = s.agenda := rfl
@[simp] theorem setMe_turn (m : Strand) : (s.setMe m).turn = s.turn := rfl
@[simp] theorem setMe_draws (m : Strand) : (s.setMe m).draws = s.draws := rfl
@[simp] theorem setMe_serial (m : Strand) : (s.setMe m).serial = s.serial := rfl
@[simp] theorem setMe_time (m : Strand) : (s.setMe m).time = s.time := rfl
@[simp] theorem setMe_word (m : Strand) : (s.setMe m).word = s.word := rfl
@[simp] theorem setMe_retired (m : Strand) : (s.setMe m).retired = s.retired := rfl
@[simp] theorem setMe_cur (m : Strand) : (s.setMe m).cur = s.cur := rfl
@[simp] theorem setMe_me (m : Strand) : (s.setMe m).me = m := rfl
@[simp] theorem setMe_others (m : Strand) : (s.setMe m).others = s.others := rfl
@[simp] theorem setMe_cores (m : Strand) : (s.setMe m).cores = s.cores := rfl
@[simp] theorem setMe_mem (m : Strand) : (s.setMe m).mem = s.mem := rfl
@[simp] theorem setMe_rows (m : Strand) : (s.setMe m).rows = s.rows := rfl
@[simp] theorem setMe_hostMem (m : Strand) : (s.setMe m).hostMem = s.hostMem := rfl
@[simp] theorem setMe_l2tlb (m : Strand) : (s.setMe m).l2tlb = s.l2tlb := rfl
@[simp] theorem setMe_crews (m : Strand) : (s.setMe m).crews = s.crews := rfl
@[simp] theorem setMe_calendars (m : Strand) : (s.setMe m).calendars = s.calendars := rfl
@[simp] theorem setMe_regions (m : Strand) : (s.setMe m).regions = s.regions := rfl
@[simp] theorem setMe_arming (m : Strand) : (s.setMe m).arming = s.arming := rfl
@[simp] theorem setMe_fires (m : Strand) : (s.setMe m).fires = s.fires := rfl
@[simp] theorem setMe_laws (m : Strand) : (s.setMe m).laws = s.laws := rfl
@[simp] theorem setMe_chains (m : Strand) : (s.setMe m).chains = s.chains := rfl
@[simp] theorem setMe_checks (m : Strand) : (s.setMe m).checks = s.checks := rfl
@[simp] theorem setMe_reds (m : Strand) : (s.setMe m).reds = s.reds := rfl
@[simp] theorem setMe_fadd (m : Strand) : (s.setMe m).fadd = s.fadd := rfl
@[simp] theorem setMe_orphans (m : Strand) : (s.setMe m).orphans = s.orphans := rfl
@[simp] theorem setMe_scopes (m : Strand) : (s.setMe m).scopes = s.scopes := rfl
@[simp] theorem setMe_hmsgs (m : Strand) : (s.setMe m).hmsgs = s.hmsgs := rfl
@[simp] theorem setMe_hseq (m : Strand) : (s.setMe m).hseq = s.hseq := rfl
@[simp] theorem setMe_spills (m : Strand) : (s.setMe m).spills = s.spills := rfl
@[simp] theorem setMe_posted (m : Strand) : (s.setMe m).posted = s.posted := rfl
@[simp] theorem setMe_invals (m : Strand) : (s.setMe m).invals = s.invals := rfl
@[simp] theorem setMe_migrations (m : Strand) : (s.setMe m).migrations = s.migrations := rfl
@[simp] theorem setMe_parts (m : Strand) : (s.setMe m).parts = s.parts := rfl
@[simp] theorem setMe_sys (m : Strand) : (s.setMe m).sys = s.sys := rfl
@[simp] theorem modMe_agenda (f : Strand → Strand) : (s.modMe f).agenda = s.agenda := rfl
@[simp] theorem modMe_turn (f : Strand → Strand) : (s.modMe f).turn = s.turn := rfl
@[simp] theorem modMe_draws (f : Strand → Strand) : (s.modMe f).draws = s.draws := rfl
@[simp] theorem modMe_serial (f : Strand → Strand) : (s.modMe f).serial = s.serial := rfl
@[simp] theorem modMe_time (f : Strand → Strand) : (s.modMe f).time = s.time := rfl
@[simp] theorem modMe_word (f : Strand → Strand) : (s.modMe f).word = s.word := rfl
@[simp] theorem modMe_retired (f : Strand → Strand) : (s.modMe f).retired = s.retired := rfl
@[simp] theorem modMe_cur (f : Strand → Strand) : (s.modMe f).cur = s.cur := rfl
@[simp] theorem modMe_me (f : Strand → Strand) : (s.modMe f).me = f s.me := rfl
@[simp] theorem modMe_others (f : Strand → Strand) : (s.modMe f).others = s.others := rfl
@[simp] theorem modMe_cores (f : Strand → Strand) : (s.modMe f).cores = s.cores := rfl
@[simp] theorem modMe_mem (f : Strand → Strand) : (s.modMe f).mem = s.mem := rfl
@[simp] theorem modMe_rows (f : Strand → Strand) : (s.modMe f).rows = s.rows := rfl
@[simp] theorem modMe_hostMem (f : Strand → Strand) : (s.modMe f).hostMem = s.hostMem := rfl
@[simp] theorem modMe_l2tlb (f : Strand → Strand) : (s.modMe f).l2tlb = s.l2tlb := rfl
@[simp] theorem modMe_crews (f : Strand → Strand) : (s.modMe f).crews = s.crews := rfl
@[simp] theorem modMe_calendars (f : Strand → Strand) : (s.modMe f).calendars = s.calendars := rfl
@[simp] theorem modMe_regions (f : Strand → Strand) : (s.modMe f).regions = s.regions := rfl
@[simp] theorem modMe_arming (f : Strand → Strand) : (s.modMe f).arming = s.arming := rfl
@[simp] theorem modMe_fires (f : Strand → Strand) : (s.modMe f).fires = s.fires := rfl
@[simp] theorem modMe_laws (f : Strand → Strand) : (s.modMe f).laws = s.laws := rfl
@[simp] theorem modMe_chains (f : Strand → Strand) : (s.modMe f).chains = s.chains := rfl
@[simp] theorem modMe_checks (f : Strand → Strand) : (s.modMe f).checks = s.checks := rfl
@[simp] theorem modMe_reds (f : Strand → Strand) : (s.modMe f).reds = s.reds := rfl
@[simp] theorem modMe_fadd (f : Strand → Strand) : (s.modMe f).fadd = s.fadd := rfl
@[simp] theorem modMe_orphans (f : Strand → Strand) : (s.modMe f).orphans = s.orphans := rfl
@[simp] theorem modMe_scopes (f : Strand → Strand) : (s.modMe f).scopes = s.scopes := rfl
@[simp] theorem modMe_hmsgs (f : Strand → Strand) : (s.modMe f).hmsgs = s.hmsgs := rfl
@[simp] theorem modMe_hseq (f : Strand → Strand) : (s.modMe f).hseq = s.hseq := rfl
@[simp] theorem modMe_spills (f : Strand → Strand) : (s.modMe f).spills = s.spills := rfl
@[simp] theorem modMe_posted (f : Strand → Strand) : (s.modMe f).posted = s.posted := rfl
@[simp] theorem modMe_invals (f : Strand → Strand) : (s.modMe f).invals = s.invals := rfl
@[simp] theorem modMe_migrations (f : Strand → Strand) : (s.modMe f).migrations = s.migrations := rfl
@[simp] theorem modMe_parts (f : Strand → Strand) : (s.modMe f).parts = s.parts := rfl
@[simp] theorem modMe_sys (f : Strand → Strand) : (s.modMe f).sys = s.sys := rfl
@[simp] theorem modRegs_agenda (f : Regs → Regs) : (s.modRegs f).agenda = s.agenda := rfl
@[simp] theorem modRegs_turn (f : Regs → Regs) : (s.modRegs f).turn = s.turn := rfl
@[simp] theorem modRegs_draws (f : Regs → Regs) : (s.modRegs f).draws = s.draws := rfl
@[simp] theorem modRegs_serial (f : Regs → Regs) : (s.modRegs f).serial = s.serial := rfl
@[simp] theorem modRegs_time (f : Regs → Regs) : (s.modRegs f).time = s.time := rfl
@[simp] theorem modRegs_word (f : Regs → Regs) : (s.modRegs f).word = s.word := rfl
@[simp] theorem modRegs_retired (f : Regs → Regs) : (s.modRegs f).retired = s.retired := rfl
@[simp] theorem modRegs_cur (f : Regs → Regs) : (s.modRegs f).cur = s.cur := rfl
@[simp] theorem modRegs_others (f : Regs → Regs) : (s.modRegs f).others = s.others := rfl
@[simp] theorem modRegs_cores (f : Regs → Regs) : (s.modRegs f).cores = s.cores := rfl
@[simp] theorem modRegs_mem (f : Regs → Regs) : (s.modRegs f).mem = s.mem := rfl
@[simp] theorem modRegs_rows (f : Regs → Regs) : (s.modRegs f).rows = s.rows := rfl
@[simp] theorem modRegs_hostMem (f : Regs → Regs) : (s.modRegs f).hostMem = s.hostMem := rfl
@[simp] theorem modRegs_l2tlb (f : Regs → Regs) : (s.modRegs f).l2tlb = s.l2tlb := rfl
@[simp] theorem modRegs_crews (f : Regs → Regs) : (s.modRegs f).crews = s.crews := rfl
@[simp] theorem modRegs_calendars (f : Regs → Regs) : (s.modRegs f).calendars = s.calendars := rfl
@[simp] theorem modRegs_regions (f : Regs → Regs) : (s.modRegs f).regions = s.regions := rfl
@[simp] theorem modRegs_arming (f : Regs → Regs) : (s.modRegs f).arming = s.arming := rfl
@[simp] theorem modRegs_fires (f : Regs → Regs) : (s.modRegs f).fires = s.fires := rfl
@[simp] theorem modRegs_laws (f : Regs → Regs) : (s.modRegs f).laws = s.laws := rfl
@[simp] theorem modRegs_chains (f : Regs → Regs) : (s.modRegs f).chains = s.chains := rfl
@[simp] theorem modRegs_checks (f : Regs → Regs) : (s.modRegs f).checks = s.checks := rfl
@[simp] theorem modRegs_reds (f : Regs → Regs) : (s.modRegs f).reds = s.reds := rfl
@[simp] theorem modRegs_fadd (f : Regs → Regs) : (s.modRegs f).fadd = s.fadd := rfl
@[simp] theorem modRegs_orphans (f : Regs → Regs) : (s.modRegs f).orphans = s.orphans := rfl
@[simp] theorem modRegs_scopes (f : Regs → Regs) : (s.modRegs f).scopes = s.scopes := rfl
@[simp] theorem modRegs_hmsgs (f : Regs → Regs) : (s.modRegs f).hmsgs = s.hmsgs := rfl
@[simp] theorem modRegs_hseq (f : Regs → Regs) : (s.modRegs f).hseq = s.hseq := rfl
@[simp] theorem modRegs_spills (f : Regs → Regs) : (s.modRegs f).spills = s.spills := rfl
@[simp] theorem modRegs_posted (f : Regs → Regs) : (s.modRegs f).posted = s.posted := rfl
@[simp] theorem modRegs_invals (f : Regs → Regs) : (s.modRegs f).invals = s.invals := rfl
@[simp] theorem modRegs_migrations (f : Regs → Regs) : (s.modRegs f).migrations = s.migrations := rfl
@[simp] theorem modRegs_parts (f : Regs → Regs) : (s.modRegs f).parts = s.parts := rfl
@[simp] theorem modRegs_sys (f : Regs → Regs) : (s.modRegs f).sys = s.sys := rfl
@[simp] theorem modRegs_me_status (f : Regs → Regs) : (s.modRegs f).me.status = s.me.status := rfl
@[simp] theorem modRegs_me_prior (f : Regs → Regs) : (s.modRegs f).me.prior = s.me.prior := rfl
@[simp] theorem modRegs_me_regs (f : Regs → Regs) : (s.modRegs f).me.regs = f s.me.regs := rfl
@[simp] theorem modRegs_me_pcc (f : Regs → Regs) : (s.modRegs f).me.pcc = s.me.pcc := rfl
@[simp] theorem modRegs_me_pccFar (f : Regs → Regs) : (s.modRegs f).me.pccFar = s.me.pccFar := rfl
@[simp] theorem modRegs_me_csr (f : Regs → Regs) : (s.modRegs f).me.csr = s.me.csr := rfl
@[simp] theorem modRegs_me_ctr (f : Regs → Regs) : (s.modRegs f).me.ctr = s.me.ctr := rfl
@[simp] theorem modRegs_me_launch (f : Regs → Regs) : (s.modRegs f).me.launch = s.me.launch := rfl
@[simp] theorem modRegs_me_born (f : Regs → Regs) : (s.modRegs f).me.born = s.me.born := rfl
@[simp] theorem modRegs_me_exiting (f : Regs → Regs) : (s.modRegs f).me.exiting = s.me.exiting := rfl
@[simp] theorem modRegs_me_yielded (f : Regs → Regs) : (s.modRegs f).me.yielded = s.me.yielded := rfl
@[simp] theorem modRegs_me_follow (f : Regs → Regs) : (s.modRegs f).me.follow = s.me.follow := rfl
@[simp] theorem modRegs_me_rep (f : Regs → Regs) : (s.modRegs f).me.rep = s.me.rep := rfl
@[simp] theorem modRegs_me_resumed (f : Regs → Regs) : (s.modRegs f).me.resumed = s.me.resumed := rfl
@[simp] theorem modRegs_me_wait (f : Regs → Regs) : (s.modRegs f).me.wait = s.me.wait := rfl
@[simp] theorem modRegs_me_chain (f : Regs → Regs) : (s.modRegs f).me.chain = s.me.chain := rfl
@[simp] theorem modRegs_me_held (f : Regs → Regs) : (s.modRegs f).me.held = s.me.held := rfl
@[simp] theorem modRegs_me_streams (f : Regs → Regs) : (s.modRegs f).me.streams = s.me.streams := rfl
@[simp] theorem modRegs_me_vloads (f : Regs → Regs) : (s.modRegs f).me.vloads = s.me.vloads := rfl
@[simp] theorem modRegs_me_vstates (f : Regs → Regs) : (s.modRegs f).me.vstates = s.me.vstates := rfl
@[simp] theorem modRegs_me_ticks (f : Regs → Regs) : (s.modRegs f).me.ticks = s.me.ticks := rfl
@[simp] theorem modRegs_me_lates (f : Regs → Regs) : (s.modRegs f).me.lates = s.me.lates := rfl
@[simp] theorem modRegs_me_parkCause (f : Regs → Regs) : (s.modRegs f).me.parkCause = s.me.parkCause := rfl
@[simp] theorem modRegs_me_sysPark (f : Regs → Regs) : (s.modRegs f).me.sysPark = s.me.sysPark := rfl
@[simp] theorem modRegs_me_scato (f : Regs → Regs) : (s.modRegs f).me.scato = s.me.scato := rfl
@[simp] theorem modRegs_me_farBound (f : Regs → Regs) : (s.modRegs f).me.farBound = s.me.farBound := rfl
@[simp] theorem modCsr_agenda (f : Csr → Csr) : (s.modCsr f).agenda = s.agenda := rfl
@[simp] theorem modCsr_turn (f : Csr → Csr) : (s.modCsr f).turn = s.turn := rfl
@[simp] theorem modCsr_draws (f : Csr → Csr) : (s.modCsr f).draws = s.draws := rfl
@[simp] theorem modCsr_serial (f : Csr → Csr) : (s.modCsr f).serial = s.serial := rfl
@[simp] theorem modCsr_time (f : Csr → Csr) : (s.modCsr f).time = s.time := rfl
@[simp] theorem modCsr_word (f : Csr → Csr) : (s.modCsr f).word = s.word := rfl
@[simp] theorem modCsr_retired (f : Csr → Csr) : (s.modCsr f).retired = s.retired := rfl
@[simp] theorem modCsr_cur (f : Csr → Csr) : (s.modCsr f).cur = s.cur := rfl
@[simp] theorem modCsr_others (f : Csr → Csr) : (s.modCsr f).others = s.others := rfl
@[simp] theorem modCsr_cores (f : Csr → Csr) : (s.modCsr f).cores = s.cores := rfl
@[simp] theorem modCsr_mem (f : Csr → Csr) : (s.modCsr f).mem = s.mem := rfl
@[simp] theorem modCsr_rows (f : Csr → Csr) : (s.modCsr f).rows = s.rows := rfl
@[simp] theorem modCsr_hostMem (f : Csr → Csr) : (s.modCsr f).hostMem = s.hostMem := rfl
@[simp] theorem modCsr_l2tlb (f : Csr → Csr) : (s.modCsr f).l2tlb = s.l2tlb := rfl
@[simp] theorem modCsr_crews (f : Csr → Csr) : (s.modCsr f).crews = s.crews := rfl
@[simp] theorem modCsr_calendars (f : Csr → Csr) : (s.modCsr f).calendars = s.calendars := rfl
@[simp] theorem modCsr_regions (f : Csr → Csr) : (s.modCsr f).regions = s.regions := rfl
@[simp] theorem modCsr_arming (f : Csr → Csr) : (s.modCsr f).arming = s.arming := rfl
@[simp] theorem modCsr_fires (f : Csr → Csr) : (s.modCsr f).fires = s.fires := rfl
@[simp] theorem modCsr_laws (f : Csr → Csr) : (s.modCsr f).laws = s.laws := rfl
@[simp] theorem modCsr_chains (f : Csr → Csr) : (s.modCsr f).chains = s.chains := rfl
@[simp] theorem modCsr_checks (f : Csr → Csr) : (s.modCsr f).checks = s.checks := rfl
@[simp] theorem modCsr_reds (f : Csr → Csr) : (s.modCsr f).reds = s.reds := rfl
@[simp] theorem modCsr_fadd (f : Csr → Csr) : (s.modCsr f).fadd = s.fadd := rfl
@[simp] theorem modCsr_orphans (f : Csr → Csr) : (s.modCsr f).orphans = s.orphans := rfl
@[simp] theorem modCsr_scopes (f : Csr → Csr) : (s.modCsr f).scopes = s.scopes := rfl
@[simp] theorem modCsr_hmsgs (f : Csr → Csr) : (s.modCsr f).hmsgs = s.hmsgs := rfl
@[simp] theorem modCsr_hseq (f : Csr → Csr) : (s.modCsr f).hseq = s.hseq := rfl
@[simp] theorem modCsr_spills (f : Csr → Csr) : (s.modCsr f).spills = s.spills := rfl
@[simp] theorem modCsr_posted (f : Csr → Csr) : (s.modCsr f).posted = s.posted := rfl
@[simp] theorem modCsr_invals (f : Csr → Csr) : (s.modCsr f).invals = s.invals := rfl
@[simp] theorem modCsr_migrations (f : Csr → Csr) : (s.modCsr f).migrations = s.migrations := rfl
@[simp] theorem modCsr_parts (f : Csr → Csr) : (s.modCsr f).parts = s.parts := rfl
@[simp] theorem modCsr_sys (f : Csr → Csr) : (s.modCsr f).sys = s.sys := rfl
@[simp] theorem modCsr_me_status (f : Csr → Csr) : (s.modCsr f).me.status = s.me.status := rfl
@[simp] theorem modCsr_me_prior (f : Csr → Csr) : (s.modCsr f).me.prior = s.me.prior := rfl
@[simp] theorem modCsr_me_regs (f : Csr → Csr) : (s.modCsr f).me.regs = s.me.regs := rfl
@[simp] theorem modCsr_me_pcc (f : Csr → Csr) : (s.modCsr f).me.pcc = s.me.pcc := rfl
@[simp] theorem modCsr_me_pccFar (f : Csr → Csr) : (s.modCsr f).me.pccFar = s.me.pccFar := rfl
@[simp] theorem modCsr_me_csr (f : Csr → Csr) : (s.modCsr f).me.csr = f s.me.csr := rfl
@[simp] theorem modCsr_me_ctr (f : Csr → Csr) : (s.modCsr f).me.ctr = s.me.ctr := rfl
@[simp] theorem modCsr_me_launch (f : Csr → Csr) : (s.modCsr f).me.launch = s.me.launch := rfl
@[simp] theorem modCsr_me_born (f : Csr → Csr) : (s.modCsr f).me.born = s.me.born := rfl
@[simp] theorem modCsr_me_exiting (f : Csr → Csr) : (s.modCsr f).me.exiting = s.me.exiting := rfl
@[simp] theorem modCsr_me_yielded (f : Csr → Csr) : (s.modCsr f).me.yielded = s.me.yielded := rfl
@[simp] theorem modCsr_me_follow (f : Csr → Csr) : (s.modCsr f).me.follow = s.me.follow := rfl
@[simp] theorem modCsr_me_rep (f : Csr → Csr) : (s.modCsr f).me.rep = s.me.rep := rfl
@[simp] theorem modCsr_me_resumed (f : Csr → Csr) : (s.modCsr f).me.resumed = s.me.resumed := rfl
@[simp] theorem modCsr_me_wait (f : Csr → Csr) : (s.modCsr f).me.wait = s.me.wait := rfl
@[simp] theorem modCsr_me_chain (f : Csr → Csr) : (s.modCsr f).me.chain = s.me.chain := rfl
@[simp] theorem modCsr_me_held (f : Csr → Csr) : (s.modCsr f).me.held = s.me.held := rfl
@[simp] theorem modCsr_me_streams (f : Csr → Csr) : (s.modCsr f).me.streams = s.me.streams := rfl
@[simp] theorem modCsr_me_vloads (f : Csr → Csr) : (s.modCsr f).me.vloads = s.me.vloads := rfl
@[simp] theorem modCsr_me_vstates (f : Csr → Csr) : (s.modCsr f).me.vstates = s.me.vstates := rfl
@[simp] theorem modCsr_me_ticks (f : Csr → Csr) : (s.modCsr f).me.ticks = s.me.ticks := rfl
@[simp] theorem modCsr_me_lates (f : Csr → Csr) : (s.modCsr f).me.lates = s.me.lates := rfl
@[simp] theorem modCsr_me_parkCause (f : Csr → Csr) : (s.modCsr f).me.parkCause = s.me.parkCause := rfl
@[simp] theorem modCsr_me_sysPark (f : Csr → Csr) : (s.modCsr f).me.sysPark = s.me.sysPark := rfl
@[simp] theorem modCsr_me_scato (f : Csr → Csr) : (s.modCsr f).me.scato = s.me.scato := rfl
@[simp] theorem modCsr_me_farBound (f : Csr → Csr) : (s.modCsr f).me.farBound = s.me.farBound := rfl
@[simp] theorem modCtr_agenda (f : Counters → Counters) : (s.modCtr f).agenda = s.agenda := rfl
@[simp] theorem modCtr_turn (f : Counters → Counters) : (s.modCtr f).turn = s.turn := rfl
@[simp] theorem modCtr_draws (f : Counters → Counters) : (s.modCtr f).draws = s.draws := rfl
@[simp] theorem modCtr_serial (f : Counters → Counters) : (s.modCtr f).serial = s.serial := rfl
@[simp] theorem modCtr_time (f : Counters → Counters) : (s.modCtr f).time = s.time := rfl
@[simp] theorem modCtr_word (f : Counters → Counters) : (s.modCtr f).word = s.word := rfl
@[simp] theorem modCtr_retired (f : Counters → Counters) : (s.modCtr f).retired = s.retired := rfl
@[simp] theorem modCtr_cur (f : Counters → Counters) : (s.modCtr f).cur = s.cur := rfl
@[simp] theorem modCtr_others (f : Counters → Counters) : (s.modCtr f).others = s.others := rfl
@[simp] theorem modCtr_cores (f : Counters → Counters) : (s.modCtr f).cores = s.cores := rfl
@[simp] theorem modCtr_mem (f : Counters → Counters) : (s.modCtr f).mem = s.mem := rfl
@[simp] theorem modCtr_rows (f : Counters → Counters) : (s.modCtr f).rows = s.rows := rfl
@[simp] theorem modCtr_hostMem (f : Counters → Counters) : (s.modCtr f).hostMem = s.hostMem := rfl
@[simp] theorem modCtr_l2tlb (f : Counters → Counters) : (s.modCtr f).l2tlb = s.l2tlb := rfl
@[simp] theorem modCtr_crews (f : Counters → Counters) : (s.modCtr f).crews = s.crews := rfl
@[simp] theorem modCtr_calendars (f : Counters → Counters) : (s.modCtr f).calendars = s.calendars := rfl
@[simp] theorem modCtr_regions (f : Counters → Counters) : (s.modCtr f).regions = s.regions := rfl
@[simp] theorem modCtr_arming (f : Counters → Counters) : (s.modCtr f).arming = s.arming := rfl
@[simp] theorem modCtr_fires (f : Counters → Counters) : (s.modCtr f).fires = s.fires := rfl
@[simp] theorem modCtr_laws (f : Counters → Counters) : (s.modCtr f).laws = s.laws := rfl
@[simp] theorem modCtr_chains (f : Counters → Counters) : (s.modCtr f).chains = s.chains := rfl
@[simp] theorem modCtr_checks (f : Counters → Counters) : (s.modCtr f).checks = s.checks := rfl
@[simp] theorem modCtr_reds (f : Counters → Counters) : (s.modCtr f).reds = s.reds := rfl
@[simp] theorem modCtr_fadd (f : Counters → Counters) : (s.modCtr f).fadd = s.fadd := rfl
@[simp] theorem modCtr_orphans (f : Counters → Counters) : (s.modCtr f).orphans = s.orphans := rfl
@[simp] theorem modCtr_scopes (f : Counters → Counters) : (s.modCtr f).scopes = s.scopes := rfl
@[simp] theorem modCtr_hmsgs (f : Counters → Counters) : (s.modCtr f).hmsgs = s.hmsgs := rfl
@[simp] theorem modCtr_hseq (f : Counters → Counters) : (s.modCtr f).hseq = s.hseq := rfl
@[simp] theorem modCtr_spills (f : Counters → Counters) : (s.modCtr f).spills = s.spills := rfl
@[simp] theorem modCtr_posted (f : Counters → Counters) : (s.modCtr f).posted = s.posted := rfl
@[simp] theorem modCtr_invals (f : Counters → Counters) : (s.modCtr f).invals = s.invals := rfl
@[simp] theorem modCtr_migrations (f : Counters → Counters) : (s.modCtr f).migrations = s.migrations := rfl
@[simp] theorem modCtr_parts (f : Counters → Counters) : (s.modCtr f).parts = s.parts := rfl
@[simp] theorem modCtr_sys (f : Counters → Counters) : (s.modCtr f).sys = s.sys := rfl
@[simp] theorem modCtr_me_status (f : Counters → Counters) : (s.modCtr f).me.status = s.me.status := rfl
@[simp] theorem modCtr_me_prior (f : Counters → Counters) : (s.modCtr f).me.prior = s.me.prior := rfl
@[simp] theorem modCtr_me_regs (f : Counters → Counters) : (s.modCtr f).me.regs = s.me.regs := rfl
@[simp] theorem modCtr_me_pcc (f : Counters → Counters) : (s.modCtr f).me.pcc = s.me.pcc := rfl
@[simp] theorem modCtr_me_pccFar (f : Counters → Counters) : (s.modCtr f).me.pccFar = s.me.pccFar := rfl
@[simp] theorem modCtr_me_csr (f : Counters → Counters) : (s.modCtr f).me.csr = s.me.csr := rfl
@[simp] theorem modCtr_me_ctr (f : Counters → Counters) : (s.modCtr f).me.ctr = f s.me.ctr := rfl
@[simp] theorem modCtr_me_launch (f : Counters → Counters) : (s.modCtr f).me.launch = s.me.launch := rfl
@[simp] theorem modCtr_me_born (f : Counters → Counters) : (s.modCtr f).me.born = s.me.born := rfl
@[simp] theorem modCtr_me_exiting (f : Counters → Counters) : (s.modCtr f).me.exiting = s.me.exiting := rfl
@[simp] theorem modCtr_me_yielded (f : Counters → Counters) : (s.modCtr f).me.yielded = s.me.yielded := rfl
@[simp] theorem modCtr_me_follow (f : Counters → Counters) : (s.modCtr f).me.follow = s.me.follow := rfl
@[simp] theorem modCtr_me_rep (f : Counters → Counters) : (s.modCtr f).me.rep = s.me.rep := rfl
@[simp] theorem modCtr_me_resumed (f : Counters → Counters) : (s.modCtr f).me.resumed = s.me.resumed := rfl
@[simp] theorem modCtr_me_wait (f : Counters → Counters) : (s.modCtr f).me.wait = s.me.wait := rfl
@[simp] theorem modCtr_me_chain (f : Counters → Counters) : (s.modCtr f).me.chain = s.me.chain := rfl
@[simp] theorem modCtr_me_held (f : Counters → Counters) : (s.modCtr f).me.held = s.me.held := rfl
@[simp] theorem modCtr_me_streams (f : Counters → Counters) : (s.modCtr f).me.streams = s.me.streams := rfl
@[simp] theorem modCtr_me_vloads (f : Counters → Counters) : (s.modCtr f).me.vloads = s.me.vloads := rfl
@[simp] theorem modCtr_me_vstates (f : Counters → Counters) : (s.modCtr f).me.vstates = s.me.vstates := rfl
@[simp] theorem modCtr_me_ticks (f : Counters → Counters) : (s.modCtr f).me.ticks = s.me.ticks := rfl
@[simp] theorem modCtr_me_lates (f : Counters → Counters) : (s.modCtr f).me.lates = s.me.lates := rfl
@[simp] theorem modCtr_me_parkCause (f : Counters → Counters) : (s.modCtr f).me.parkCause = s.me.parkCause := rfl
@[simp] theorem modCtr_me_sysPark (f : Counters → Counters) : (s.modCtr f).me.sysPark = s.me.sysPark := rfl
@[simp] theorem modCtr_me_scato (f : Counters → Counters) : (s.modCtr f).me.scato = s.me.scato := rfl
@[simp] theorem modCtr_me_farBound (f : Counters → Counters) : (s.modCtr f).me.farBound = s.me.farBound := rfl
@[simp] theorem setPc_agenda (a : Dword) : (s.setPc a).agenda = s.agenda := rfl
@[simp] theorem setPc_turn (a : Dword) : (s.setPc a).turn = s.turn := rfl
@[simp] theorem setPc_draws (a : Dword) : (s.setPc a).draws = s.draws := rfl
@[simp] theorem setPc_serial (a : Dword) : (s.setPc a).serial = s.serial := rfl
@[simp] theorem setPc_time (a : Dword) : (s.setPc a).time = s.time := rfl
@[simp] theorem setPc_word (a : Dword) : (s.setPc a).word = s.word := rfl
@[simp] theorem setPc_retired (a : Dword) : (s.setPc a).retired = s.retired := rfl
@[simp] theorem setPc_cur (a : Dword) : (s.setPc a).cur = s.cur := rfl
@[simp] theorem setPc_others (a : Dword) : (s.setPc a).others = s.others := rfl
@[simp] theorem setPc_cores (a : Dword) : (s.setPc a).cores = s.cores := rfl
@[simp] theorem setPc_mem (a : Dword) : (s.setPc a).mem = s.mem := rfl
@[simp] theorem setPc_rows (a : Dword) : (s.setPc a).rows = s.rows := rfl
@[simp] theorem setPc_hostMem (a : Dword) : (s.setPc a).hostMem = s.hostMem := rfl
@[simp] theorem setPc_l2tlb (a : Dword) : (s.setPc a).l2tlb = s.l2tlb := rfl
@[simp] theorem setPc_crews (a : Dword) : (s.setPc a).crews = s.crews := rfl
@[simp] theorem setPc_calendars (a : Dword) : (s.setPc a).calendars = s.calendars := rfl
@[simp] theorem setPc_regions (a : Dword) : (s.setPc a).regions = s.regions := rfl
@[simp] theorem setPc_arming (a : Dword) : (s.setPc a).arming = s.arming := rfl
@[simp] theorem setPc_fires (a : Dword) : (s.setPc a).fires = s.fires := rfl
@[simp] theorem setPc_laws (a : Dword) : (s.setPc a).laws = s.laws := rfl
@[simp] theorem setPc_chains (a : Dword) : (s.setPc a).chains = s.chains := rfl
@[simp] theorem setPc_checks (a : Dword) : (s.setPc a).checks = s.checks := rfl
@[simp] theorem setPc_reds (a : Dword) : (s.setPc a).reds = s.reds := rfl
@[simp] theorem setPc_fadd (a : Dword) : (s.setPc a).fadd = s.fadd := rfl
@[simp] theorem setPc_orphans (a : Dword) : (s.setPc a).orphans = s.orphans := rfl
@[simp] theorem setPc_scopes (a : Dword) : (s.setPc a).scopes = s.scopes := rfl
@[simp] theorem setPc_hmsgs (a : Dword) : (s.setPc a).hmsgs = s.hmsgs := rfl
@[simp] theorem setPc_hseq (a : Dword) : (s.setPc a).hseq = s.hseq := rfl
@[simp] theorem setPc_spills (a : Dword) : (s.setPc a).spills = s.spills := rfl
@[simp] theorem setPc_posted (a : Dword) : (s.setPc a).posted = s.posted := rfl
@[simp] theorem setPc_invals (a : Dword) : (s.setPc a).invals = s.invals := rfl
@[simp] theorem setPc_migrations (a : Dword) : (s.setPc a).migrations = s.migrations := rfl
@[simp] theorem setPc_parts (a : Dword) : (s.setPc a).parts = s.parts := rfl
@[simp] theorem setPc_sys (a : Dword) : (s.setPc a).sys = s.sys := rfl
@[simp] theorem setPc_me_status (a : Dword) : (s.setPc a).me.status = s.me.status := rfl
@[simp] theorem setPc_me_prior (a : Dword) : (s.setPc a).me.prior = s.me.prior := rfl
@[simp] theorem setPc_me_regs (a : Dword) : (s.setPc a).me.regs = s.me.regs := rfl
@[simp] theorem setPc_me_pcc (a : Dword) : (s.setPc a).me.pcc = (s.me.setPc a).pcc := rfl
@[simp] theorem setPc_me_pccFar (a : Dword) : (s.setPc a).me.pccFar = (s.me.setPc a).pccFar := rfl
@[simp] theorem setPc_me_csr (a : Dword) : (s.setPc a).me.csr = s.me.csr := rfl
@[simp] theorem setPc_me_ctr (a : Dword) : (s.setPc a).me.ctr = s.me.ctr := rfl
@[simp] theorem setPc_me_launch (a : Dword) : (s.setPc a).me.launch = s.me.launch := rfl
@[simp] theorem setPc_me_born (a : Dword) : (s.setPc a).me.born = s.me.born := rfl
@[simp] theorem setPc_me_exiting (a : Dword) : (s.setPc a).me.exiting = s.me.exiting := rfl
@[simp] theorem setPc_me_yielded (a : Dword) : (s.setPc a).me.yielded = s.me.yielded := rfl
@[simp] theorem setPc_me_follow (a : Dword) : (s.setPc a).me.follow = s.me.follow := rfl
@[simp] theorem setPc_me_rep (a : Dword) : (s.setPc a).me.rep = s.me.rep := rfl
@[simp] theorem setPc_me_resumed (a : Dword) : (s.setPc a).me.resumed = s.me.resumed := rfl
@[simp] theorem setPc_me_wait (a : Dword) : (s.setPc a).me.wait = s.me.wait := rfl
@[simp] theorem setPc_me_chain (a : Dword) : (s.setPc a).me.chain = s.me.chain := rfl
@[simp] theorem setPc_me_held (a : Dword) : (s.setPc a).me.held = s.me.held := rfl
@[simp] theorem setPc_me_streams (a : Dword) : (s.setPc a).me.streams = s.me.streams := rfl
@[simp] theorem setPc_me_vloads (a : Dword) : (s.setPc a).me.vloads = s.me.vloads := rfl
@[simp] theorem setPc_me_vstates (a : Dword) : (s.setPc a).me.vstates = s.me.vstates := rfl
@[simp] theorem setPc_me_ticks (a : Dword) : (s.setPc a).me.ticks = s.me.ticks := rfl
@[simp] theorem setPc_me_lates (a : Dword) : (s.setPc a).me.lates = s.me.lates := rfl
@[simp] theorem setPc_me_parkCause (a : Dword) : (s.setPc a).me.parkCause = s.me.parkCause := rfl
@[simp] theorem setPc_me_sysPark (a : Dword) : (s.setPc a).me.sysPark = s.me.sysPark := rfl
@[simp] theorem setPc_me_scato (a : Dword) : (s.setPc a).me.scato = s.me.scato := rfl
@[simp] theorem setPc_me_farBound (a : Dword) : (s.setPc a).me.farBound = s.me.farBound := rfl
@[simp] theorem retire_agenda : (s.retire).agenda = s.agenda := rfl
@[simp] theorem retire_turn : (s.retire).turn = s.turn := rfl
@[simp] theorem retire_draws : (s.retire).draws = s.draws := rfl
@[simp] theorem retire_serial : (s.retire).serial = s.serial := rfl
@[simp] theorem retire_time : (s.retire).time = s.time := rfl
@[simp] theorem retire_word : (s.retire).word = s.word := rfl
@[simp] theorem retire_retired : (s.retire).retired = true := rfl
@[simp] theorem retire_cur : (s.retire).cur = s.cur := rfl
@[simp] theorem retire_others : (s.retire).others = s.others := rfl
@[simp] theorem retire_cores : (s.retire).cores = s.cores := rfl
@[simp] theorem retire_mem : (s.retire).mem = s.mem := rfl
@[simp] theorem retire_rows : (s.retire).rows = s.rows := rfl
@[simp] theorem retire_hostMem : (s.retire).hostMem = s.hostMem := rfl
@[simp] theorem retire_l2tlb : (s.retire).l2tlb = s.l2tlb := rfl
@[simp] theorem retire_crews : (s.retire).crews = s.crews := rfl
@[simp] theorem retire_calendars : (s.retire).calendars = s.calendars := rfl
@[simp] theorem retire_regions : (s.retire).regions = s.regions := rfl
@[simp] theorem retire_arming : (s.retire).arming = s.arming := rfl
@[simp] theorem retire_fires : (s.retire).fires = s.fires := rfl
@[simp] theorem retire_laws : (s.retire).laws = s.laws := rfl
@[simp] theorem retire_chains : (s.retire).chains = s.chains := rfl
@[simp] theorem retire_checks : (s.retire).checks = s.checks := rfl
@[simp] theorem retire_reds : (s.retire).reds = s.reds := rfl
@[simp] theorem retire_fadd : (s.retire).fadd = s.fadd := rfl
@[simp] theorem retire_orphans : (s.retire).orphans = s.orphans := rfl
@[simp] theorem retire_scopes : (s.retire).scopes = s.scopes := rfl
@[simp] theorem retire_hmsgs : (s.retire).hmsgs = s.hmsgs := rfl
@[simp] theorem retire_hseq : (s.retire).hseq = s.hseq := rfl
@[simp] theorem retire_spills : (s.retire).spills = s.spills := rfl
@[simp] theorem retire_posted : (s.retire).posted = s.posted := rfl
@[simp] theorem retire_invals : (s.retire).invals = s.invals := rfl
@[simp] theorem retire_migrations : (s.retire).migrations = s.migrations := rfl
@[simp] theorem retire_parts : (s.retire).parts = s.parts := rfl
@[simp] theorem retire_sys : (s.retire).sys = s.sys := rfl
@[simp] theorem retire_me_status : (s.retire).me.status = s.me.status := rfl
@[simp] theorem retire_me_prior : (s.retire).me.prior = s.me.prior := rfl
@[simp] theorem retire_me_regs : (s.retire).me.regs = s.me.regs := rfl
@[simp] theorem retire_me_pcc : (s.retire).me.pcc = s.me.pcc := rfl
@[simp] theorem retire_me_pccFar : (s.retire).me.pccFar = s.me.pccFar := rfl
@[simp] theorem retire_me_csr : (s.retire).me.csr = s.me.csr := rfl
@[simp] theorem retire_me_ctr : (s.retire).me.ctr = s.me.ctr := rfl
@[simp] theorem retire_me_launch : (s.retire).me.launch = s.me.launch := rfl
@[simp] theorem retire_me_born : (s.retire).me.born = s.me.born := rfl
@[simp] theorem retire_me_exiting : (s.retire).me.exiting = s.me.exiting := rfl
@[simp] theorem retire_me_yielded : (s.retire).me.yielded = s.me.yielded := rfl
@[simp] theorem retire_me_follow : (s.retire).me.follow = s.me.follow := rfl
@[simp] theorem retire_me_rep : (s.retire).me.rep = s.me.rep := rfl
@[simp] theorem retire_me_resumed : (s.retire).me.resumed = false := rfl
@[simp] theorem retire_me_wait : (s.retire).me.wait = none := rfl
@[simp] theorem retire_me_chain : (s.retire).me.chain = s.me.chain := rfl
@[simp] theorem retire_me_held : (s.retire).me.held = s.me.held := rfl
@[simp] theorem retire_me_streams : (s.retire).me.streams = s.me.streams := rfl
@[simp] theorem retire_me_vloads : (s.retire).me.vloads = s.me.vloads := rfl
@[simp] theorem retire_me_vstates : (s.retire).me.vstates = s.me.vstates := rfl
@[simp] theorem retire_me_ticks : (s.retire).me.ticks = s.me.ticks := rfl
@[simp] theorem retire_me_lates : (s.retire).me.lates = s.me.lates := rfl
@[simp] theorem retire_me_parkCause : (s.retire).me.parkCause = s.me.parkCause := rfl
@[simp] theorem retire_me_sysPark : (s.retire).me.sysPark = s.me.sysPark := rfl
@[simp] theorem retire_me_scato : (s.retire).me.scato = s.me.scato := rfl
@[simp] theorem retire_me_farBound : (s.retire).me.farBound = s.me.farBound := rfl
@[simp] theorem spent_agenda : (s.spent).agenda = s.agenda := rfl
@[simp] theorem spent_turn : (s.spent).turn = s.turn := rfl
@[simp] theorem spent_draws : (s.spent).draws = s.draws + 1 := rfl
@[simp] theorem spent_serial : (s.spent).serial = s.serial := rfl
@[simp] theorem spent_time : (s.spent).time = s.time := rfl
@[simp] theorem spent_word : (s.spent).word = s.word := rfl
@[simp] theorem spent_retired : (s.spent).retired = s.retired := rfl
@[simp] theorem spent_cur : (s.spent).cur = s.cur := rfl
@[simp] theorem spent_me : (s.spent).me = s.me := rfl
@[simp] theorem spent_others : (s.spent).others = s.others := rfl
@[simp] theorem spent_cores : (s.spent).cores = s.cores := rfl
@[simp] theorem spent_mem : (s.spent).mem = s.mem := rfl
@[simp] theorem spent_rows : (s.spent).rows = s.rows := rfl
@[simp] theorem spent_hostMem : (s.spent).hostMem = s.hostMem := rfl
@[simp] theorem spent_l2tlb : (s.spent).l2tlb = s.l2tlb := rfl
@[simp] theorem spent_crews : (s.spent).crews = s.crews := rfl
@[simp] theorem spent_calendars : (s.spent).calendars = s.calendars := rfl
@[simp] theorem spent_regions : (s.spent).regions = s.regions := rfl
@[simp] theorem spent_arming : (s.spent).arming = s.arming := rfl
@[simp] theorem spent_fires : (s.spent).fires = s.fires := rfl
@[simp] theorem spent_laws : (s.spent).laws = s.laws := rfl
@[simp] theorem spent_chains : (s.spent).chains = s.chains := rfl
@[simp] theorem spent_checks : (s.spent).checks = s.checks := rfl
@[simp] theorem spent_reds : (s.spent).reds = s.reds := rfl
@[simp] theorem spent_fadd : (s.spent).fadd = s.fadd := rfl
@[simp] theorem spent_orphans : (s.spent).orphans = s.orphans := rfl
@[simp] theorem spent_scopes : (s.spent).scopes = s.scopes := rfl
@[simp] theorem spent_hmsgs : (s.spent).hmsgs = s.hmsgs := rfl
@[simp] theorem spent_hseq : (s.spent).hseq = s.hseq := rfl
@[simp] theorem spent_spills : (s.spent).spills = s.spills := rfl
@[simp] theorem spent_posted : (s.spent).posted = s.posted := rfl
@[simp] theorem spent_invals : (s.spent).invals = s.invals := rfl
@[simp] theorem spent_migrations : (s.spent).migrations = s.migrations := rfl
@[simp] theorem spent_parts : (s.spent).parts = s.parts := rfl
@[simp] theorem spent_sys : (s.spent).sys = s.sys := rfl
@[simp] theorem modCore_agenda (c : Nat) (f : Core → Core) : (s.modCore c f).agenda = s.agenda := rfl
@[simp] theorem modCore_turn (c : Nat) (f : Core → Core) : (s.modCore c f).turn = s.turn := rfl
@[simp] theorem modCore_draws (c : Nat) (f : Core → Core) : (s.modCore c f).draws = s.draws := rfl
@[simp] theorem modCore_serial (c : Nat) (f : Core → Core) : (s.modCore c f).serial = s.serial := rfl
@[simp] theorem modCore_time (c : Nat) (f : Core → Core) : (s.modCore c f).time = s.time := rfl
@[simp] theorem modCore_word (c : Nat) (f : Core → Core) : (s.modCore c f).word = s.word := rfl
@[simp] theorem modCore_retired (c : Nat) (f : Core → Core) : (s.modCore c f).retired = s.retired := rfl
@[simp] theorem modCore_cur (c : Nat) (f : Core → Core) : (s.modCore c f).cur = s.cur := rfl
@[simp] theorem modCore_me (c : Nat) (f : Core → Core) : (s.modCore c f).me = s.me := rfl
@[simp] theorem modCore_others (c : Nat) (f : Core → Core) : (s.modCore c f).others = s.others := rfl
@[simp] theorem modCore_cores (c : Nat) (f : Core → Core) : (s.modCore c f).cores = Table.modify s.cores c Core.fresh f := rfl
@[simp] theorem modCore_mem (c : Nat) (f : Core → Core) : (s.modCore c f).mem = s.mem := rfl
@[simp] theorem modCore_rows (c : Nat) (f : Core → Core) : (s.modCore c f).rows = s.rows := rfl
@[simp] theorem modCore_hostMem (c : Nat) (f : Core → Core) : (s.modCore c f).hostMem = s.hostMem := rfl
@[simp] theorem modCore_l2tlb (c : Nat) (f : Core → Core) : (s.modCore c f).l2tlb = s.l2tlb := rfl
@[simp] theorem modCore_crews (c : Nat) (f : Core → Core) : (s.modCore c f).crews = s.crews := rfl
@[simp] theorem modCore_calendars (c : Nat) (f : Core → Core) : (s.modCore c f).calendars = s.calendars := rfl
@[simp] theorem modCore_regions (c : Nat) (f : Core → Core) : (s.modCore c f).regions = s.regions := rfl
@[simp] theorem modCore_arming (c : Nat) (f : Core → Core) : (s.modCore c f).arming = s.arming := rfl
@[simp] theorem modCore_fires (c : Nat) (f : Core → Core) : (s.modCore c f).fires = s.fires := rfl
@[simp] theorem modCore_laws (c : Nat) (f : Core → Core) : (s.modCore c f).laws = s.laws := rfl
@[simp] theorem modCore_chains (c : Nat) (f : Core → Core) : (s.modCore c f).chains = s.chains := rfl
@[simp] theorem modCore_checks (c : Nat) (f : Core → Core) : (s.modCore c f).checks = s.checks := rfl
@[simp] theorem modCore_reds (c : Nat) (f : Core → Core) : (s.modCore c f).reds = s.reds := rfl
@[simp] theorem modCore_fadd (c : Nat) (f : Core → Core) : (s.modCore c f).fadd = s.fadd := rfl
@[simp] theorem modCore_orphans (c : Nat) (f : Core → Core) : (s.modCore c f).orphans = s.orphans := rfl
@[simp] theorem modCore_scopes (c : Nat) (f : Core → Core) : (s.modCore c f).scopes = s.scopes := rfl
@[simp] theorem modCore_hmsgs (c : Nat) (f : Core → Core) : (s.modCore c f).hmsgs = s.hmsgs := rfl
@[simp] theorem modCore_hseq (c : Nat) (f : Core → Core) : (s.modCore c f).hseq = s.hseq := rfl
@[simp] theorem modCore_spills (c : Nat) (f : Core → Core) : (s.modCore c f).spills = s.spills := rfl
@[simp] theorem modCore_posted (c : Nat) (f : Core → Core) : (s.modCore c f).posted = s.posted := rfl
@[simp] theorem modCore_invals (c : Nat) (f : Core → Core) : (s.modCore c f).invals = s.invals := rfl
@[simp] theorem modCore_migrations (c : Nat) (f : Core → Core) : (s.modCore c f).migrations = s.migrations := rfl
@[simp] theorem modCore_parts (c : Nat) (f : Core → Core) : (s.modCore c f).parts = s.parts := rfl
@[simp] theorem modCore_sys (c : Nat) (f : Core → Core) : (s.modCore c f).sys = s.sys := rfl
@[simp] theorem modPart_agenda (p : Nat) (f : Part → Part) : (s.modPart p f).agenda = s.agenda := rfl
@[simp] theorem modPart_turn (p : Nat) (f : Part → Part) : (s.modPart p f).turn = s.turn := rfl
@[simp] theorem modPart_draws (p : Nat) (f : Part → Part) : (s.modPart p f).draws = s.draws := rfl
@[simp] theorem modPart_serial (p : Nat) (f : Part → Part) : (s.modPart p f).serial = s.serial := rfl
@[simp] theorem modPart_time (p : Nat) (f : Part → Part) : (s.modPart p f).time = s.time := rfl
@[simp] theorem modPart_word (p : Nat) (f : Part → Part) : (s.modPart p f).word = s.word := rfl
@[simp] theorem modPart_retired (p : Nat) (f : Part → Part) : (s.modPart p f).retired = s.retired := rfl
@[simp] theorem modPart_cur (p : Nat) (f : Part → Part) : (s.modPart p f).cur = s.cur := rfl
@[simp] theorem modPart_me (p : Nat) (f : Part → Part) : (s.modPart p f).me = s.me := rfl
@[simp] theorem modPart_others (p : Nat) (f : Part → Part) : (s.modPart p f).others = s.others := rfl
@[simp] theorem modPart_cores (p : Nat) (f : Part → Part) : (s.modPart p f).cores = s.cores := rfl
@[simp] theorem modPart_mem (p : Nat) (f : Part → Part) : (s.modPart p f).mem = s.mem := rfl
@[simp] theorem modPart_rows (p : Nat) (f : Part → Part) : (s.modPart p f).rows = s.rows := rfl
@[simp] theorem modPart_hostMem (p : Nat) (f : Part → Part) : (s.modPart p f).hostMem = s.hostMem := rfl
@[simp] theorem modPart_l2tlb (p : Nat) (f : Part → Part) : (s.modPart p f).l2tlb = s.l2tlb := rfl
@[simp] theorem modPart_crews (p : Nat) (f : Part → Part) : (s.modPart p f).crews = s.crews := rfl
@[simp] theorem modPart_calendars (p : Nat) (f : Part → Part) : (s.modPart p f).calendars = s.calendars := rfl
@[simp] theorem modPart_regions (p : Nat) (f : Part → Part) : (s.modPart p f).regions = s.regions := rfl
@[simp] theorem modPart_arming (p : Nat) (f : Part → Part) : (s.modPart p f).arming = s.arming := rfl
@[simp] theorem modPart_fires (p : Nat) (f : Part → Part) : (s.modPart p f).fires = s.fires := rfl
@[simp] theorem modPart_laws (p : Nat) (f : Part → Part) : (s.modPart p f).laws = s.laws := rfl
@[simp] theorem modPart_chains (p : Nat) (f : Part → Part) : (s.modPart p f).chains = s.chains := rfl
@[simp] theorem modPart_checks (p : Nat) (f : Part → Part) : (s.modPart p f).checks = s.checks := rfl
@[simp] theorem modPart_reds (p : Nat) (f : Part → Part) : (s.modPart p f).reds = s.reds := rfl
@[simp] theorem modPart_fadd (p : Nat) (f : Part → Part) : (s.modPart p f).fadd = s.fadd := rfl
@[simp] theorem modPart_orphans (p : Nat) (f : Part → Part) : (s.modPart p f).orphans = s.orphans := rfl
@[simp] theorem modPart_scopes (p : Nat) (f : Part → Part) : (s.modPart p f).scopes = s.scopes := rfl
@[simp] theorem modPart_hmsgs (p : Nat) (f : Part → Part) : (s.modPart p f).hmsgs = s.hmsgs := rfl
@[simp] theorem modPart_hseq (p : Nat) (f : Part → Part) : (s.modPart p f).hseq = s.hseq := rfl
@[simp] theorem modPart_spills (p : Nat) (f : Part → Part) : (s.modPart p f).spills = s.spills := rfl
@[simp] theorem modPart_posted (p : Nat) (f : Part → Part) : (s.modPart p f).posted = s.posted := rfl
@[simp] theorem modPart_invals (p : Nat) (f : Part → Part) : (s.modPart p f).invals = s.invals := rfl
@[simp] theorem modPart_migrations (p : Nat) (f : Part → Part) : (s.modPart p f).migrations = s.migrations := rfl
@[simp] theorem modPart_parts (p : Nat) (f : Part → Part) : (s.modPart p f).parts = Table.modify s.parts p Part.fresh f := rfl
@[simp] theorem modPart_sys (p : Nat) (f : Part → Part) : (s.modPart p f).sys = s.sys := rfl
@[simp] theorem modCrew_agenda (k : CrewId) (f : Crew → Crew) : (s.modCrew k f).agenda = s.agenda := rfl
@[simp] theorem modCrew_turn (k : CrewId) (f : Crew → Crew) : (s.modCrew k f).turn = s.turn := rfl
@[simp] theorem modCrew_draws (k : CrewId) (f : Crew → Crew) : (s.modCrew k f).draws = s.draws := rfl
@[simp] theorem modCrew_serial (k : CrewId) (f : Crew → Crew) : (s.modCrew k f).serial = s.serial := rfl
@[simp] theorem modCrew_time (k : CrewId) (f : Crew → Crew) : (s.modCrew k f).time = s.time := rfl
@[simp] theorem modCrew_word (k : CrewId) (f : Crew → Crew) : (s.modCrew k f).word = s.word := rfl
@[simp] theorem modCrew_retired (k : CrewId) (f : Crew → Crew) : (s.modCrew k f).retired = s.retired := rfl
@[simp] theorem modCrew_cur (k : CrewId) (f : Crew → Crew) : (s.modCrew k f).cur = s.cur := rfl
@[simp] theorem modCrew_me (k : CrewId) (f : Crew → Crew) : (s.modCrew k f).me = s.me := rfl
@[simp] theorem modCrew_others (k : CrewId) (f : Crew → Crew) : (s.modCrew k f).others = s.others := rfl
@[simp] theorem modCrew_cores (k : CrewId) (f : Crew → Crew) : (s.modCrew k f).cores = s.cores := rfl
@[simp] theorem modCrew_mem (k : CrewId) (f : Crew → Crew) : (s.modCrew k f).mem = s.mem := rfl
@[simp] theorem modCrew_rows (k : CrewId) (f : Crew → Crew) : (s.modCrew k f).rows = s.rows := rfl
@[simp] theorem modCrew_hostMem (k : CrewId) (f : Crew → Crew) : (s.modCrew k f).hostMem = s.hostMem := rfl
@[simp] theorem modCrew_l2tlb (k : CrewId) (f : Crew → Crew) : (s.modCrew k f).l2tlb = s.l2tlb := rfl
@[simp] theorem modCrew_crews (k : CrewId) (f : Crew → Crew) : (s.modCrew k f).crews = Table.modify s.crews k Crew.fresh f := rfl
@[simp] theorem modCrew_calendars (k : CrewId) (f : Crew → Crew) : (s.modCrew k f).calendars = s.calendars := rfl
@[simp] theorem modCrew_regions (k : CrewId) (f : Crew → Crew) : (s.modCrew k f).regions = s.regions := rfl
@[simp] theorem modCrew_arming (k : CrewId) (f : Crew → Crew) : (s.modCrew k f).arming = s.arming := rfl
@[simp] theorem modCrew_fires (k : CrewId) (f : Crew → Crew) : (s.modCrew k f).fires = s.fires := rfl
@[simp] theorem modCrew_laws (k : CrewId) (f : Crew → Crew) : (s.modCrew k f).laws = s.laws := rfl
@[simp] theorem modCrew_chains (k : CrewId) (f : Crew → Crew) : (s.modCrew k f).chains = s.chains := rfl
@[simp] theorem modCrew_checks (k : CrewId) (f : Crew → Crew) : (s.modCrew k f).checks = s.checks := rfl
@[simp] theorem modCrew_reds (k : CrewId) (f : Crew → Crew) : (s.modCrew k f).reds = s.reds := rfl
@[simp] theorem modCrew_fadd (k : CrewId) (f : Crew → Crew) : (s.modCrew k f).fadd = s.fadd := rfl
@[simp] theorem modCrew_orphans (k : CrewId) (f : Crew → Crew) : (s.modCrew k f).orphans = s.orphans := rfl
@[simp] theorem modCrew_scopes (k : CrewId) (f : Crew → Crew) : (s.modCrew k f).scopes = s.scopes := rfl
@[simp] theorem modCrew_hmsgs (k : CrewId) (f : Crew → Crew) : (s.modCrew k f).hmsgs = s.hmsgs := rfl
@[simp] theorem modCrew_hseq (k : CrewId) (f : Crew → Crew) : (s.modCrew k f).hseq = s.hseq := rfl
@[simp] theorem modCrew_spills (k : CrewId) (f : Crew → Crew) : (s.modCrew k f).spills = s.spills := rfl
@[simp] theorem modCrew_posted (k : CrewId) (f : Crew → Crew) : (s.modCrew k f).posted = s.posted := rfl
@[simp] theorem modCrew_invals (k : CrewId) (f : Crew → Crew) : (s.modCrew k f).invals = s.invals := rfl
@[simp] theorem modCrew_migrations (k : CrewId) (f : Crew → Crew) : (s.modCrew k f).migrations = s.migrations := rfl
@[simp] theorem modCrew_parts (k : CrewId) (f : Crew → Crew) : (s.modCrew k f).parts = s.parts := rfl
@[simp] theorem modCrew_sys (k : CrewId) (f : Crew → Crew) : (s.modCrew k f).sys = s.sys := rfl

/-- The writes of one register are writes of the register files. -/
theorem setG_eq (i : GIdx) (x : GReg) : s.setG i x = s.modRegs (fun r => r.wg i x) := rfl
theorem setX_eq (i : GIdx) (v : Dword) (t : Bool) : s.setX i v t = s.modRegs (fun r => r.wg i ⟨v.zeroExtend 128, false, t⟩) := rfl
theorem setCap_eq (i : GIdx) (c : Cap) (t : Bool) : s.setCap i c t = s.modRegs (fun r => r.wg i ⟨c.bits, c.tag, t⟩) := rfl
theorem setP_eq (i : PIdx) (v : Dword) (t : Bool) : s.setP i v t = s.modRegs (fun r => r.wp i ⟨v, t⟩) := rfl
theorem setE_eq (i : BitVec 3) (v : Word) (t : Bool) : s.setE i v t = s.modRegs (fun r => r.we i ⟨v, t⟩) := rfl

/-- Moving the PC over an instruction touches nothing but the strand at issue (R188). -/
theorem advance_eq (n : Nat) : s.advance n = s.setMe (s.advance n).me := by
  unfold advance; repeat' split
  all_goals rfl

theorem advance_regs (n : Nat) : (s.advance n).me.regs = s.me.regs := by
  unfold advance; repeat' split
  all_goals rfl

theorem advance_csr (n : Nat) : (s.advance n).me.csr = s.me.csr := by
  unfold advance; repeat' split
  all_goals rfl

theorem advance_ctr (n : Nat) : (s.advance n).me.ctr = s.me.ctr := by
  unfold advance; repeat' split
  all_goals rfl

/-- Outside a REP body the PC moves by the instruction's size (R165). -/
theorem advance_plain (n : Nat) (h : s.me.rep = none) : s.advance n = s.setPc (s.pc + BitVec.ofNat 64 n) := by
  unfold advance; rw [h]

@[simp] theorem advance_agenda (n : Nat) : (s.advance n).agenda = s.agenda := by rw [advance_eq]; rfl
@[simp] theorem advance_turn (n : Nat) : (s.advance n).turn = s.turn := by rw [advance_eq]; rfl
@[simp] theorem advance_draws (n : Nat) : (s.advance n).draws = s.draws := by rw [advance_eq]; rfl
@[simp] theorem advance_serial (n : Nat) : (s.advance n).serial = s.serial := by rw [advance_eq]; rfl
@[simp] theorem advance_time (n : Nat) : (s.advance n).time = s.time := by rw [advance_eq]; rfl
@[simp] theorem advance_word (n : Nat) : (s.advance n).word = s.word := by rw [advance_eq]; rfl
@[simp] theorem advance_retired (n : Nat) : (s.advance n).retired = s.retired := by rw [advance_eq]; rfl
@[simp] theorem advance_cur (n : Nat) : (s.advance n).cur = s.cur := by rw [advance_eq]; rfl
@[simp] theorem advance_others (n : Nat) : (s.advance n).others = s.others := by rw [advance_eq]; rfl
@[simp] theorem advance_cores (n : Nat) : (s.advance n).cores = s.cores := by rw [advance_eq]; rfl
@[simp] theorem advance_mem (n : Nat) : (s.advance n).mem = s.mem := by rw [advance_eq]; rfl
@[simp] theorem advance_rows (n : Nat) : (s.advance n).rows = s.rows := by rw [advance_eq]; rfl
@[simp] theorem advance_hostMem (n : Nat) : (s.advance n).hostMem = s.hostMem := by rw [advance_eq]; rfl
@[simp] theorem advance_l2tlb (n : Nat) : (s.advance n).l2tlb = s.l2tlb := by rw [advance_eq]; rfl
@[simp] theorem advance_crews (n : Nat) : (s.advance n).crews = s.crews := by rw [advance_eq]; rfl
@[simp] theorem advance_calendars (n : Nat) : (s.advance n).calendars = s.calendars := by rw [advance_eq]; rfl
@[simp] theorem advance_regions (n : Nat) : (s.advance n).regions = s.regions := by rw [advance_eq]; rfl
@[simp] theorem advance_arming (n : Nat) : (s.advance n).arming = s.arming := by rw [advance_eq]; rfl
@[simp] theorem advance_fires (n : Nat) : (s.advance n).fires = s.fires := by rw [advance_eq]; rfl
@[simp] theorem advance_laws (n : Nat) : (s.advance n).laws = s.laws := by rw [advance_eq]; rfl
@[simp] theorem advance_chains (n : Nat) : (s.advance n).chains = s.chains := by rw [advance_eq]; rfl
@[simp] theorem advance_checks (n : Nat) : (s.advance n).checks = s.checks := by rw [advance_eq]; rfl
@[simp] theorem advance_reds (n : Nat) : (s.advance n).reds = s.reds := by rw [advance_eq]; rfl
@[simp] theorem advance_fadd (n : Nat) : (s.advance n).fadd = s.fadd := by rw [advance_eq]; rfl
@[simp] theorem advance_orphans (n : Nat) : (s.advance n).orphans = s.orphans := by rw [advance_eq]; rfl
@[simp] theorem advance_scopes (n : Nat) : (s.advance n).scopes = s.scopes := by rw [advance_eq]; rfl
@[simp] theorem advance_hmsgs (n : Nat) : (s.advance n).hmsgs = s.hmsgs := by rw [advance_eq]; rfl
@[simp] theorem advance_hseq (n : Nat) : (s.advance n).hseq = s.hseq := by rw [advance_eq]; rfl
@[simp] theorem advance_spills (n : Nat) : (s.advance n).spills = s.spills := by rw [advance_eq]; rfl
@[simp] theorem advance_posted (n : Nat) : (s.advance n).posted = s.posted := by rw [advance_eq]; rfl
@[simp] theorem advance_invals (n : Nat) : (s.advance n).invals = s.invals := by rw [advance_eq]; rfl
@[simp] theorem advance_migrations (n : Nat) : (s.advance n).migrations = s.migrations := by rw [advance_eq]; rfl
@[simp] theorem advance_parts (n : Nat) : (s.advance n).parts = s.parts := by rw [advance_eq]; rfl
@[simp] theorem advance_sys (n : Nat) : (s.advance n).sys = s.sys := by rw [advance_eq]; rfl

end Sys2Proof.Machine.State
end

