-- ==== Sys2Proof/Laws/Ops.lean ====
section
/-!
SUPPORT. What the shared operations do, once each: how a result becomes an outcome, registers read after they are written, taking
an exception, capability checks, and that every operation on memory, caches and reductions leaves the rest of the machine alone.
-/
namespace Sys2Proof.Machine

/-! ## From a result to an outcome -/

@[simp] theorem finish_ok (s t : State) : finish s (.ok t) = .next t.retire := rfl
@[simp] theorem finish_trap (s : State) (c : BitVec 8) (v : Dword) (x : Qword) :
    finish s (.error (.trap c v x)) = .next (s.spent.takeTrap c v x) := rfl
@[simp] theorem finish_stall (s : State) : finish s (.error .stall) = .next s.spent := rfl
@[simp] theorem finish_wait (s : State) (on : WaitOn) : finish s (.error (.wait on)) = .next (s.spent.beginWait on) := rfl
@[simp] theorem fallThrough_ok (n : Nat) (s t : State) : fallThrough n s (.ok t) = .next (t.advance n).retire := rfl
@[simp] theorem fallThrough_error (n : Nat) (s : State) (e : Stop) : fallThrough n s (.error e) = finish s (.error e) := rfl
@[simp] theorem fallOrWait_done (n : Nat) (s t : State) : fallOrWait n s (.ok (t, none)) = .next (t.advance n).retire := rfl
@[simp] theorem fallOrWait_wait (n : Nat) (s t : State) (on : WaitOn) : fallOrWait n s (.ok (t, some on)) = .next (t.beginWait on) := rfl
@[simp] theorem fallOrWait_error (n : Nat) (s : State) (e : Stop) : fallOrWait n s (.error e) = finish s (.error e) := rfl
@[simp] theorem event_some (s t : State) : event s (some t) = .next t := rfl
@[simp] theorem event_none (s : State) : event s none = .next s := rfl

/-- Every result is a next state: the four ways an instruction may end. -/
theorem finish_next (s : State) (r : Res State) : ∃ t, finish s r = .next t := by
  rcases r with ⟨_ | _ | _⟩ | _ <;> exact ⟨_, rfl⟩

theorem fallThrough_next (n : Nat) (s : State) (r : Res State) : ∃ t, fallThrough n s r = .next t := finish_next s _

theorem fallOrWait_next (n : Nat) (s : State) (r : Res (State × Option WaitOn)) : ∃ t, fallOrWait n s r = .next t := by
  rcases r with _ | ⟨_, _ | _⟩
  · exact finish_next s _
  · exact ⟨_, rfl⟩
  · exact ⟨_, rfl⟩

/-- What an instruction that falls through can answer. -/
theorem fallThrough_cases {n : Nat} {s t : State} {r : Res State} (h : fallThrough n s r = .next t) :
    (∃ u, r = .ok u ∧ t = (u.advance n).retire) ∨ (∃ c v x, r = .error (.trap c v x) ∧ t = s.spent.takeTrap c v x) ∨
    (r = .error .stall ∧ t = s.spent) ∨ (∃ on, r = .error (.wait on) ∧ t = s.spent.beginWait on) := by
  match r, h with
  | .error (.trap c v x), h => cases h; exact .inr (.inl ⟨c, v, x, rfl, rfl⟩)
  | .error .stall, h => cases h; exact .inr (.inr (.inl ⟨rfl, rfl⟩))
  | .error (.wait on), h => cases h; exact .inr (.inr (.inr ⟨on, rfl, rfl⟩))
  | .ok u, h => cases h; exact .inl ⟨u, rfl, rfl⟩

/-- The next instruction of a strand that runs no REP body is n bytes on. -/
theorem State.advance_of_no_rep {s : State} (h : s.me.rep = none) (n : Nat) : s.advance n = s.setPc (s.pc + BitVec.ofNat 64 n) := by
  simp [State.advance, h]

/-! ## Registers (R46) -/

namespace Regs

@[simp] theorem rg_zero (r : Regs) : r.rg 0 = GReg.zero := rfl
@[simp] theorem rp_zero (r : Regs) : r.rp 0 = ⟨BitVec.allOnes 64, false⟩ := rfl
@[simp] theorem wg_zero (r : Regs) (x : GReg) : r.wg 0 x = r := rfl
@[simp] theorem wp_zero (r : Regs) (x : PReg) : r.wp 0 x = r := rfl

theorem rg_wg (r : Regs) (i j : GIdx) (x : GReg) : (r.wg i x).rg j = if j = 0 then GReg.zero else if j = i then x else r.rg j := by
  unfold rg wg
  by_cases hj : j = 0
  · rw [if_pos hj, if_pos hj]
  rw [if_neg hj, if_neg hj]
  by_cases hi : i = 0
  · have : j ≠ i := fun h => hj (h.trans hi)
    simp only [if_pos hi, if_neg this, if_neg hj]
  by_cases h : j = i
  · subst h; simp only [if_neg hi, if_true, Vector.getElem_set_self]
  · simp only [if_neg hi, if_neg h, if_neg hj]
    exact Vector.getElem_set_ne _ _ (fun c => h (BitVec.eq_of_toNat_eq c.symm))

theorem rp_wp (r : Regs) (i j : PIdx) (x : PReg) :
    (r.wp i x).rp j = if j = 0 then ⟨BitVec.allOnes 64, false⟩ else if j = i then x else r.rp j := by
  unfold rp wp
  by_cases hj : j = 0
  · rw [if_pos hj, if_pos hj]
  rw [if_neg hj, if_neg hj]
  by_cases hi : i = 0
  · have : j ≠ i := fun h => hj (h.trans hi)
    simp only [if_pos hi, if_neg this, if_neg hj]
  by_cases h : j = i
  · subst h; simp only [if_neg hi, if_true, Vector.getElem_set_self]
  · simp only [if_neg hi, if_neg h, if_neg hj]
    exact Vector.getElem_set_ne _ _ (fun c => h (BitVec.eq_of_toNat_eq c.symm))

theorem rv_wv (r : Regs) (i j : VIdx) (x : VReg) : (r.wv i x).rv j = if j = i then x else r.rv j := by
  by_cases h : j = i
  · subst h; simp [rv, wv]
  · rw [if_neg h]; exact Vector.getElem_set_ne (BitVec.isLt i) (BitVec.isLt j) (fun c => h (BitVec.eq_of_toNat_eq c.symm))

theorem re_we (r : Regs) (i j : BitVec 3) (x : EReg) : (r.we i x).re j = if j = i then x else r.re j := by
  by_cases h : j = i
  · subst h; simp [re, we]
  · rw [if_neg h]; exact Vector.getElem_set_ne (BitVec.isLt i) (BitVec.isLt j) (fun c => h (BitVec.eq_of_toNat_eq c.symm))

end Regs

namespace State

theorem g_setG (s : State) (i j : GIdx) (x : GReg) : (s.setG i x).g j = if j = 0 then GReg.zero else if j = i then x else s.g j :=
  Regs.rg_wg s.me.regs i j x
theorem p_setP (s : State) (i j : PIdx) (v : Dword) (t : Bool) :
    (s.setP i v t).p j = if j = 0 then ⟨BitVec.allOnes 64, false⟩ else if j = i then ⟨v, t⟩ else s.p j :=
  Regs.rp_wp s.me.regs i j ⟨v, t⟩

/-- Data read back: bits 63:0 are the value. -/
theorem x_setX {s : State} {i : GIdx} (hi : i ≠ 0) (v : Dword) (t : Bool) : (s.setX i v t).x i = v := by
  have h : (s.setX i v t).g i = ⟨v.zeroExtend 128, false, t⟩ := by rw [setX, g_setG, if_neg hi, if_pos rfl]
  rw [x, h]
  apply BitVec.eq_of_getLsbD_eq
  intro k hk
  simp only [BitVec.getLsbD_extractLsb', BitVec.getLsbD_setWidth, hk, decide_true, Bool.true_and, Nat.zero_add]
  simp [show k < 128 by omega]

/-! ## v registers without streams (R207) -/

theorem readV_of_no_stream {s : State} {v : VIdx} (h : s.stream? v = none) : s.readV v = .ok (s.me.regs.rv v, s) := by
  simp [readV, h]
theorem writeV_of_no_stream {s : State} {v : VIdx} (h : s.stream? v = none) (x : VReg) :
    s.writeV v x = .ok (s.modRegs (fun r => r.wv v x)) := by
  simp [writeV, h]

/-! ## Taking an exception (R307) -/

theorem backEntry_me (s : State) (pi serial : Nat) : (s.backEntry pi serial).me = s.me := by
  unfold backEntry
  dsimp only
  split
  · rfl
  · split <;> rfl

theorem breakEntry_me (s : State) (pi serial : Nat) (h : HEntry) (reason : Nat) (cause : BitVec 8) (user : Word) (origin : Dword) :
    (s.breakEntry pi serial h reason cause user origin).me = s.me := by
  unfold breakEntry
  dsimp only
  split
  · rw [freeEntry, backEntry_me, modPart_me]; split <;> rfl
  · rw [setEntry, backEntry_me, modPart_me]; split <;> rfl

theorem breakHandles_me (s : State) (pick : Nat → Nat → HEntry → Bool) (reason : Nat) (cause : BitVec 8) :
    (s.breakHandles pick reason cause).me = s.me := by
  have inner : ∀ (pi : Nat) (l : Table Nat HEntry) (u : State), (l.foldl (fun (s : State) (e : Nat × HEntry) =>
      if e.2.unresolved && pick pi e.1 e.2 then s.breakEntry pi e.1 e.2 reason cause 0 (e.2.id s.devId e.1) else s) u).me = u.me := by
    intro pi l
    induction l with
    | nil => intro u; rfl
    | cons e l ih =>
      intro u
      rw [List.foldl_cons, ih]
      split
      · exact breakEntry_me ..
      · rfl
  have outer : ∀ (l : Table Nat Part) (u : State), (l.foldl (fun (s : State) (q : Nat × Part) =>
      q.2.entries.foldl (fun (s : State) (e : Nat × HEntry) =>
        if e.2.unresolved && pick q.1 e.1 e.2 then s.breakEntry q.1 e.1 e.2 reason cause 0 (e.2.id s.devId e.1) else s) s) u).me = u.me := by
    intro l
    induction l with
    | nil => intro u; rfl
    | cons e l ih => intro u; rw [List.foldl_cons, ih, inner]
  exact outer s.parts s

theorem postFault_me (s : State) (p : Nat) (r : FaultRec) : (s.postFault p r).me = s.me := by
  unfold postFault
  dsimp only
  split <;> rfl

/-- Parking keeps every register and control register of the strand. -/
theorem park_me (s : State) (c : BitVec 8) (v : Dword) (x : Qword) :
    (s.park c v x).me = { s.me with status := .parked, wait := none, resumed := false, parkCause := c, sysPark := false } := by
  simp [park, breakHandlesOf, breakHandles_me, modMe]

theorem mapFollowers_me (s : State) (f : Strand → Follow → Strand) : (s.mapFollowers f).me = s.me := by
  unfold mapFollowers
  split <;> rfl

theorem leaveStream_regs (s : State) : s.leaveStream.me.regs = s.me.regs := by
  unfold leaveStream
  split
  · rfl
  · split
    · show (Strand.detach _).regs = _
      unfold Strand.detach
      split
      · split <;> rfl
      · rfl
    · exact congrArg Strand.regs (mapFollowers_me s _)

/-- An exception changes no g, v, p or e register. -/
theorem takeTrap_regs (s : State) (c : BitVec 8) (v : Dword) (x : Qword) : (s.takeTrap c v x).me.regs = s.me.regs := by
  have h : ((s.leaveStream).modMe Strand.stopRep).me.regs = s.me.regs := by
    rw [← leaveStream_regs s]
    show (Strand.stopRep _).regs = _
    unfold Strand.stopRep
    split <;> rfl
  unfold takeTrap
  dsimp only
  split
  · exact h
  · rw [park_me]; exact h

theorem returnTrap_ok {s t : State} (h : s.returnTrap = .ok t) :
    s.me.csr.tepc.getLsbD 0 = false ∧ t.me.csr = { s.me.csr with inh := false } ∧ t.me.resumed = true ∧ t.me.regs = s.me.regs := by
  unfold returnTrap at h
  dsimp only at h
  split at h
  · cases h
  · rename_i hb
    cases h; exact ⟨Bool.eq_false_iff.mpr hb, rfl, rfl, rfl⟩

end State

/-! ## Capability checks (R53) -/

/-- A check at an exact address passes where the address fits 64 bits and no check of R53 fails there. -/
theorem capCheckAt_ok {c : Cap} {kinds : List Nat} {need : Need} {a : Int} {n align : Nat} {va : Dword} :
    capCheckAt c kinds need a n align = .ok va ↔
      0 ≤ a ∧ a < 2 ^ 64 ∧ va = BitVec.ofInt 64 a ∧ c.check kinds need va n align = none := by
  unfold capCheckAt
  dsimp only
  split
  · rename_i h
    split
    · rename_i e he
      simp only [capTrap]
      constructor
      · intro hh; split at hh <;> cases hh
      · rintro ⟨-, -, rfl, h2⟩; rw [he] at h2; cases h2
    · rename_i he
      constructor
      · intro hh; cases hh; exact ⟨h.1, h.2, rfl, he⟩
      · rintro ⟨-, -, rfl, -⟩; rfl
  · rename_i h
    constructor
    · intro hh; simp only [capTrap] at hh; split at hh <;> cases hh
    · rintro ⟨h1, h2, -, -⟩; exact absurd ⟨h1, h2⟩ h

/-- A check that fails is a precise trap. -/
theorem capCheckAt_error {c : Cap} {kinds : List Nat} {need : Need} {a : Int} {n align : Nat} {e : Stop}
    (h : capCheckAt c kinds need a n align = .error e) : ∃ cause x, e = .trap cause (BitVec.ofInt 64 a) x := by
  unfold capCheckAt at h
  dsimp only [capTrap] at h
  repeat' split at h
  all_goals (cases h; try exact ⟨_, _, rfl⟩)

/-! ## Operations on memory leave the rest of the machine alone -/

/-- A state without memory, caches, the scope checker's records, reductions and posted writes, and without what waiting strands have seen of memory. -/
def State.strip (s : State) : State :=
  { s with
    mem := Memory.empty
    hostMem := []
    cores := []
    l2tlb := []
    scopes := []
    reds := []
    orphans := []
    posted := []
    me := { s.me with wait := none }
    others := s.others.map (fun e => (e.1, { e.2 with wait := none })) }

namespace State

/-- What two states that agree when stripped have in common of the strand at issue. -/
theorem strip_me {s t : State} (h : t.strip = s.strip) : { t.me with wait := none } = { s.me with wait := none } := congrArg State.me h
theorem strip_regs {s t : State} (h : t.strip = s.strip) : t.me.regs = s.me.regs := congrArg (fun u => u.me.regs) h
theorem strip_csr {s t : State} (h : t.strip = s.strip) : t.me.csr = s.me.csr := congrArg (fun u => u.me.csr) h
theorem strip_pcc {s t : State} (h : t.strip = s.strip) : t.me.pcc = s.me.pcc := congrArg (fun u => u.me.pcc) h
theorem strip_ctr {s t : State} (h : t.strip = s.strip) : t.me.ctr = s.me.ctr := congrArg (fun u => u.me.ctr) h
theorem strip_status {s t : State} (h : t.strip = s.strip) : t.me.status = s.me.status := congrArg (fun u => u.me.status) h
theorem strip_rep {s t : State} (h : t.strip = s.strip) : t.me.rep = s.me.rep := congrArg (fun u => u.me.rep) h
theorem strip_follow {s t : State} (h : t.strip = s.strip) : t.me.follow = s.me.follow := congrArg (fun u => u.me.follow) h
theorem strip_cur {s t : State} (h : t.strip = s.strip) : t.cur = s.cur := by have := congrArg State.cur h; exact this
theorem strip_parts {s t : State} (h : t.strip = s.strip) : t.parts = s.parts := by have := congrArg State.parts h; exact this
theorem strip_chains {s t : State} (h : t.strip = s.strip) : t.chains = s.chains := by have := congrArg State.chains h; exact this
theorem strip_crews {s t : State} (h : t.strip = s.strip) : t.crews = s.crews := by have := congrArg State.crews h; exact this
theorem strip_sys {s t : State} (h : t.strip = s.strip) : t.sys = s.sys := by have := congrArg State.sys h; exact this

theorem modCore_strip (s : State) (c : Nat) (f : Core → Core) : (s.modCore c f).strip = s.strip := rfl

theorem markHit_bare (s : State) (m : Strand) : { s.markHit m with wait := none } = { m with wait := none } := by
  unfold markHit
  split
  · split <;> rfl
  · rfl

theorem notice_strip (s : State) : s.notice.strip = s.strip := by
  unfold notice
  split
  · rfl
  · simp only [strip, List.map_map, Function.comp_def, markHit_bare]

theorem flushCore_strip (s : State) (c : Nat) : (s.flushCore c).strip = s.strip := by
  unfold flushCore
  dsimp only
  split
  · rfl
  · rw [notice_strip]; rfl

theorem dropClean_strip (s : State) (c : Nat) : (s.dropClean c).strip = s.strip := by
  unfold dropClean
  dsimp only
  split <;> rfl

theorem evictLine_strip (s : State) (c line : Nat) : (s.evictLine c line).strip = s.strip := by
  unfold evictLine
  split
  · rfl
  · rw [notice_strip]; rfl

theorem setLine_strip (s : State) (c line : Nat) (l : Line) : (s.setLine c line l).strip = s.strip := by
  unfold setLine
  dsimp only
  rw [modCore_strip]
  split
  · rfl
  · split
    · exact evictLine_strip ..
    · rfl

theorem l1Load_strip (s : State) (c pa n : Nat) : (s.l1Load c pa n).2.2.2.2.strip = s.strip := by
  unfold l1Load
  dsimp only
  split
  · rfl
  · exact setLine_strip ..

theorem l1Store_strip (s : State) (c pa : Nat) (bs : List Byte) (t : Bool) : (s.l1Store c pa bs t).strip = s.strip := setLine_strip ..

theorem l1StoreCap_strip (s : State) (c pa : Nat) (b : Qword) (g t : Bool) : (s.l1StoreCap c pa b g t).strip = s.strip := setLine_strip ..

theorem modPage_strip (s : State) (c page frame : Nat) (f : Page → Page) : (s.modPage c page frame f).strip = s.strip := by
  unfold modPage
  split <;> rfl

theorem dropScopes_strip (s : State) (c : Nat) (pg : Page) : (s.dropScopes c pg).strip = s.strip := rfl

theorem drainPage_strip (s : State) (pg : Page) : (s.drainPage pg).strip = s.strip := by
  unfold drainPage
  dsimp only
  split
  · rfl
  · rw [notice_strip]; rfl

theorem touchPage_strip {s t : State} {c : Nat} {asid : BitVec 16} {page frame : Nat} {g : Bool} {leaf : Nat}
    (h : s.touchPage c asid page frame g leaf = some t) : t.strip = s.strip := by
  unfold touchPage at h
  dsimp only at h
  split at h
  · cases h; rfl
  · split at h
    · cases h; rfl
    · split at h
      · cases h; rfl
      · split at h
        · cases h
        · cases h; rw [modCore_strip, dropScopes_strip, drainPage_strip]

theorem leaf_strip {s t : State} {c : Ctx} {va n : Nat} {pte : Dword} (h : s.leaf c va = .ok (n, pte, t)) : t.strip = s.strip := by
  unfold leaf at h
  dsimp only at h
  repeat' split at h
  all_goals cases h
  all_goals rfl

/-- Finding an access's place changes nothing but the TLBs. -/
theorem locate_strip {s t : State} {c : Ctx} {a : Acc} {tagged : Bool} {va : Dword} {tr : Trans}
    (h : s.locate c a tagged va = .ok (tr, t)) : t.strip = s.strip := by
  unfold locate at h
  dsimp only [trap, trapX, stall] at h
  split at h <;> [cases h; skip]
  split at h <;> [cases h; skip]
  split at h <;> [cases h; skip]
  split at h <;> [cases h; skip]
  rename_i hl
  split at h <;> [cases h; skip]
  split at h <;> [cases h; skip]
  split at h <;> [cases h; skip]
  split at h
  · split at h <;> cases h
    exact leaf_strip hl
  · cases h
    exact leaf_strip hl

theorem translate_strip {s t : State} {c : Ctx} {a : Acc} {tagged : Bool} {va : Dword} {tr : Trans}
    (h : s.translate c a tagged va = .ok (tr, t)) : t.strip = s.strip := by
  unfold translate at h
  split at h
  · cases h
  · rename_i hl
    split at h
    · split at h
      · rename_i ht
        cases h
        rw [touchPage_strip ht, locate_strip hl]
      · cases h
    · cases h
      exact locate_strip hl

theorem readLoc_strip {s t : State} {c : Ctx} {loc : Loc} {va : Dword} {n : Nat} {g : Got} (h : s.readLoc c loc va n = .ok (g, t)) :
    t.strip = s.strip := by
  unfold readLoc at h
  split at h
  · have := l1Load_strip s (coreOfSlot c.slot) ‹_› n
    dsimp only [trap] at h
    split at h <;> cases h
    exact this
  · split at h
    · cases h
    · split at h <;> cases h
      rfl
  · cases h; rfl
  · cases h; rfl

theorem writeLoc_strip (s : State) (c : Ctx) (loc : Loc) (bs : List Byte) (t : Bool) : (s.writeLoc c loc bs t).strip = s.strip := by
  unfold writeLoc
  split
  · exact l1Store_strip ..
  · rw [notice_strip, modPage_strip]
  · rw [notice_strip]; rfl
  · rfl

theorem writeCapLoc_strip (s : State) (c : Ctx) (loc : Loc) (b : Qword) (g t : Bool) : (s.writeCapLoc c loc b g t).strip = s.strip := by
  unfold writeCapLoc
  split
  · exact l1StoreCap_strip ..
  · rw [notice_strip, modPage_strip]
  · rw [notice_strip]; rfl
  · rfl

theorem writeHome_strip (s : State) (loc : Loc) (bs : List Byte) (t : Bool) : (s.writeHome loc bs t).strip = s.strip := by
  unfold writeHome
  split
  · rw [notice_strip]; rfl
  · split
    · rw [notice_strip]; rfl
    · rw [notice_strip, modPage_strip]
  · rw [notice_strip]; rfl
  · rfl

theorem writeCapHome_strip (s : State) (loc : Loc) (b : Qword) (g t : Bool) : (s.writeCapHome loc b g t).strip = s.strip := by
  unfold writeCapHome
  split
  · rw [notice_strip]; rfl
  · split
    · rw [notice_strip]; rfl
    · rw [notice_strip, modPage_strip]
  · rw [notice_strip]; rfl
  · rfl

theorem evictAt_strip (s : State) (c : Nat) (loc : Loc) : (s.evictAt c loc).strip = s.strip := by
  unfold evictAt
  split
  · exact evictLine_strip ..
  · rfl

theorem foldl_strip {α : Type} (f : State → α → State) (hf : ∀ s x, (f s x).strip = s.strip) (l : List α) (s : State) :
    (l.foldl f s).strip = s.strip := by
  induction l generalizing s with
  | nil => rfl
  | cons x l ih => rw [List.foldl_cons, ih, hf]

theorem evictFor_strip (s : State) (r : RedReq) : (s.evictFor r).strip = s.strip :=
  foldl_strip (fun (s : State) (o : Owner) => s.evictAt (coreOfSlot o.slot) r.loc) (fun s _ => evictAt_strip s _ r.loc) (r.owner :: r.others) s

theorem applyRed_strip (s : State) (r : RedReq) : (s.applyRed r).strip = s.strip := by
  have h := evictFor_strip s r
  unfold applyRed
  dsimp only
  split
  · exact h
  · split
    · exact h
    · rw [writeHome_strip]; exact h

theorem settleReds_strip (s : State) (pick : RedReq → Bool) : (s.settleReds pick).strip = s.strip := by
  unfold settleReds
  dsimp only
  split
  · rfl
  · rw [foldl_strip _ applyRed_strip]; rfl

theorem settleOver_strip (s : State) (loc : Loc) (n : Nat) : (s.settleOver loc n).strip = s.strip := settleReds_strip s _

theorem release_strip (s : State) (scope : Nat) : (s.release scope).strip = s.strip := by
  unfold release
  dsimp only
  split
  · exact settleReds_strip s _
  · rw [flushCore_strip, settleReds_strip]

theorem acquire_strip (s : State) (scope : Nat) : (s.acquire scope).strip = s.strip := by
  unfold acquire
  split
  · rfl
  · exact dropClean_strip ..

/-- With no reduction of its core anywhere, settling does nothing. -/
theorem settleReds_of_none {s : State} (hc : (s.core s.myCore).combine = []) (hr : s.reds = []) (pick : RedReq → Bool) :
    s.settleReds pick = s := by
  simp [settleReds, hc, hr]

/-- A checked load leaves everything but memory and what caches hold of it. -/
theorem loadAt_strip {s t : State} {acc : Acc} {va : Dword} {n : Nat} {g : Got} (h : s.loadAt acc va n = .ok (g, t)) :
    t.strip = s.strip := by
  unfold loadAt at h
  split at h
  · cases h
  · rename_i ht
    rw [readLoc_strip h, settleOver_strip, translate_strip ht]

/-- A checked store changes registers of no kind, the PC, nor the counters. -/
theorem storeAt_strip {s t : State} {va : Dword} {bs : List Byte} {tn : Bool} (h : s.storeAt va bs tn = .ok t) :
    ∃ u : State, u.strip = s.strip ∧ (t = u ∨ t = u.taintEvent) := by
  unfold storeAt at h
  split at h
  · cases h
  · rename_i tr s1 ht
    split at h
    · cases h
    · cases h
      refine ⟨_, (writeLoc_strip (s1.settleOver tr.loc bs.length) s.ctx tr.loc bs tn).trans ((settleOver_strip ..).trans (translate_strip ht)), ?_⟩
      unfold noteLost taintEventIf
      split
      · split <;> simp
      · split <;> simp
      · simp

end State

end Sys2Proof.Machine
end

