-- ==== Sys2Proof/Laws/Vector.lean ====
section
/-!
SUPPORT. A v register and its lanes: a register made of lanes reads them back.
-/
namespace Sys2Proof.Machine

theorem ofWords_lt : ∀ l : List Word, ofWords l < 2 ^ (32 * l.length) := by
  intro l
  induction l with
  | nil => simp [ofWords]
  | cons w rest ih =>
    have hw := w.isLt
    rw [ofWords, List.length_cons, Nat.mul_succ, Nat.pow_add]
    have : ofWords rest + 1 ≤ 2 ^ (32 * rest.length) := ih
    calc w.toNat + 2 ^ 32 * ofWords rest < 2 ^ 32 * (ofWords rest + 1) := by omega
      _ ≤ 2 ^ 32 * 2 ^ (32 * rest.length) := Nat.mul_le_mul_left _ this
      _ = 2 ^ (32 * rest.length) * 2 ^ 32 := Nat.mul_comm _ _

theorem ofWords_div : ∀ (l : List Word) (k : Nat), (h : k < l.length) → ofWords l / 2 ^ (32 * k) % 2 ^ 32 = (l[k]).toNat := by
  intro l
  induction l with
  | nil => intro k h; simp at h
  | cons w rest ih =>
    intro k h
    cases k with
    | zero => have := w.isLt; simp [ofWords]; omega
    | succ j =>
      have e : ofWords (w :: rest) / 2 ^ (32 * (j + 1)) = ofWords rest / 2 ^ (32 * j) := by
        rw [Nat.mul_succ, Nat.add_comm, Nat.pow_add, ← Nat.div_div_eq_div_mul, ofWords]
        have := w.isLt
        congr 1; omega
      rw [e]
      simpa using ih j (by simpa using h)

/-- A register of 64 lanes reads each of them back (R46). -/
theorem lane_ofLanes (l : List Word) (hl : l.length = 64) (k : Nat) (hk : k < 64) : lane (ofLanes l) k = l[k]'(by omega) := by
  apply BitVec.eq_of_toNat_eq
  have h := ofWords_lt l
  rw [hl] at h
  simp only [lane, ofLanes, BitVec.extractLsb'_toNat, BitVec.toNat_ofNat, Nat.shiftRight_eq_div_pow]
  rw [Nat.mod_eq_of_lt h]
  exact ofWords_div l k (by omega)

theorem lane_ofLanes_tabulate (f : Nat → Word) (k : Nat) (hk : k < 64) : lane (ofLanes (tabulate 64 f)) k = f k := by
  rw [lane_ofLanes _ (by simp [tabulate]) k hk]
  simp [tabulate]

end Sys2Proof.Machine
end

