-- ==== Sys2Proof/Tests/Slice0.lean ====
section
/-!
SUPPORT. Tests of this model by evaluation. Expected words come from the manual's encodings; expected results from its rules, worked
out by hand. The witness theorems show, for the clauses of the statements, states and operands that meet their hypotheses together,
with what the statement then says of them.
-/
namespace Sys2Proof.Tests
open Sys2Proof.Machine
set_option Elab.async false

/-! ## The small state of the tests -/

/-- An untainted tagged register. -/
def tagged (c : Cap) : GReg := ⟨c.bits, true, false⟩
/-- An untainted data register. -/
def data (n : Nat) : GReg := ⟨BitVec.ofNat 128 n, false, false⟩
/-- A capability over len bytes from base, its address at the base. -/
def capOver (base len : Nat) (perms : BitVec 12) : Cap := (exactCap base len base perms).getD Cap.null

/-- The strand of slot 0: launch 1 of partition 0, code at 0x10000; g2 a page of data at 0x20000, g3 a page of core 0's window, g4 the
page as state words, g5 a handle's place, g6 the data 7, g7 the data 16. -/
def strand0 : Strand := { Strand.fresh with
  status := .ready
  pcc := capOver 0x10000 0x1000 0xFFF
  launch := ⟨0, 1⟩
  born := 1
  regs := { Regs.fresh with
    g := (((((Regs.fresh.g.set 2 (tagged (capOver 0x20000 0x1000 0xFFF))).set 3 (tagged (capOver 0x7F0000000000 0x1000 0xFFF))).set 4
      (tagged ((capOver 0x20000 0x1000 0xFFF).withKind 5))).set 6 (data 7)).set 7 (data 16)).set 8 (tagged (capOver 0x10000 0x1000 0xFFF)) } }

/-- A RUNNING launch of one crew in cluster 0. -/
def launch1 : Launch where
  id := ⟨0, 1⟩
  qidx := 0
  ringer := 0
  state := .running
  ncrew := 1
  tm1 := 0
  sm1 := 0
  pri := 1
  dmode := false
  chn := false
  asid := 0
  root := 0
  code := capOver 0x10000 0x1000 0xFFF
  frame := Cap.null
  deps := []
  chdesc := 0
  chsave := 0
  doneVa := 0
  seen := []
  crews := [⟨0, 0, 0, none, false, false, false, false, [], []⟩]

/-- Leaves for the code page, the data page and the first page of core 0's window: V, R, W, X, U, C. -/
def leaves : List TlbEntry := [⟨0, 0x10000, 12, 0x1005F⟩, ⟨0, 0x20000, 12, 0x2005F⟩, ⟨0, 0x7F0000000000, 12, 0x3005F⟩]

/-- Partition 0 ACTIVE with cluster 0 and layer 0. -/
def part0 : Part := { Part.fresh with
  state := 1, regs := [(0x018, 1), (0x078, 64), (0x080, 64)], bitmap := 1, launches := [launch1], ages := 2 }

/-- The state of the tests. -/
def w0 : State := { State.reset with
  me := strand0
  cores := [(0, { Core.fresh with tlb := leaves })]
  parts := [(0, part0)]
  sys := { Sys.fresh with layers := 1 } }

/-- Whether an outcome is this next state. -/
def goes (o : Out) (t : State) : Bool := match o with
  | .next s => decide (s = t)
  | _ => false
/-- Whether an outcome is a next state of which a property holds. -/
def next (o : Out) (f : State → Bool) : Bool := match o with
  | .next s => f s
  | _ => false
/-- Whether a computation has a value of which a property holds. -/
def got {α : Type} (r : Res α) (f : α → Bool) : Bool := match r with
  | .ok a => f a
  | .error _ => false
/-- Whether a computation stops in this way. -/
def stops {α : Type} (r : Res α) (e : Stop) : Bool := match r with
  | .ok _ => false
  | .error x => decide (x = e)
/-- Whether an option has a value of which a property holds. -/
def some' {α : Type} (r : Option α) (f : α → Bool) : Bool := match r with
  | some a => f a
  | none => false

/-! ## Well-formedness: an ill-formed term for each check -/

theorem test_reserved_scope_refused : Instr.fieldsOk (.lda 1 2 3 7) = false ∧ Instr.fieldsOk (.stl 1 2 3 7) = false ∧ Instr.fieldsOk (.red 0 2 3 7) = false ∧
    Instr.fieldsOk (.amoadd 1 2 3 7) = false ∧ Instr.fieldsOk (.amocas 1 2 3 7) = false ∧ Instr.fieldsOk (.fenceAcq 7) = false ∧
    Instr.fieldsOk (.fenceClean 2 7) = false ∧ Instr.fieldsOk (.waita 7 0 2 3 0) = false := by decide
theorem test_reserved_fields_refused : Instr.fieldsOk (.sext 1 2 3) = false ∧ Instr.fieldsOk (.zext 1 2 3) = false ∧ Instr.fieldsOk (.cget 1 2 10) = false ∧
    Instr.fieldsOk (.sleep 41) = false ∧ Instr.fieldsOk (.stmr 27 2) = false ∧ Instr.fieldsOk (.stmw 0 2) = false ∧ Instr.fieldsOk (.stmx 1 27) = false ∧
    Instr.fieldsOk (.stmd 27) = false := by decide
theorem test_reserved_selectors_refused : Instr.fieldsOk (.trap 0) = false ∧ Instr.fieldsOk (.trap 0x11) = false ∧ Instr.fieldsOk (.csrr 1 0x17) = false ∧
    Instr.fieldsOk (.csrw 1 0x30) = false ∧ Instr.fieldsOk (.csrw 1 0) = false ∧ Instr.fieldsOk (.sraw 1 2 2) = false ∧
    Instr.fieldsOk (.chst 1 2 7) = false ∧ Instr.fieldsOk (.chst 1 2 24) = false := by decide
theorem test_event_has_no_word : ¬ Instr.WellFormed (.wake 0) ∧ encode Hint.none (.wake 0) = [] ∧ Instr.WellFormed (.trap 0x13) := by
  unfold Instr.WellFormed; decide

/-! ## Decoding: words written out from the formats of R156 -/

def formR (f : BitVec 3) (b a d : BitVec 6) (op : BitVec 7) : Word := f ++ b ++ a ++ d ++ op ++ 0b0001#4
def formI (i : BitVec 9) (a d : BitVec 6) (op : BitVec 7) : Word := i ++ a ++ d ++ op ++ 0b0001#4
def formV (f m : BitVec 3) (vb va vd : BitVec 5) (op : BitVec 7) : Word := f ++ m ++ vb ++ va ++ vd ++ op ++ 0b0001#4
def formM (i : BitVec 6) (x : BitVec 1) (sz : BitVec 2) (a d : BitVec 6) (op : BitVec 7) : Word := i ++ x ++ sz ++ a ++ d ++ op ++ 0b0001#4
def formC (a5 d5 : BitVec 5) (opc : BitVec 5) : Half := a5 ++ d5 ++ opc ++ 0b0#1

theorem test_decode_integer : decodeWord (formR 0 7 6 5 0x00) = .ok (.add 5 6 7) ∧ decodeWord (formR 7 7 6 5 0x00) = .error .mustBeZero ∧
    decodeWord (formI 0x1F0 3 3 0x04) = .ok (.addi 3 3 0x1F0) ∧ decodeWord (0xFFFE48C1) = .ok (.li 9 0x7FFF) := by decide +kernel
theorem test_decode_compare : decodeWord (formR 0 6 5 0b010011 0x0A) = .ok (.cmp 3 2 5 6) := by decide +kernel
theorem test_decode_capability : decodeWord (formI 0x1E0 2 2 0x11) = .ok (.caddi 2 2 0x1E0) := by decide +kernel
theorem test_decode_float : decodeWord (formR 7 10 9 8 0x14) = .ok (.ffma 8 9 10) := by decide +kernel
theorem test_decode_control : decodeWord (0x00031A21) = .ok (.brc 3 false 6) ∧ decodeWord (formR 1 0 9 1 0x23) = .ok (.jalr 1 9) ∧
    decodeWord (formI 0b001000100 7 0 0x25) = .ok (.rep 7 4 1) := by decide +kernel
theorem test_decode_memory : decodeWord (formM 4 1 2 4 5 0x30) = .ok (.ld 5 4 2 true 4) ∧ decodeWord (formM 0x3F 0 2 4 6 0x31) = .ok (.st 6 4 2 0x3F) ∧
    decodeWord (formR 4 0b000011 8 6 0x33) = .ok (.lda 6 8 3 4) := by decide +kernel
theorem test_decode_atomic_and_wait : decodeWord (formR 2 10 9 7 0x35) = .ok (.amoadd 7 9 10 2) ∧ decodeWord (0x03FFFC01) = .ok (.wait 31 31 31 0) ∧
    decodeWord (formR 4 0 12 5 0x42) = .ok (.barw 5 12) := by decide +kernel
theorem test_decode_copy_and_gather : decodeWord (0x210E0431) = .ok (.waitid 7 2) ∧ decodeWord (formR 0 0 5 28 0x45) = .ok (.stmr 28 5) ∧
    decodeWord (formR 0 12 11 10 0x46) = .ok (.gath 10 11 12) := by decide +kernel
theorem test_decode_vector : decodeWord (formV 0 2 6 5 3 0x51) = .ok (.vfma 3 5 6 2) ∧ decodeWord (formR 0 5 2 4 0x5A) = .ok (.vld 4 2 5) := by decide +kernel
theorem test_decode_matrix : decodeWord (0x05942E01) = .ok (.tmma 1 true false false 10 11) ∧ decodeWord (formR 0 0 6 1 0x62) = .ok (.tbld 1 6) := by decide +kernel
theorem test_decode_state : decodeWord (formR 2 9 8 6 0x63) = .ok (.supd 6 8 9) ∧ decodeWord (formR 0 0 2 4 0x64) = .ok (.vsrd 4 2) := by decide +kernel
theorem test_decode_chain_and_handle : decodeWord (formR 0 7 6 5 0x66) = .ok (.chbnd 5 6 7) ∧ decodeWord (formR 0 0 1 10 0x67) = .ok (.get 10 1) ∧
    decodeWord (formR 1 13 9 10 0x68) = .ok (.invon 10 9 13) ∧ decodeWord (formR 0 0 9 14 0x69) = .ok (.await 14 9) := by decide +kernel
theorem test_decode_system : decodeWord (0x7FFFCF01) = .ok (.ext 1 true 0xFFFF) ∧ decodeWord (0x00402F21) = .ok (.csrw 5 0x20) ∧
    decodeWord (formR 2 0 6 5 0x73) = .ok (.sret 5 6) ∧ decodeWord (formR 0 7 6 0 0x74) = .ok (.tlbir 6 7) := by decide +kernel
theorem test_decode_compressed : decodeHalf (formC 4 3 2) = .ok (.cAdd 3 4) ∧ decodeHalf (formC 0x1F 3 5) = .ok (.cLi 3 0x1F) ∧
    decodeHalf (0b1111111111#10 ++ 13#5 ++ 0#1) = .ok (.cBr 0x3FF) ∧ decodeHalf (0b000010#6 ++ 0b1#1 ++ 3#3 ++ 14#5 ++ 0#1) = .ok (.cBrc 3 true 2) ∧
    decodeHalf (formC 2 9 19) = .ok (.cGet 9 2) := by decide +kernel
theorem test_decode_refuses : decodeWord 0xFFFFFFFF = .error .reservedMajor ∧ decodeHalf 0 = .error .reservedHalf ∧ decodeHalf (formC 0 0 25) = .error .reservedHalf ∧
    decodeHalf (formC 1 0 15) = .error .mustBeZero ∧ decodeHalf (formC 0b01000 1 19) = .error .mustBeZero ∧ decodeWord (formR 7 3 2 1 0x33) = .error .illegalField := by decide +kernel
theorem test_decode_bytes : decode [0x01, 0x28, 0x8C] = .error .truncated ∧ decode [0x01, 0x28, 0x8C, 0x03, 0xFF] = .ok ⟨.add 5 6 7, Hint.none, 4⟩ ∧
    decodeTableWord 32 0x038C2801 = some (.add 5 6 7) := by decide +kernel
theorem test_manual_words : (∀ x ∈ Claims.manualWords, decodeWord x.1 = .ok x.2) := by decide +kernel
theorem test_round_trip : decode (encode ⟨true, 3⟩ (.waita 6 2 3 4 7) ++ [0xAA]) = .ok ⟨.waita 6 2 3 4 7, ⟨true, 3⟩, 4⟩ ∧
    decode (encode Hint.none (.cBrc 5 true 0x20)) = .ok ⟨.cBrc 5 true 0x20, Hint.none, 2⟩ := by decide +kernel

/-! ## Integers, predicates, capabilities, floats, moves -/

/-- The root key of R178, its address at object type 1. -/
def rootKey : Cap := ⟨BitVec.ofNat 128 (2 ^ 64 * 0x3F000100FF0000E0 + 1), true⟩
/-- The state with a g register set. -/
def withG (s : State) (i : GIdx) (v : GReg) : State := s.setG i v
def withE (s : State) (i : BitVec 3) (v : Word) : State := s.setE i v false

theorem witness_integers : some' (Claims.dataResult w0 (.add 5 6 7)) (fun r =>
    goes (exec (.add 5 6 7) w0) ((w0.setG r.1 ⟨r.2.1.setWidth 128, false, r.2.2.1⟩).past r.2.2.2) && r.2.1 == 23) = true := by decide +kernel
theorem witness_division_by_zero : some' (Claims.dataResult w0 (.rem 5 7 9)) (fun r =>
    goes (exec (.rem 5 7 9) w0) ((w0.setG r.1 ⟨r.2.1.setWidth 128, false, r.2.2.1⟩).past r.2.2.2) && r.2.1 == 16) = true := by decide +kernel
theorem witness_predicates : some' (Claims.predResult w0 (.cmp 3 2 6 7)) (fun r =>
    goes (exec (.cmp 3 2 6 7) w0) ((w0.setP r.1 r.2.1 r.2.2.1).past r.2.2.2) && r.2.1 == BitVec.allOnes 64) = true := by decide +kernel
theorem witness_capabilities : some' (Claims.capResult w0 (.cadd 5 2 7)) (fun r => r.2.1.tag && decide (r.2.1.addr = 0x20010) && decide (r.2.1.bounds = (0x20000, 0x21000)) &&
    goes (exec (.cadd 5 2 7) w0) ((w0.setG r.1 ⟨r.2.1.bits, r.2.1.tag, r.2.2.1⟩).past 4)) = true := by decide +kernel
theorem witness_csetb : some' (Claims.capResult w0 (.csetb 5 2 7)) (fun r => r.2.1.tag && decide (r.2.1.bounds = (0x20000, 0x20010)) && decide (r.2.2.2 = some false) &&
    goes (exec (.csetb 5 2 7) w0) (((w0.setG r.1 ⟨r.2.1.bits, r.2.1.tag, r.2.2.1⟩).setP 7 0 r.2.2.1).past 4)) = true := by decide +kernel
theorem witness_move_keeps_bounds : ((w0.cap 2).move 0x20FFF).tag = true ∧ ((w0.cap 2).move 0x20FFF).bounds = (0x20000, 0x21000) := by decide +kernel
theorem witness_sealing : sealCheck true (w0.cap 2) rootKey = none ∧ ((w0.cap 2).withOtype 1).otype = 1 ∧ sealCheck false ((w0.cap 2).withOtype 1) rootKey = none ∧
    sealCheck true (w0.cap 6) rootKey = some 0x04 ∧ goes (exec (.cseal 5 2 10) (w0.setG 10 (tagged rootKey)))
      (((w0.setG 10 (tagged rootKey)).setCap 5 ((w0.cap 2).withOtype 1) false).past 4) = true := by decide +kernel
theorem witness_check_order : let c := w0.cap 2
    Cap.check ⟨c.bits, false⟩ [0] { r := true } 0x20000 8 8 = some 0x04 ∧ (c.withOtype 1).check [0] { r := true } 0x20000 8 8 = some 0x05 ∧
    (c.withKind 5).check [0] { r := true } 0x20000 8 8 = some 0x03 ∧ (c.withPerms 0xFFE).check [0] { r := true } 0x20000 8 8 = some 0x03 ∧
    c.check [0] { r := true } 0x20FF9 8 8 = some 0x02 ∧ c.check [0] { r := true } 0x8000000000020000 8 8 = some 0x02 ∧
    c.check [0] { r := true } 0x20FF4 8 8 = some 0x08 ∧ c.check [0] { r := true } 0x20FF8 8 8 = none := by decide +kernel
theorem witness_scalar_float : some' (Claims.fpResult (w0.setG 9 (data 0x3FF0000000000000)) (.dadd 5 9 9)) (fun r => decide (r.2.1 = (0x4000000000000000, 0)) &&
    goes (exec (.dadd 5 9 9) (w0.setG 9 (data 0x3FF0000000000000))) ((((w0.setG 9 (data 0x3FF0000000000000)).setG r.1 ⟨r.2.1.1.setWidth 128, false, r.2.2⟩).modCsr
      (fun c => { c with fflg := c.fflg ||| r.2.1.2 })).past 4)) = true := by decide +kernel
theorem witness_canonical_nan : some' (Claims.fpResult w0 (.ddiv 5 9 9)) (fun r => Claims.isNan .b64 r.2.1.1.toNat && decide (Claims.fpFormat (.ddiv 5 9 9) = some .b64) &&
    decide (r.2.1.1 = 0x7FF8000000000000)) = true := by decide +kernel
theorem test_fcmp_nan_raises : (fcmpCode .b32 2 0x7FC00000 0).2 = FFlags.nv ∧ (fcmpCode .b32 0 0x7FC00000 0).2 = 0 ∧ (fcmpCode .b32 0 0x7F800001 0).2 = FFlags.nv := by
  decide +kernel
theorem witness_no_streams : Claims.noStreams w0 := by unfold Claims.noStreams; decide +kernel
theorem witness_vins : next (exec (.vins 3 6 7) w0) (fun t => (List.range 64).all (fun k => decide (lane (t.me.regs.rv 3).bits k = if k = 16 then 7 else 0))) = true := by
  decide +kernel

/-! ## Control flow, follow groups, tasks -/

/-- The state with bytes of device memory. -/
def withMem (s : State) (a : Nat) (bs : List Byte) : State := { s with mem := s.mem.putBytes a bs }
/-- The strand of slot 4, of the next core, READY in the same launch. -/
def strand4 : Strand := { strand0 with born := 2 }
/-- The strand at issue in a follow group: its leader, or a follower at one hop. -/
def leads (gid : Nat) : Option Follow := some ⟨gid, 0, 0, 2, false, false, [], false⟩
def follows (gid : Nat) (attached : Bool) : Option Follow := some ⟨gid, 0, 1, 2, attached, false, [], false⟩
def withFollow (s : State) (f : Option Follow) : State := s.modMe (fun m => { m with follow := f })

theorem witness_branches : some' (Claims.branchResult w0 (.brc 3 false 6)) (fun t => goes (exec (.brc 3 false 6) w0) t.retire && decide (t.pc = 0x10004)) = true ∧
    some' (Claims.branchResult w0 (.brc 0 false 6)) (fun t => goes (exec (.brc 0 false 6) w0) t.retire && decide (t.pc = 0x1000C)) = true ∧
    some' (Claims.branchResult w0 (.loop 6 0x1FE)) (fun t => goes (exec (.loop 6 0x1FE) w0) t.retire && decide (t.pc = 0xFFFC) && decide (t.x 6 = 6)) = true := by decide +kernel
theorem witness_jump_enters : Claims.jumpOf (.jalr 1 8) = some (8, some 1) ∧ Claims.mayEnter (w0.cap 8) := by unfold Claims.mayEnter; decide +kernel
theorem witness_jump_traps : ¬ Claims.mayEnter (w0.cap 6) ∧ Claims.jumpCause (w0.cap 6) = 0x04 ∧ ¬ Claims.mayEnter (w0.cap 4) ∧ Claims.jumpCause (w0.cap 4) = 0x03 ∧
    ¬ Claims.mayEnter ((w0.cap 8).withAddr 0x10001) ∧ Claims.jumpCause ((w0.cap 8).withAddr 0x10001) = 0x08 := by unfold Claims.mayEnter; decide +kernel

/-- REP at the PC over one VFMA. -/
def wRep : State := withMem w0 0x10004 (toBytes 4 0x08C51D11)
theorem witness_rep_starts : got (wRep.captureBody wRep.pc.toNat 1) (fun (body, t) => decide (body = [0x08C51D11]) &&
    goes (exec (.rep 7 4 0) wRep) (((t.modCsr (fun c => { c with repi := c.repi &&& 0x7FFFFFFFFFFFFFFF#64 })).modMe (fun m => { m with rep := some ⟨body, 4, 16, 0, 0⟩ })).retire)) = true := by
  decide +kernel
theorem witness_rep_resumes : let s := wRep.modMe (fun m => { m with resumed := true, csr := { m.csr with repi := 0x8000000100000003 } })
    s.me.csr.repi.getLsbD 63 = true ∧ natBits s.me.csr.repi.toNat 58 56 ≤ 0 ∧ next (exec (.rep 7 4 0) s) (fun t => decide (t.me.rep = some ⟨[0x08C51D11], 4, 16, 3, 0⟩)) = true ∧
    (let r := s.modCsr (fun c => { c with repi := 0x8100000100000003 })
     0 < natBits r.me.csr.repi.toNat 58 56 ∧ next (exec (.rep 7 4 0) r) (fun t => decide (t.me.parkCause = 1)) = true) := by decide +kernel

/-- A strand of no chain may form groups, and no other stage goes on when it exits. -/
theorem outside_chains {s : State} (h : s.me.chain = none) : Claims.mayGroup s ∧ ¬ Claims.foldedWithOthers s := by
  unfold Claims.mayGroup Claims.foldedWithOthers State.myChain
  simp [h]
theorem witness_follow : w0.me.chain = none ∧ w0.me.follow = none ∧ w0.leaderOf 3 = none ∧ (w0.x 7).toNat % 64 = 16 ∧
    (w0.x 9).toNat % 64 = 0 ∧ goes (exec (.follow 9 3) w0) ((w0.setP 7 (BitVec.allOnes 64) false).past 4) = true ∧
    next (exec (.follow 7 3) w0) (fun t => decide (t.me.follow = some ⟨3, 0, 0, 16, false, false, [], false⟩)) = true := by decide +kernel
theorem witness_members : (withFollow w0 (follows 3 true)).me.follow = some ⟨3, 0, 1, 2, true, false, [], false⟩ ∧ (withFollow w0 (leads 3)).me.follow = some ⟨3, 0, 0, 2, false, false, [], false⟩ ∧
    (withFollow w0 (leads 3)).me.chain = none ∧ next (exec .detach (withFollow w0 (follows 3 true))) (fun t => decide (t.me.follow = follows 3 false)) = true ∧
    next (exec .fquit (withFollow w0 (leads 3))) (fun t => decide (t.me.follow = none)) = true ∧
    goes (exec .fquit w0) (w0.past 4) = true ∧ next (exec .fquit (withFollow w0 (follows 3 false))) (fun t => decide (t.me.follow = none)) = true ∧
    goes (exec .detach (withFollow w0 (follows 3 false))) ((withFollow w0 (follows 3 false)).past 4) = true := by decide +kernel

/-- The leader at its RJOIN, a detached follower waiting there. -/
def wJoin : State := { withFollow w0 (leads 3) with others := [(4, { strand4 with status := .waiting, follow := follows 3 false, wait := some ⟨0, .join 3 true, 0, false, false⟩ })] }
theorem witness_waits_at : ∀ e ∈ wJoin.others, Claims.waitsAt e.2 wJoin.pc := by unfold Claims.waitsAt; simp [wJoin, strand4]; decide +kernel
/-- Another strand of the group, not at the RJOIN. -/
def wMissed : State := { wJoin with others := [(4, { strand4 with follow := follows 3 false })] }
theorem witness_misses_join : (wMissed.followerOf 4 (wMissed.strand 4)).isSome ∧ (wMissed.strand 4).status = .ready ∧ next (exec (.rjoin 3) wMissed) (fun t =>
    decide ((t.strand 4).follow = some ⟨3, 0, 1, 2, false, true, [], false⟩)) = true := by decide +kernel
/-- A follower before RJOIN with a wait record, or none. -/
def wMember (missed : Bool) (w : Option WaitRec) : State :=
  w0.modMe (fun m => { m with follow := some ⟨3, 4, 1, 2, false, missed, [], false⟩, wait := w })
theorem witness_follower_joins : goes (exec (.rjoin 5) (wMember false none)) ((wMember false none).past 4) = true ∧
    goes (exec (.rjoin 3) (wMember false none)) ((wMember false none).beginWait (.join 3 true)) = true ∧
    goes (exec (.rjoin 3) (wMember true none)) ((Claims.missed (wMember false none)).past 4) = true ∧
    (let s := wMember false (some ⟨0, .join 3 true, 0, true, false⟩); goes (exec (.rjoin 3) s) ((Claims.missed s).past 4) = true) ∧
    (let s := wMember false (some ⟨0, .join 3 true, 0, false, false⟩); goes (exec (.rjoin 3) s) (s.beginWait (.join 3 true)) = true) := by decide +kernel
/-- A strand of no group before RJOIN, while slot 4 leads group 3. -/
def wJoiner (f : Follow) (w : Option WaitRec) : State :=
  { w0.modMe (fun m => { m with wait := w }) with others := [(4, { strand4 with follow := some f })] }
theorem witness_joins_leader : let s := wJoiner ⟨3, 4, 0, 32, false, false, [], false⟩ none
    s.leaderOf 3 = some (4, s.strand 4, ⟨3, 4, 0, 32, false, false, [], false⟩) ∧
    goes (exec (.rjoin 3) s) ((Claims.member s (some ⟨3, 4, 31, 32, false, false, [], false⟩)).beginWait (.join 3 true)) = true ∧
    s.leaderOf 7 = none ∧ goes (exec (.rjoin 7) s) (s.beginWait (.join 7 false)) = true ∧
    (let q := wJoiner ⟨3, 4, 0, 2, false, false, [], false⟩ none; goes (exec (.rjoin 3) q) (q.past 4) = true) ∧
    (let q := wJoiner ⟨3, 4, 0, 32, false, true, [], false⟩ none
     goes (exec (.rjoin 3) q) ((Claims.missed (Claims.member q (some ⟨3, 4, 31, 32, false, false, [], false⟩))).past 4) = true) ∧
    (let q := wJoiner ⟨3, 4, 0, 32, false, false, [], false⟩ (some ⟨0, .join 3 true, 0, false, false⟩); goes (exec (.rjoin 3) q) ((Claims.missed q).past 4) = true) ∧
    (let q := wJoiner ⟨3, 4, 0, 32, false, false, [], false⟩ (some ⟨0, .join 3 false, 0, false, true⟩); goes (exec (.rjoin 3) q) (q.past 4) = true) := by
  decide +kernel
theorem witness_leader_joins : wJoin.others.all (fun e => (wJoin.followerOf e.1 e.2).isSome && decide (e.2.pcc.addr = wJoin.pc)) = true ∧
    next (exec (.rjoin 3) wJoin) (fun t => t.others.all (fun e => decide (e.2.status = .ready) && decide (e.2.wait = none) && decide (e.2.pcc.addr = wJoin.pc + 4) &&
      e.2.follow.any (·.attached))) = true := by decide +kernel
theorem witness_leader_quits : next (exec .fquit { wJoin with others := [(4, { strand4 with follow := follows 3 true })] }) (fun t =>
    decide (t.others.map (fun e => e.2.follow) = [some ⟨3, 0, 1, 2, true, false, [.leave 4], false⟩])) = true := by decide +kernel

theorem witness_spawn : Claims.mayEnter (w0.cap 8) ∧ (Claims.entered (w0.cap 8)).base ≤ (w0.cap 8).addr.toNat ∧ (w0.cap 8).addr.toNat < (Claims.entered (w0.cap 8)).top ∧
    (w0.release 2).freeSlot (spawnCores w0.myCore 0 0) = some 1 ∧
    next (exec (.spawn 8 9) w0) (fun t => decide ((t.strand 1).status = .ready) && decide ((t.strand 1).pcc = w0.cap 8) && decide (t.p 7 = ⟨0, false⟩)) = true := by
  unfold Claims.mayEnter; decide +kernel
theorem witness_spawn_full : let s := { w0 with others := [(1, strand4), (2, strand4), (3, strand4)] }
    (s.release 2).freeSlot (spawnCores s.myCore 0 0) = none ∧ goes (exec (.spawn 8 9) s) ((s.setP 7 (BitVec.allOnes 64) false).past 4) = true ∧
    goes (exec (.spawnc 8 9) s) ((s.setP 7 (BitVec.allOnes 64) false).past 4) = true := by decide +kernel

theorem witness_enqueue : got (w0.readTask 2) (fun (r, s1) => some' ((s1.release 2).pushRing 0 { r with launch := some w0.me.launch }) (fun t =>
    goes (exec (.enql 2 0) w0) ((t.setP 7 0 false).past 4) && decide ((t.core 0).ring.length = 1))) = true := by decide +kernel
/-- A join counter of n before an all-zero record. -/
def wJoinCount (n : Nat) : State := withMem w0 0x20000 (toBytes 8 n)
theorem witness_jdec : next (exec (.jdec 5 2) (wJoinCount 2)) (fun t => decide (t.mem.nat 0x20000 8 = 1) && decide (t.x 5 = 2) && decide (t.p 7 = ⟨0, false⟩)) = true ∧
    next (exec (.jdec 5 2) (wJoinCount 0)) (fun t => decide (t.mem.nat 0x20000 8 = 0) && decide (t.x 5 = 0) && decide (t.p 7 = ⟨BitVec.allOnes 64, false⟩)) = true ∧
    next (exec (.jdec 5 2) (wJoinCount 1)) (fun t => decide (t.mem.nat 0x20000 8 = 0) && decide (t.x 5 = 1) && decide (t.p 7 = ⟨0, false⟩)) = true := by decide +kernel
theorem witness_sleep : w0.me.wait = none ∧ goes (exec (.sleep 4) w0) (w0.spent.beginWait (.sleep 16)) = true ∧
    (let s := { w0 with time := 20, me := { w0.me with wait := some ⟨0, .sleep 16, 4, true, false⟩ } }
     goes (exec (.sleep 4) s) (s.past 4) = true) := by decide +kernel
theorem witness_sleep_goes_on : let s := { w0 with time := 10, me := { w0.me with wait := some ⟨0, .sleep 20, 4, false, false⟩ } }
    goes (exec (.sleep 4) s) (s.spent.beginWait (.sleep 20)) = true := by decide +kernel
theorem witness_spawn_causes : ¬ Claims.mayEnter (w0.cap 6) ∧ goes (exec (.spawn 6 9) w0) (w0.spent.takeTrap 0x04 7 0) = true ∧
    (let s := w0.setG 10 (tagged ((w0.cap 8).move 0x11000))
     Claims.mayEnter (s.cap 10) ∧ (Claims.entered (s.cap 10)).top ≤ (s.cap 10).addr.toNat ∧
       next (exec (.spawnc 10 9) s) (fun t => decide (t.me.parkCause = 2)) = true) := by unfold Claims.mayEnter; decide +kernel
theorem witness_exit : w0.me.chain = none ∧ next (exec .exit w0) (fun t => t.me.exiting) = true := by decide +kernel

/-! ## Memory, atomics, fences, waits, barriers -/

theorem witness_loads : some' (Claims.loadForm w0 (.ld 5 2 2 true 4)) (fun f =>
    got (capCheckAt (w0.cap f.a) [0] { r := true } f.addr f.n f.n) (fun va => got (w0.loadAt f.acc va f.n) (fun (g, t) => decide (va = 0x20010) &&
      goes (exec (.ld 5 2 2 true 4) w0) ((t.setG f.d (f.value g)).past f.size)))) = true := by decide +kernel
theorem witness_loads_trap : some' (Claims.loadForm w0 (.ldx 5 6 7)) (fun f => stops (capCheckAt (w0.cap f.a) [0] { r := true } f.addr f.n f.n) (.trap 0x04 135 0)) = true ∧
    some' (Claims.loadForm (w0.setG 9 (tagged (capOver 0x30000 0x1000 0xFFF))) (.ldq 5 9 0)) (fun f => let s := w0.setG 9 (tagged (capOver 0x30000 0x1000 0xFFF))
      got (capCheckAt (s.cap f.a) [0] { r := true } f.addr f.n f.n) (fun va => stops (s.loadAt f.acc va f.n) (.trap 0x06 va 0))) = true := by decide +kernel
theorem witness_stores : some' (Claims.storeForm w0 (.st 7 2 1 3)) (fun f => decide (f.bytes = [16, 0]) &&
    got (capCheckAt (w0.cap f.a) [0] { w := true } f.addr 2 2) (fun va => got (w0.storeAt va f.bytes f.taint) (fun t => decide (va = 0x20006) && decide (t.me.ctr.s < 255) &&
      goes (exec (.st 7 2 1 3) w0) ((t.modCtr (fun c => { c with s := c.s + 1 })).past f.size)))) = true := by decide +kernel
theorem witness_store_stalls : let s := w0.modCtr (fun c => { c with s := 255 })
    goes (exec (.st 7 2 1 3) s) s.spent = true ∧ some' (Claims.storeForm s (.st 7 6 1 3)) (fun f => stops (capCheckAt (s.cap f.a) [0] { w := true } f.addr 2 2) (.trap 0x04 13 0)) = true := by
  decide +kernel
theorem witness_stc : got (capCheckAt (w0.cap 2) [0] { w := true } ((w0.cap 2).addr.toNat + (w0.x 7).toNat) 16 16) (fun va =>
    got (tagRights (w0.cap 2) (w0.cap 8) va) (fun _ => got (w0.translate w0.ctx .capStore (w0.g 8).tag va) (fun (t, s1) => got (s1.guardTaint t.pte (w0.g 8).taint va) (fun _ =>
      let s2 := ((s1.settleOver t.loc 16).writeCapLoc w0.ctx t.loc (w0.g 8).bits (w0.g 8).tag (w0.g 8).taint).noteLost t.loc (w0.g 8).taint
      decide (s2.me.ctr.s < 255) && goes (exec (.stc 8 2 7) w0) ((s2.modCtr (fun k => { k with s := k.s + 1 })).past 4))))) = true := by decide +kernel
theorem witness_stc_refused : ((w0.cap 2).withPerms 0xFEF).permStc = false ∧ (w0.cap 2).permStc = true ∧ ((w0.cap 8).withPerms 0xF7F).permGlobal = false ∧ inWindow 0x20010 = false ∧
    next (exec (.stc 8 9 7) (w0.setG 9 (tagged ((w0.cap 2).withPerms 0xFEF)))) (fun t => decide (t.me.parkCause = 3)) = true ∧
    next (exec (.stc 9 2 7) (w0.setG 9 (tagged ((w0.cap 8).withPerms 0xF7F)))) (fun t => decide (t.me.parkCause = 3)) = true := by decide +kernel

/-- Bytes at home under a line that has only its byte 1, dirty. -/
def wLine : State := (withMem w0 0x20000 [1, 2, 3, 4]).setLine 0 0x400 { Line.empty with data := 0x9900, have' := 2, dirty := 2 }
theorem witness_line : let l := wLine.lineOf 0 0x400
    l.hasAll 0 4 = false ∧ wLine.mem.anyPoison 0x20000 4 = false ∧ got (wLine.readLoc wLine.ctx (.mem 0x20000) 0x20000 4) (fun (g, t) =>
      decide (g.bytes = [1, 0x99, 3, 4]) && decide (g.bytes = wLine.seenBytes 0 0x20000 4) && decide (t.mem = wLine.mem)) = true ∧
    stops ({ wLine with mem := wLine.mem.putPoison 0x2000 true }.readLoc wLine.ctx (.mem 0x20000) 0x20000 4) (.trap 0x13 0x20000 0) = true := by decide +kernel
theorem witness_store_bytes : let t := wLine.writeLoc wLine.ctx (.mem 0x20002) [7, 8] true
    t.seenByte 0 0x20002 = 7 ∧ t.seenByte 0 0x20003 = 8 ∧ t.seenByte 0 0x20001 = 0x99 ∧ t.mem = wLine.mem ∧ t.seenByte 1 0x20002 = 3 ∧
    (t.lineOf 0 0x400).taint = 1 := by decide +kernel
theorem test_store_clears_tag : let l : Line := { Line.empty with tags := 0xFF, taint := 0xF }
    (l.store 16 (toBytes 32 0) false).tags = 0xF9 ∧ (l.store 16 (toBytes 48 0) false).taint = 0xD := by decide +kernel
theorem witness_pref : next (exec (.pref false 2 7) w0) (fun t => decide (t.me.regs = w0.me.regs)) = true := by decide +kernel

theorem witness_amo : Claims.amoWidth w0 8 ∧ (let s := withMem w0 0x20000 [5]
    got (s.amoOpen 0 2 8 Cap.null false) (fun (loc, g, t) => decide (t.partner (Claims.inFlight s loc 2 6 0 .add 8 true false) = none) &&
      decide (Claims.amoOn (.amoadd 5 2 6 0) true 64 g.nat 7 = 12) &&
      goes (exec (.amoadd 5 2 6 0) s) (((t.writeHome loc (toBytes 8 12) false).setG 5 (Claims.asData (Claims.extended s 8 g.nat) false)).past 4)) = true) := by
  unfold Claims.amoWidth; decide +kernel
/-- Another strand's reduction on its way to the word. -/
def wMeeting : State := { w0 with reds := [⟨⟨4, 9⟩, [], (w0.strandSrc 4), 0, w0.ctx, 0x20000, .mem 0x20000, .add, 8, true, 0, 3, false, 1⟩] }
theorem witness_amo_meets : got (wMeeting.amoOpen 0 2 8 Cap.null false) (fun (loc, _, t) =>
    decide (t.partner (Claims.inFlight wMeeting loc 2 6 0 .add 8 true false) = some 0) && (t.reds[0]?).isSome) = true := by decide +kernel
theorem witness_amo_traps : Claims.amoWidth w0 8 ∧ stops (w0.amoOpen 0 6 8 Cap.null false) (.trap 0x04 7 0) = true := by unfold Claims.amoWidth; decide +kernel
theorem witness_amo_reserved : 2 ≤ ((withE w0 7 2).e 7).toNat % 4 ∧ next (exec (.amoadd 5 2 6 0) (withE w0 7 2)) (fun t => decide (t.me.parkCause = 1)) = true := by decide +kernel
theorem witness_amocas : let s := withMem w0 0x20000 [7]
    got (s.amoOpen 0 2 8 Cap.null false) (fun (loc, g, t) => decide (g.nat = (s.g 6).bits.toNat) &&
      goes (exec (.amocas 6 2 7 0) s) (((t.writeHome loc (toBytes 8 16) false).setG 6 (data 7)).setP 7 0 false |>.past 4)) = true ∧
    next (exec (.amocas 7 2 6 0) s) (fun t => decide (t.mem = s.mem) && decide (t.x 7 = 7) && decide (t.p 7 = ⟨BitVec.allOnes 64, false⟩)) = true := by decide +kernel
theorem witness_amofadd : let s := (withMem w0 0x20000 (toBytes 8 0x3FF0000000000000)).setG 9 (data 0x3FF0000000000000)
    got (s.amoOpen 0 2 8 Cap.null true) (fun _ => next (exec (.amofadd 5 2 9 0) s) (fun t => decide (t.mem.nat 0x20000 8 = 0x4000000000000000) && t.me.csr.taintSticky && decide (t.x 5 = s.x 9))) = true := by
  decide +kernel
/-- One may be merged with that of slot 0's strand which the turn before served. -/
theorem witness_amofadd_fuses : let x : Fadd := ⟨⟨⟨0, 9⟩, [], 0, 0, w0.ctx, 0x20000, .mem 0x20000, .fadd64, 8, false, 0, 0x3FF0000000000000, true, 1⟩, 0x3FF0000000000000, false, 0x4000000000000000, false⟩
    let s := { (withMem w0 0x20000 (toBytes 8 0x4000000000000000)).setG 9 (data 0x3FF0000000000000) with cur := 1, fadd := some x }
    got (s.amoOpen 0 2 8 Cap.null true) (fun (loc, g, t) => let r := Claims.inFlight s loc 2 9 0 .fadd64 8 false true
      decide (t.partner r = none) && decide (t.fadd = some x) && r.op.float && decide (x.req.src < r.src) && !x.req.of r.owner && mergeable x.req r && decide (g.nat = x.after)) = true := by
  decide +kernel
theorem witness_wide_swap : let s := withE w0 7 2
    (s.e 7).toNat % 4 = 2 ∧ got (s.amoOpen 0 2 16 (s.cap 8) false) (fun (loc, g, t) => decide (g.nat = 0) &&
      goes (exec (.amoswap 5 2 8 0) s) (((t.writeCapHome loc (s.g 8).bits true false).setG 5 ⟨0, false, false⟩).past 4)) = true := by decide +kernel
theorem witness_reduction : Claims.amoWidth w0 8 ∧ got (capCheckAt (w0.cap 2) [0] { w := true } (w0.cap 2).addr.toNat 8 8) (fun va =>
    got (w0.translate w0.ctx .red false va) (fun (t, s1) => got (s1.guardTaint t.pte false va) (fun _ => decide (t.loc = .mem 0x20000) &&
      next (exec (.red 0 2 7 4) w0) (fun u => decide ((u.core 0).combine.map (fun r => (r.operand, r.width, r.scope)) = [(16, 8, 4)]) && decide (u.me.ctr.s = 1))))) = true := by
  unfold Claims.amoWidth; decide +kernel

theorem witness_lda : got (capCheckAt (w0.cap 2) [0] { r := true } (w0.cap 2).addr.toNat 8 8) (fun va => got (w0.translate w0.ctx .load false va) (fun (t, s1) =>
    got (s1.scopeCheck 4 t.loc va) (fun s2 => some' (((s2.settleOver t.loc 8).evictAt 0 t.loc).readHome t.loc 8) (fun g => decide (t.loc = .mem 0x20000) &&
      goes (exec (.lda 5 2 3 4) w0) (((((s2.settleOver t.loc 8).evictAt 0 t.loc).acquire 4).setG 5 (Claims.asData (BitVec.ofNat 64 g.nat) g.taint)).past 4))))) = true := by decide +kernel
theorem witness_stl : got (capCheckAt (w0.cap 2) [0] { w := true } (w0.cap 2).addr.toNat 8 8) (fun va => got (w0.translate w0.ctx .store false va) (fun (t, s1) =>
    got (s1.guardTaint t.pte false va) (fun _ => got (s1.scopeCheck 4 t.loc va) (fun _ => decide (t.loc = .mem 0x20000) &&
      next (exec (.stl 7 2 3 4) w0) (fun u => decide (u.mem.nat 0x20000 8 = 16) && decide (u.me.ctr.s = 1)))))) = true := by decide +kernel
theorem witness_fences : goes (exec (.fenceFull 4) wLine) (((wLine.release 4).acquire 4).past 4) = true ∧ ((wLine.release 4).core 0).lines.all (fun e => decide (e.2.dirty = 0)) = true ∧
    (wLine.release 4).mem.nat 0x20000 4 = 0x04039901 := by decide +kernel
theorem witness_fence_scope : (4 : BitVec 3) ≠ 0 ∧ ((wLine.acquire 4).core 0).lines.all (fun e => decide (e.2.have' = e.2.dirty)) = true := by decide +kernel
theorem witness_cache_operations : got (capCheckAt (wLine.cap 2) [0] { r := true } (wLine.cap 2).addr.toNat 1 1) (fun va => got (wLine.locate wLine.ctx .clean false va) (fun (t, s1) =>
      decide (t.loc = .mem 0x20000) && goes (exec (.fenceClean 2 4) wLine) ((s1.cleanLine 0x400).past 4))) = true ∧
    got (wLine.locate wLine.ctx .inval false 0x20000) (fun (t, s1) => decide (t.loc = .mem 0x20000) && goes (exec (.fenceInv 2 4) wLine) ((s1.dropLine 0x400).past 4)) = true := by
  decide +kernel

theorem witness_wait : Claims.countersIn w0 0 0 0 0 ∧ w0.me.lates = [] ∧ goes (exec .cWait0 w0) ((w0.acquire 2).past 2) = true ∧
    ¬ Claims.countersIn (w0.modCtr (fun c => { c with t := 2 })) 31 31 31 1 := by unfold Claims.countersIn; decide +kernel
/-- Two reports pending, the older of a copy. -/
def wLate : State := w0.modMe (fun m => { m with lates := [⟨0x0E, 5, 0, false, 9⟩, ⟨0x0E, 6, 0, true, 8⟩] })
theorem witness_wait_delivers : Claims.countersIn wLate 0 0 0 0 ∧ wLate.me.lates.all (fun q => decide (q.order = 8) || decide (8 < q.order)) = true ∧
    next (exec (.wait 0 0 0 0) wLate) (fun t => decide (t.me.lates = [⟨0x0E, 5, 0, false, 9⟩]) && decide (t.me.parkCause = 0x0E)) = true := by unfold Claims.countersIn; decide +kernel
theorem witness_waita : w0.me.wait = none ∧ got (w0.translate w0.ctx .load false 0x20000) (fun (t, s1) => decide (t.loc = .mem 0x20000) && got (s1.scopeCheck 4 t.loc 0x20000) (fun _ => true)) = true ∧
    Claims.holds 0 (BitVec.ofNat 64 0) (w0.x 9) = true ∧ next (exec (.waita 4 0 2 9 1) w0) (fun t => decide (t.p 7 = ⟨0, false⟩) && decide (t.pc = 0x10004)) = true ∧
    Claims.holds 1 (BitVec.ofNat 64 0) (w0.x 9) = false ∧ next (exec (.waita 4 1 2 9 1) w0) (fun t => decide (t.me.status = .waiting)) = true := by decide +kernel
theorem witness_waita_mmio : let s := { w0 with cores := [(0, { Core.fresh with tlb := ⟨0, 0x20000, 12, 0xF00001005F⟩ :: leaves.drop 2 })] }
    got (s.translate s.ctx .load false 0x20000) (fun (t, _) => decide (t.loc = .mmio 0xF000010000)) = true := by decide +kernel
/-- A strand that watches the word of its data page. -/
def wWatch (hit : Bool) : State := w0.modMe (fun m => { m with wait := some ⟨0, .word (.mem 0x20000) 8 1 0 false 1, 0, hit, false⟩ })
theorem witness_waita_goes_on : next (exec (.waita 4 1 2 9 1) (wWatch true)) (fun t => decide (t.p 7 = ⟨0, false⟩) && decide (t.pc = 0x10004)) = true ∧
    goes (exec (.waita 4 1 2 9 1) (wWatch false)) ((wWatch false).spent.beginWait (.word (.mem 0x20000) 8 1 0 false 1)) = true := by decide +kernel
theorem witness_waita_expired : let s := w0.modMe (fun m => { m with wait := some ⟨0, .word (.mem 0x20000) 8 1 0 false 1, 0, false, true⟩ })
    goes (exec (.waita 4 1 2 9 1) s) (((s.setP 7 (BitVec.allOnes 64) true).taintEvent).past 4) = true := by decide +kernel

theorem witness_barrier : got (w0.barrierAt 3 .amo false) (fun (_, loc, s1) => decide (loc = .scratch 0 0 0x30000 0) &&
    goes (exec (.binit 3 6) w0) (((s1.writeHome loc (toBytes 16 ((Barrier.complete ⟨false, false, 0, 0, 7⟩).toNat 0)) false).setP 7 0 false).past 4)) = true := by decide +kernel
/-- A barrier word in the window that expects two arrivals. -/
def wBarrier : State := match exec (.binit 3 9) (w0.setG 9 (data 2)) with
  | .next t => t
  | _ => w0
theorem witness_barrier_arrivals : got (wBarrier.barrierAt 3 .amo false) (fun (va, loc, s1) => got ((s1.release 2).barrierGet va loc) (fun (old, _) => decide ((Barrier.ofNat old).exp = 2))) = true ∧
    next (exec (.barr 5 3) wBarrier) (fun t => decide (t.x 5 = 0) && next (exec (.barr 5 3) t) (fun u => next (exec (.bwait 3 0) u) (fun v => decide (v.pc = u.pc + 4)))) = true ∧
    next (exec (.barw 5 3) wBarrier) (fun t => decide (t.me.status = .waiting)) = true := by decide +kernel
theorem witness_barrier_null : got (w0.barrierAt 3 .amo false) (fun (_, _, s1) => goes (exec (.binit 3 9) w0) ((s1.setP 7 (BitVec.allOnes 64) false).past 4)) = true := by decide +kernel
theorem witness_barrier_bytes : next (exec (.barb 5 3 7) wBarrier) (fun t => got (t.barrierAt 3 .amo false) (fun (va, loc, s1) =>
    got (s1.barrierGet va loc) (fun (old, _) => decide ((Barrier.ofNat old).bytes = 16) && decide ((Barrier.ofNat old).arr = 1)))) = true := by decide +kernel
/-- A strand that waits at the barrier, whose phase has ended or not. -/
def wAtBarrier (hit : Bool) : State := wBarrier.modMe (fun m => { m with wait := some ⟨0, .barrier (.scratch 0 0 0x30000 0) false, 0, hit, false⟩ })
theorem witness_barrier_wait_ends : goes (exec (.bwait 3 0) (wAtBarrier true)) (((wAtBarrier true).acquire 2).past 4) = true ∧
    goes (exec (.barw 5 3) (wAtBarrier false)) ((wAtBarrier false).spent.beginWait (.barrier (.scratch 0 0 0x30000 0) false)) = true := by decide +kernel
theorem witness_barrier_phase : got (wBarrier.barrierAt 3 .amo false) (fun (va, loc, s1) => got (s1.barrierGet va loc) (fun (old, _) =>
    decide ((Barrier.ofNat old).ph = false) && decide (((Barrier.ofNat old).complete).ph = false) &&
    goes (exec (.bwait 3 0) wBarrier) (s1.beginWait (.barrier loc false)))) = true := by decide +kernel
theorem witness_barrier_drop : next (exec (.bdrop 3) wBarrier) (fun t => decide (t.p 7 = ⟨0, false⟩) && next (exec (.bdrop 3) t) (fun u => decide (u.p 7 = ⟨BitVec.allOnes 64, false⟩))) = true := by
  decide +kernel

/-! ## Copies, streams, gathers -/

/-- Whether a side of a copy passes its check, as R235 has it. -/
def sideHolds (s : State) (c : Cap) (need : Need) (x : Int × Nat) : Bool :=
  got (capCheckAt c [0] need x.1 x.2 1) (fun lo => decide (s.isMmio s.ctx lo = none) && decide (s.isMmio s.ctx (lo + BitVec.ofNat 64 (x.2 - 1)) = none))

/-- e0 64 bytes, DEVICE scope and channel 2 in e6, g9 the page's second half. -/
def wCopy : State := ((w0.setE 0 64 false).setE 6 0x22 false).setG 9 (tagged ((w0.cap 2).move 0x20800))
theorem witness_copy_place : Claims.copyPlace wCopy 4 2 ∧ Claims.copyRoom wCopy ∧ ¬ Claims.copyRoom (wCopy.modCtr (fun c => { c with c := 255 })) := by
  unfold Claims.copyPlace Claims.copyRoom; decide +kernel
theorem witness_copy : sideHolds wCopy (wCopy.cap 9) { w := true } ((wCopy.cap 9).addr.toNat, 64) = true ∧ sideHolds wCopy (wCopy.cap 2) { r := true } (0x20000, 64) = true ∧
    some' (Claims.copyForm wCopy 4 2 0 (.copy 5 9 2)) (fun f => goes (exec (.copy 5 9 2) wCopy) ((Claims.pushed wCopy f.d f.cmd f.taint).past 4)) = true ∧
    (let s := wCopy.modCtr (fun c => { c with c := 255 })
     goes (exec (.copy 5 9 2) s) s.spent) = true := by decide +kernel
theorem witness_copy2 : let s := ((wCopy.setE 0 16 false).setE 1 4 false).setE 2 0xFFFFFFF0 false
    extent 0x20800 (s.e 2).toInt 4 16 = (0x207D0, 64) ∧ sideHolds s (s.cap 9) { w := true } (extent 0x20800 (s.e 2).toInt 4 16) = true ∧
    some' (Claims.copyForm s 4 2 0 (.copy2 5 9 2)) (fun f => goes (exec (.copy2 5 9 2) s) ((Claims.pushed s f.d f.cmd f.taint).past 4)) = true := by decide +kernel
theorem witness_copyb : let s := wCopy.setE 4 0x3F0 false
    (s.e 4).toNat < 2 ^ 18 ∧ s.windowAddr (s.cap 9) (s.e 4) = 0x7F00000003F0 ∧
    some' (Claims.copyForm s 4 2 0x7F00000003F0 (.copyb 5 9 2)) (fun f => goes (exec (.copyb 5 9 2) s) ((Claims.pushed s f.d f.cmd f.taint).past 4)) = true ∧
    some' (Claims.copyForm s 4 2 0x7F00000003F0 (.copyf 5 9 2)) (fun f => goes (exec (.copyf 5 9 2) s) ((Claims.pushed s f.d f.cmd f.taint).past 4)) = true := by decide +kernel
/-- A shape of one row of 32 columns as BF16, row-major. -/
def wPack : State := (wCopy.setE 0 0x00010020 false).setE 5 0x00050000 false
theorem witness_pack : got wPack.packShape (fun x => decide (x = (1, 32, 16, 0xFFFF0001)) && decide (bufferSize 32 16 1 = 128) &&
    sideHolds wPack (wPack.cap 9) { w := true } (0x20800, 128) && sideHolds wPack (wPack.cap 2) { r := true } (extent 0x20000 0 1 64) &&
    goes (exec (.copyp 5 9 2) wPack) ((Claims.pushed wPack 5 { wPack.copyBase .copyp 4 2 9 2 128 with cw := 16, sig := 0xFFFF0001 } false).past 4) &&
    goes (exec (.copyz 5 9 2) wPack) ((Claims.pushed wPack 5 { wPack.copyBase .copyz 4 2 9 2 128 with cw := 16, sig := 0xFFFF0001 } false).past 4)) = true := by decide +kernel
/-- A TMMA word on tile 1 with buffers g10 and g11, its shape in e5. -/
def wCarry : State := (wCopy.setE 4 0x05940E01 false).setE 5 0x00200101 false
theorem witness_copyt : isTmmaWord (wCarry.e 4) = true ∧ got (wCarry.sampleTmma ((wCarry.e 4).extractLsb' 11 2).toNat false false false 10 11 (wCarry.e 5) (wCarry.e 1) false) (fun (x, t) =>
    decide (x.acc = 1) && goes (exec (.copyt 5 9 2) wCarry) ((Claims.pushed (t.modCtr (fun k => { k with t := k.t + 1 })) 5
      { wCarry.copyBase .copyt 4 2 9 2 64 with tmma := some x } false).past 4)) = true := by decide +kernel
theorem witness_channels : let s := w0.modChannel 0 2 (fun _ => ⟨9, 8, some (7, 4, 1, 0x20000)⟩)
    0 < ((s.channel 0 2).done - 7).toNat ∧ ((s.channel 0 2).done - 7).toNat ≤ 2 ^ 31 ∧ goes (exec (.waitid 6 2) s) ((s.acquire 2).past 4) = true ∧
    ¬ (0 < ((s.channel 0 2).done - 16).toNat ∧ ((s.channel 0 2).done - 16).toNat ≤ 2 ^ 31) ∧ goes (exec (.waitid 7 2) s) (s.spent.beginWait (.transfer 2 16)) = true ∧
    next (exec (.cperr 5 2) s) (fun t => decide ((t.g 5).bits = 0x00000007040100010000000000020000) && decide ((t.channel 0 2).err = none)) = true := by decide +kernel

/-- A pattern of two elements of 256 bytes. -/
def wShape : State := (((w0.setE 0 2 false).setE 1 1 false).setE 2 1 false).setE 3 256 false
theorem witness_streams : 0 < (wShape.e 0).toNat * (wShape.e 1).toNat * (wShape.e 2).toNat ∧ w0.x 0 = 0 ∧ (w0.e 0).toNat * (w0.e 1).toNat * (w0.e 2).toNat = 0 ∧
    next (exec (.stmr 28 2) wShape) (fun t => decide (t.stream? 28 = some ⟨false, w0.cap 2, [2, 1, 1], [256, 0, 0], 0, false⟩)) = true ∧
    next (exec (.stmw 31 2) w0) (fun t => decide (t.me.parkCause = 1)) = true ∧ goes (exec (.stmx 5 29) w0) ((w0.setG 5 ⟨0, false, false⟩).past 4) = true := by decide +kernel
/-- v28 reads that pattern, v29 writes it, v30 has read it all. -/
def wStreams : State := (((withMem w0 0x20000 [0xAB]).setStream 28 (some ⟨false, w0.cap 2, [2, 1, 1], [256, 0, 0], 0, false⟩)).setStream 29
  (some ⟨true, w0.cap 2, [2, 1, 1], [256, 0, 0], 0, false⟩)).setStream 30 (some ⟨false, w0.cap 2, [2, 1, 1], [256, 0, 0], 2, false⟩)
theorem witness_stream_reads : got (capCheckAt (w0.cap 2) [0] { r := true } 0x20000 256 4) (fun a => got (wStreams.readVirt wStreams.ctx a 256) (fun (bs, _, _) =>
      got (wStreams.readV 28) (fun (r, w) => decide (byteLane r.bits 0 = bs.getD 0 0) && decide (byteLane r.bits 0 = 0xAB) &&
        decide (w.stream? 28 = some ⟨false, w0.cap 2, [2, 1, 1], [256, 0, 0], 1, false⟩)))) = true ∧
    got (wStreams.readV 30) (fun (r, w) => decide (r = ⟨0, false⟩) && some' (w.stream? 30) (fun t => t.ovr)) = true := by decide +kernel
theorem witness_stream_writes : got (wStreams.readV 29) (fun (r, w) => decide (r = w0.me.regs.rv 29) && decide (w = wStreams)) = true ∧
    got (wStreams.writeV 28 ⟨5, false⟩) (fun w => decide (w = wStreams.modRegs (fun r => r.wv 28 ⟨5, false⟩))) = true ∧
    next (exec (.vmov 29 1 0) wStreams) (fun t => some' (t.stream? 29) (fun x => decide (x.pos = 1)) && decide (t.me.regs.rv 29 = w0.me.regs.rv 29)) = true := by decide +kernel

/-- Four 4-byte elements with 4-byte indices, DEVICE scope in e1. -/
def wGather : State := (((wCopy.setE 0 4 false).setE 1 0x22 false).setE 2 0x100 false)
theorem witness_gather : Claims.gatherShape wGather false ∧ Claims.copyRoom wGather ∧ sideHolds wGather (wGather.cap 9) { r := true } (0x20800, 16) = true ∧
    sideHolds wGather (wGather.cap 2) { w := true } (0x20000, 16) = true ∧ got (wGather.statusAt 4) (fun (va, _) => decide (va = 0x7F0000000100)) = true ∧
    next (exec (.gath 2 9 9) wGather) (fun t => decide (t.me.ctr.c = 1) && decide ((t.core 0).queue.length = 1)) = true := by
  unfold Claims.gatherShape Claims.copyRoom; decide +kernel
theorem witness_scata : Claims.gatherShape (wGather.setE 1 0x122 false) true ∧ next (exec (.scato 2 9 9) wGather) (fun t => decide (t.me.ctr.c = 1)) = true ∧
    next (exec (.scata 2 9 9) (wGather.setE 1 0x122 false)) (fun t => t.me.csr.taintSticky) = true := by unfold Claims.gatherShape; decide +kernel
theorem witness_grest : got (wGather.statusAt 1) (fun (va, s1) => got (s1.readVirt s1.ctx va 16) (fun (bs, _, s2) => decide (natBits (ofBytes bs) 127 120 = 0) &&
    got (s2.gatherCmd .gath true 2 9 9) (fun t => goes (exec (.grest 2 9 9) wGather) (t.past 4)))) = true ∧
    next (exec (.grest 2 9 9) (withMem wGather 0x3010F [9])) (fun t => decide (t.me.parkCause = 1)) = true := by decide +kernel
theorem witness_logm : let s := wGather.setE 1 0x20 false
    s.e 1 &&& ~~~(0x38#32) = 0 ∧ (s.e 1).extractLsb' 3 3 ≠ 7 ∧ sideHolds s (s.cap 2) { r := true, w := true } (0x20000, 64) = true ∧
    next (exec (.logm 2) s) (fun t => decide (t.me.ctr.c = 1) && decide ((t.core 0).queue.length = 1)) = true := by decide +kernel

/-! ## Vectors -/

/-- A v register of 64 equal lanes. -/
def splat (w : Word) : VReg := ⟨BitVec.ofNat 2048 ((List.range 64).foldl (fun n _ => n * 2 ^ 32 + w.toNat) 0), false⟩
/-- v1 all 1.0, v2 all 2.0, v3 all 5; p2 the low three lanes. -/
def wVec : State := (w0.modRegs (fun r => ((r.wv 1 (splat 0x3F800000)).wv 2 (splat 0x40000000)).wv 3 (splat 5))).setP 2 7 false
theorem witness_lanes : Claims.noStreams wVec ∧ some' (Claims.laneForm wVec (.vfadd 3 1 2 2)) (fun f => decide (f.out (f.src.map wVec.me.regs.rv) 0 = (0x40400000, 0)) &&
    next (exec (.vfadd 3 1 2 2) wVec) (fun t => (List.range 64).all (fun k => decide (lane (t.me.regs.rv 3).bits k = if k < 3 then 0x40400000 else 5)))) = true := by
  unfold Claims.noStreams; decide +kernel
theorem witness_half_lanes : some' (Claims.halfForm wVec (.vbadd 4 1 1 0)) (fun f => decide (f.out (f.src.map wVec.me.regs.rv) 1 = (0x4000, 0)) &&
    next (exec (.vbadd 4 1 1 0) wVec) (fun t => (List.range 64).all (fun k => decide (lane (t.me.regs.rv 4).bits k = 0x40000000)))) = true := by decide +kernel
theorem witness_whole : some' (Claims.wholeForm wVec (.vradd 4 1 2)) (fun f => decide (f.out (f.src.map wVec.me.regs.rv) 0 = 0x40400000) && decide (f.flags (f.src.map wVec.me.regs.rv) = 0) &&
    next (exec (.vradd 4 1 2) wVec) (fun t => decide ((t.me.regs.rv 4).bits = 0x40400000))) = true ∧
    some' (Claims.wholeForm wVec (.viscan 4 3 0)) (fun f => decide (f.out (f.src.map wVec.me.regs.rv) 63 = 320)) = true := by decide +kernel
theorem witness_extremum : Claims.packed wVec 2 (splat 0x3F800000) = [0x3F800000, 0x3F800000, 0x3F800000] ∧ Claims.isNan .b32 0x3F800000 = false ∧
    next (exec (.vrmax 4 1 2) wVec) (fun t => decide ((t.me.regs.rv 4).bits = 0x3F800000)) = true ∧ next (exec (.vrmin 4 1 7) wVec) (fun t => decide ((t.me.regs.rv 4).bits = 0x7FC00000)) = true ∧
    next (exec (.vicmp 3 3 3 2 0) wVec) (fun t => decide (t.p 3 = ⟨7, false⟩)) = true := by decide +kernel
/-- Slot 2 valid: one-bit codes, 0 for +0 and 1 for 1.0. -/
def slot1 : TableSlot := { TableSlot.fresh with header := BitVec.ofNat 512 (1 + 2 ^ 16 + 2 ^ 64 * 5), entries := [0x80000, 0x9FC00] ++ List.replicate 254 0, valid := true }
def wSlot : State := wVec.modCore 0 (fun k => { k with tables := k.tables.set 2 slot1 })
theorem witness_venc : (wSlot.slotOf 2).valid = true ∧ (wVec.slotOf 2).valid = false ∧ (wVec.slotOf 1).valid = false ∧
    next (exec (.vdec 4 0 1 0 0) wVec) (fun t => decide (t.me.parkCause = 0x0D) && decide (t.me.csr.tval = 0)) = true ∧
    next (exec (.venc 4 1 1 2) wSlot) (fun t => (List.range 256).all (fun j => decide (byteLane (t.me.regs.rv 4).bits j = if 64 ≤ j ∧ j < 67 then 1 else 0))) = true := by decide +kernel

theorem witness_vload : some' (Claims.vloadForm wVec (.vld 4 2 7)) (fun f => decide (Claims.elements (wVec.setE 3 2 false) = [0, 1, 2]) &&
    got (capCheckAt f.c [0] { r := true } (f.addr [] 0) 256 4) (fun va => decide (va = 0x20010)) &&
    got (placeLanes .load { r := true } f.whole f.c (f.addr []) (Claims.elements wVec) false wVec) (fun (pl, s1) => got (gatherLanes pl s1) (fun (ws, _, s2) =>
      decide (ws.length = 64) && decide (s2.me.ctr.l < 255) && next (exec (.vld 4 2 7) wVec) (fun t => decide (t.me.ctr.l = 1) && decide (t.me.vloads.length = 1))))) = true := by
  decide +kernel
theorem witness_vload_traps : some' (Claims.vloadForm (wVec.setE 3 2 false) (.vlds 4 6 7)) (fun f => stops (placeLanes .load { r := true } f.whole f.c (f.addr []) [0, 1, 2] false wVec) (.trap 0x04 7 0)) = true ∧
    (let s := wVec.modCtr (fun c => { c with l := 255 })
     goes (exec (.vldb 4 2 7) s) s.spent) = true := by decide +kernel
theorem witness_vstore : some' (Claims.vstoreForm (wVec.setE 3 2 false) (.vst 3 2 7)) (fun f => let s := wVec.setE 3 2 false
    got (placeLanes .store { w := true } f.whole f.c (f.addr [splat 5]) (Claims.elements s) false s) (fun (pl, _) => decide (pl.length = 3) &&
      next (exec (.vst 3 2 7) s) (fun t => decide (t.seenBytes 0 0x20010 16 = [5, 0, 0, 0, 5, 0, 0, 0, 5, 0, 0, 0, 0, 0, 0, 0]) && decide (t.me.ctr.s = 1)))) = true := by decide +kernel
/-- v28 and v29 as in wStreams, e3 naming p2. -/
def wVStream : State := { wStreams with me := { wStreams.me with regs := (wVec.setE 3 2 false).me.regs } }
theorem witness_streamed_vectors : got (Claims.readAll wVStream [28, 1]) (fun (xs, u) => decide (lane (xs.getD 0 VReg.zero).bits 0 = 0xAB) && decide (xs.length = 2) &&
      got (u.writeV 29 (splat 5)) (fun _ => true) && got (u.writeV 4 (splat 5)) (fun _ => true)) = true ∧
    next (exec (.vadd 4 28 3 0) wVStream) (fun t => decide (lane (t.me.regs.rv 4).bits 0 = 0xB0)) = true ∧
    next (exec (.vradd 29 1 2) wVStream) (fun t => some' (t.stream? 29) (fun x => decide (x.pos = 1))) = true := by decide +kernel
/-- The read stream's capability covers nothing, and the S counter is full. -/
def wVStuck : State := (wVStream.setStream 28 (some ⟨false, w0.cap 6, [2, 1, 1], [256, 0, 0], 0, false⟩)).modCtr (fun c => { c with s := 255 })
theorem witness_streams_stop : stops ((Claims.readAll wVStuck [28]).map (fun _ => ())) (.trap 0x04 7 0) = true ∧ stops ((wVStuck.writeV 29 (splat 5)).map (fun _ => ())) .stall = true ∧
    next (exec (.vst 28 2 7) wVStuck) (fun t => decide (t.me.parkCause = 4)) = true ∧ goes (exec (.vmov 29 1 0) wVStuck) wVStuck.spent = true := by decide +kernel
theorem witness_stream_load : next (exec (.vld 29 2 7) wVStream) (fun t => some' (t.stream? 29) (fun x => decide (x.pos = 1)) && decide (t.me.ctr.l = 1)) = true ∧
    stops (wholeCheck { r := true } (w0.cap 2) (fun i => 0x20F80 + 4 * i) [0, 63]) (.trap 0x02 0x2107C (((w0.cap 2).bits.extractLsb' 64 64).setWidth 128)) = true := by
  decide +kernel
def wLands : State := wVec.modMe (fun m => { m with vloads := [⟨4, 7, (splat 9).bits, true, false, 1⟩], ctr := { m.ctr with l := 1 } })
theorem witness_vload_lands : (wLands.strand 0).vloads[0]? = some ⟨4, 7, (splat 9).bits, true, false, 1⟩ ∧ next (exec (.vectorLoadComplete 0 0 5) wLands) (fun t =>
    decide (lane (t.me.regs.rv 4).bits 0 = 9) && decide (lane (t.me.regs.rv 4).bits 1 = 0) && decide (lane (t.me.regs.rv 4).bits 2 = 9) && decide (t.me.ctr.l = 1) &&
    next (exec (.vectorLoadComplete 0 0 7) t) (fun u => decide (lane (u.me.regs.rv 4).bits 1 = 9) && decide (u.me.ctr.l = 0))) = true := by decide +kernel

/-! ## The matrix array -/

/-- Two BF16 buffers of one row of 32 columns, each 1.0 in column 0: row-major at window offset 0, column-major at 128. -/
def header (layout : Nat) : Nat := 0xFFFF0001 + 2 ^ 32 * 32 + 2 ^ 64 * 1 + 2 ^ 72 * 16 + 2 ^ 80 * layout
def wTmma : State := ((((withMem (withMem w0 0x30000 (toBytes 64 (header 1) ++ (List.range 16).flatMap (fun p => toBytes 4 (if p < 7 then 0 else if p < 14 then 1 else 0))))
    0x30080 (toBytes 64 (header 2) ++ (List.range 16).flatMap (fun p => toBytes 4 (if p < 7 then 0 else if p < 14 then 1 else 0)))).setE 0 0x00200101 false).modCsr
    (fun c => { c with fmta := 1, fmtb := 1 })).setG 10 (w0.g 3)).setG 11 (tagged ((w0.cap 3).move 0x7F0000000080))
theorem witness_tmma : Claims.wideRoom wTmma ∧ got (wTmma.sampleTmma 1 false false false 10 11 (wTmma.e 0) (wTmma.e 1) false) (fun (x, s1) => got (s1.buildTmma x) (fun (t, _) => decide (t.a.rows = 1) &&
    next (exec (.tmma 1 false false false 10 11) wTmma) (fun u => decide (u.me.ctr.t = 1) && decide ((u.core 0).tmmaCount = 1) && decide ((u.tile 0 1).owner = some u.me?)))) = true := by
  unfold Claims.wideRoom; decide +kernel
theorem witness_tmma_bad_header : let s := wTmma.setG 11 (wTmma.g 10)
    got (s.sampleTmma 1 false false false 10 11 (s.e 0) (s.e 1) false) (fun (x, s1) => stops ((s1.buildTmma x).map (fun _ => ())) (.trap 0x0A 0x7F0000000000 (BitVec.ofNat 128 (header 1)))) = true := by decide +kernel
theorem witness_tmma_waits : let s := wTmma.modTile 0 1 (fun t => { t with owner := some ⟨1, 9⟩ })
    Claims.regionOk s ∧ 0 < (s.e 0).toNat / 65536 ∧ (s.e 1).toNat < 2048 ∧ s.me.csr.sclm ≠ 3 ∧ goes (exec (.tmma 1 false false false 10 11) s) (s.spent.beginWait (.tile 1)) = true ∧
    ¬ Claims.mayName s 1 ∧ Claims.mayName s 2 := by unfold Claims.regionOk Claims.mayName; decide +kernel
theorem witness_tile_zero : Claims.mayName w0 1 ∧ Claims.wideRoom w0 ∧ ¬ Claims.wideRoom (w0.modCtr (fun c => { c with t := 255 })) ∧
    next (exec (.tzero 1) w0) (fun t => decide (t.me.ctr.t = 1) && decide ((t.tile 0 1).owner = some t.me?)) = true := by unfold Claims.mayName Claims.wideRoom; decide +kernel
/-- A region of one row of two elements. -/
def wRegion : State := wSlot.setE 0 0x0201 false
theorem witness_tile_region : Claims.regionOk wRegion ∧ ¬ Claims.regionOk w0 ∧ some' (Claims.regionForm (.tst 1 2 7)) (fun _ =>
    got (placeElems .store { w := true } (wRegion.cap 2) 4 false (Claims.regionOf wRegion 2 7 4) (Claims.named wRegion 1)) (fun (locs, _) => decide (locs.map (·.1) = [.mem 0x20000, .mem 0x20004]) &&
      next (exec (.tst 1 2 7) wRegion) (fun t => decide (t.me.ctr.t = 1)))) = true ∧ (wRegion.slotOf 2).valid = true ∧
    next (exec (.tld 1 2 7) w0) (fun t => decide (t.me.parkCause = 1)) = true ∧
    next (exec (.tstCd 1 2 7) (w0.setE 0 0x0201 false)) (fun t => decide (t.me.parkCause = 0x0D)) = true := by unfold Claims.regionOk; decide +kernel
theorem witness_tcvt : wRegion.me.csr.fmte.toNat % 4 = 1 ∧ wRegion.me.csr.fmte.toNat / 2 ^ 40 % 256 = 0 ∧
    got (capCheckAt (wRegion.cap 2) [0] { w := true } (wRegion.cap 2).addr.toNat 64 64) (fun _ =>
      got (placeElems .store { w := true } (wRegion.cap 2) 4 false (tabulate (bufferSize 2 1 1 / 4) (fun i => (wRegion.cap 2).plus ((4 * i : Nat) : Int))) (Claims.named wRegion 1))
        (fun (locs, _) => decide (locs.length = 17) && next (exec (.tcvt 1 2) wRegion) (fun t => decide (t.me.ctr.t = 1)))) = true ∧
    next (exec (.tcvt 1 2) (w0.setE 0 0x0201 false)) (fun t => decide (t.me.parkCause = 0x0D)) = true := by decide +kernel
theorem witness_shadow : let s := w0.modShadow 0 (fun h => { h with owner := some w0.me?, acc := 1 })
    s.holdsShadow 1 = true ∧ w0.holdsShadow 1 = false ∧ next (exec (.tcmt 1) s) (fun t => decide (t.p 7 = ⟨0, false⟩) && !t.holdsAny) = true ∧
    goes (exec (.tdsc 1) w0) ((w0.setP 7 (BitVec.allOnes 64) false).past 4) = true := by decide +kernel
/-- A state whose T counter is full, and one whose tile 1 another strand holds. -/
def wFull (s : State) : State := s.modCtr (fun c => { c with t := 255 })
def wHeld (s : State) : State := s.modTile 0 1 (fun t => { t with owner := some ⟨1, 9⟩ })
theorem witness_tile_stops : ¬ Claims.mayName (wHeld w0) 1 ∧ goes (exec (.tzero 1) (wHeld w0)) ((wHeld w0).spent.beginWait (.tile 1)) = true ∧
    goes (exec (.tzeroR 1) (wFull w0)) (wFull w0).spent = true ∧ goes (exec (.tld 1 2 7) (wHeld wRegion)) ((wHeld wRegion).spent.beginWait (.tile 1)) = true ∧
    goes (exec (.tst 1 2 7) (wFull wRegion)) (wFull wRegion).spent = true ∧ goes (exec (.tcvt 1 2) (wHeld wRegion)) ((wHeld wRegion).spent.beginWait (.tile 1)) = true ∧
    goes (exec (.tcvt 1 2) (wFull wRegion)) (wFull wRegion).spent = true ∧ wRegion.carriedStall 1 = false ∧
    next (exec (.tst 1 6 7) wRegion) (fun t => decide (t.me.parkCause = 4)) = true := by unfold Claims.mayName; decide +kernel
/-- A copy of the strand under DMODE that carries a multiplication on tile 1. -/
def wCarries : State := match exec (.copyt 5 9 2) wCarry with
  | .next t => { t with parts := [(0, { part0 with launches := [{ launch1 with dmode := true }] })] }
  | _ => w0
theorem witness_carried_stalls : let s := wCarries.setE 0 0x0201 false
    Claims.mayName s 1 ∧ s.carriedStall 1 = true ∧ goes (exec (.tst 1 2 7) s) s.spent = true := by unfold Claims.mayName; decide +kernel
theorem witness_tmma_stops : ¬ Claims.tmmaOk w0 ∧ Claims.tmmaOk wTmma ∧ next (exec (.tmma 1 false false false 10 11) w0) (fun t => decide (t.me.parkCause = 1)) = true ∧
    goes (exec (.tmma 1 false false false 10 11) (wFull wTmma)) (wFull wTmma).spent = true ∧
    (let s := wTmma.modShadow 0 (fun h => { h with owner := some ⟨1, 9⟩ })
     goes (exec (.tmma 1 false true false 10 11) s) (s.spent.beginWait .shadow) = true) := by unfold Claims.tmmaOk Claims.regionOk; decide +kernel
theorem witness_shadow_stalls : let s := wFull (w0.modShadow 0 (fun h => { h with owner := some w0.me?, acc := 1 }))
    s.holdsShadow 1 = true ∧ goes (exec (.tcmt 1) s) s.spent = true ∧ goes (exec (.tdsc 1) s) s.spent = true := by decide +kernel
theorem witness_table_load : got (capCheckAt (w0.cap 2) [0] { r := true } (w0.cap 2).addr.toNat 1088 64) (fun va => got (w0.readThrough va 1088) (fun (bs, _, _) => decide (bs.length = 1088) &&
    next (exec (.tbld 1 2) w0) (fun t => decide (t.p 7 = ⟨BitVec.allOnes 64, false⟩) && !(t.slotOf 1).valid))) = true := by decide +kernel
theorem witness_table_store : got (capCheckAt (w0.cap 2) [0] { w := true } (w0.cap 2).addr.toNat 1088 64) (fun va => decide ((piecesOf va 1088).length ≤ 9)) = true ∧
    next (exec (.tbst 2 2) wSlot) (fun t => decide (t.p 7 = ⟨0, false⟩) && decide (t.seenByte 0 0x20000 = 1)) = true := by decide +kernel

/-- A command of the strand waiting to be taken, and at the head of the wide engine's line. -/
def cmd (k : AccKind) : Cmd := .acc ⟨w0.me?, w0.ctx, 0, 1, k, false, 0, 0, [], none, 0, false⟩
def wTake : State := (w0.modCore 0 (fun k => { k with queue := [cmd .zero] })).modCtr (fun c => { c with t := 1 })
/-- An engine that has passed over no core's head has its turn for each (R44). -/
theorem turn_free {s : State} {u : QuadUnit} {w : Nat → Bool} {core : Nat} (h : (s.core core).passed = []) : Claims.turnOf s u w core :=
  fun y _ _ _ => by simp [h]
theorem witness_engine_take : (wTake.core 0).queue = [cmd .zero] ∧ wTake.mayRun wTake.me? = true ∧ next (exec (.engineTake 0) wTake) (fun t =>
    decide ((t.core 0).queue = []) && decide ((t.core 0).wide = [cmd .zero]) && next (exec (.accumOpComplete 0) t) (fun u => decide ((u.core 0).wide = []) && decide (u.me.ctr.t = 0))) = true := by
  decide +kernel
theorem witness_commit : let s := w0.modCore 0 (fun k => { k with wide := [cmd .commit], shadow := { k.shadow with data := [[5]] } })
    Claims.heads s 0 (cmd .commit) [] 0 ∧ next (exec (.accumOpComplete 0) s) (fun t => decide (tileGet (t.tile 0 1).data 0 0 = 5) && decide (tileGet (t.core 0).shadow.data 0 0 = 0)) = true :=
  ⟨⟨by decide +kernel, by decide +kernel, by decide +kernel, turn_free (by decide +kernel)⟩, by decide +kernel⟩
/-- The wide engine has passed over core 1 for core 0, and core 1's head still waits: core 0 has no turn (R44). -/
def wPassed : State := (wTake.modCore 1 (fun k => { k with queue := [cmd .zero] })).modCore 0 (fun k => { k with wide := [cmd .zero], queue := [], passed := [(.wide, 1)] })
theorem test_rotation : next (exec (.accumOpComplete 0) wPassed) (fun t => decide (t = wPassed)) = true := by decide +kernel
/-- The multiplication under way, its first block done. -/
def wFold : State := match execTmma 1 false false false 10 11 wTmma with
  | .next s => match execEngineTake 0 s with
    | .next t => t.modCore 0 (fun k => { k with wide := k.wide.map (fun c => match c with
        | .tmma x => .tmma { x with next := 1, x := { x.x with k := 64, j0 := 0xFFFF } }
        | y => y) })
    | _ => s
  | _ => w0
theorem witness_tmma_result : next (exec (.tmma 1 false false false 10 11) wTmma) (fun s => next (exec (.engineTake 0) s) (fun t => next (exec (.tmmaKblock 0) t) (fun u =>
    decide (tileGet (u.tile 0 1).data 0 0 = 0x3F800000) && decide ((u.core 0).wide = []) && decide (u.me.ctr.t = 0)))) = true := by decide +kernel
theorem witness_fold : (wFold.core 0).wide.all (fun c => match c with
    | .tmma t => wFold.mayRun t.x.owner && !wFold.carriedFirst t.x.owner t.x.order && decide (0 < t.next) && decide (t.x.acc < 4) && decide (coreOfSlot t.x.owner.slot = 0) && decide (t.blocks = 2)
    | _ => false) = true ∧ (wFold.core 0).wide.length = 1 := by decide +kernel
theorem witness_recheck : let s : State := { w0 with checks := [(0, ⟨0, 0, 5, false, 0, some (2000, 1, 1)⟩)] }
    Table.find? s.checks 0 = some ⟨0, 0, 5, false, 0, some (2000, 1, 1)⟩ ∧ next (exec (.recheckComplete 0) s) (fun t => decide (t.checks = []) && decide ((t.part 0).tel.length = 1) &&
      decide (Table.getD (t.part 0).counters 0x328 0 = 1)) = true ∧ next (exec (.chknWrite 0 100) w0) (fun t => decide ((t.core 0).chkn = 64)) = true := by decide +kernel

/-! ## State words, clocks, events -/

/-- Law 0: integrate the rate per tick of the logical clock, unbounded, no threshold; law 1 the same with action 1 at 8.0. -/
def lawBits (act : Nat) : Nat := 2 ^ 255 + act * 2 ^ 251 + 2 ^ 250 + 0x41000000 * 2 ^ 192 + 0x7F800000 * 2 ^ 160 + 0xFF800000 * 2 ^ 128 + 0x3FF0000000000000
/-- The word 1.0 with rate 1.0 under a law, anchored at tick 0. -/
def wordBits (law : Nat) : Nat := law * 2 ^ 112 + 0x3F800000 * 2 ^ 32 + 0x3F800000
def myCrew : CrewId := ⟨⟨0, 1⟩, 0⟩
/-- A word at 0x20000 under a law, the crew's table in the page's second half, its clock at 5, the strand's ticks sampled. -/
def wState (law : Nat) : State := { withMem (withMem w0 0x20800 (toBytes 32 (lawBits 0) ++ toBytes 32 (lawBits 1))) 0x20000 (toBytes 16 (wordBits law)) with
  crews := [(myCrew, { Crew.fresh with lawb := 0x20800, lclk := 5 })], me := { strand0 with ticks := some ⟨0, 5⟩ } }
theorem witness_srd : (wState 0).me.ticks = some ⟨0, 5⟩ ∧ (let s := (Claims.asked (wState 0)).2.1
    got (s.stateAt 4 .stateRead { r := true }) (fun (o, s1) => got (s1.readOp { o with ticks := ⟨0, 5⟩ }) (fun (w, tn, own, s2) => decide (w.v0 = 0x40C00000) &&
      goes (exec (.srd 5 4) (wState 0)) ((Claims.valueTo s2 5 w tn own).past 4)) &&
      goes (exec (.sraw 5 4 0) (wState 0)) ((s1.setG 5 ⟨(s1.rawWord o.loc).1.toBits, false, false⟩).past 4)) = true) := by decide +kernel
theorem witness_supd : let s := (Claims.asked (wState 0)).2.1
    got (s.stateAt 4 .stateOp { r := true, w := true }) (fun (o, s1) => got (s1.updateOp { o with ticks := ⟨0, 5⟩ } (Claims.eventOf s) ((s.x 9).setWidth 32) false) (fun (w, tn, own, s2) =>
      decide (w.t = 5) && goes (exec (.supd 5 4 9) (wState 0)) ((Claims.valueTo s2 5 w tn own).past 4)) &&
      got (s1.advanceOp { o with ticks := ⟨0, 5⟩ } false) (fun (w, tn, own, s2) => goes (exec (.sadv 5 4) (wState 0)) ((Claims.valueTo s2 5 w tn own).past 4))) = true := by decide +kernel
theorem witness_sset : let s := (Claims.asked (wState 0)).2.1
    got (s.stateAt 4 .stateOp { r := true, w := true }) (fun (o, s1) => got (s1.lawAt o.ctx o.lawb 0) (fun (e, s2) =>
      let r := s2.repredict { o with ticks := ⟨0, 5⟩ } e ⟨0, false, false, false, (s2.rawWord o.loc).1.a, false, 0, e.tickOf ⟨0, 5⟩, 0, 7⟩ (e.tickOf ⟨0, 5⟩)
      got (r.2.putWord { o with ticks := ⟨0, 5⟩ } r.1 (!e.tsrc)) (fun s4 => goes (exec (.sset 4 6) (wState 0)) ((s4.taintEventIf (!e.tsrc)).past 4)))) = true := by decide +kernel
theorem witness_sarm : let s := (Claims.asked (wState 1)).2.1
    got (s.stateAt 4 .stateOp { r := true, w := true }) (fun (o, s1) => decide ((s1.rawWord o.loc).1.p = false) && decide (s1.readHome o.loc 16 ≠ none) &&
      got (s1.openWord { o with ticks := ⟨0, 5⟩ }) (fun (x, s2) => decide (x.e.act = 1) &&
        (let r := ({ s2 with arming := Table.set s2.arming o.loc ⟨o.crew, o.ctx, o.va⟩ } : State).predict { o with ticks := ⟨0, 5⟩ } x.e { x.w with a := true, f := false, u := false } x.n
         got (r.2.2.putWord { o with ticks := ⟨0, 5⟩ } r.2.1 (!x.e.tsrc)) (fun s4 => goes (exec (.sarm 5 4) (wState 1)) (((s4.setG 5 ⟨r.1.bits.setWidth 128, false, false⟩).setP 7 0 false).past 4))))) = true ∧
    (let p := { wState 1 with mem := (wState 1).mem.putBytes 0x2000F [0x10] }
     next (exec (.sarm 5 4) p) (fun t => decide (t.p 7 = ⟨BitVec.allOnes 64, false⟩)) = true) := by decide +kernel
theorem witness_sdis : next (exec (.sarm 5 4) (wState 1)) (fun t => decide ((Table.getD t.calendars 0 []).map (fun x => x.tick) = [7]) &&
    next (exec (.sdis 5 4) (t.modMe (fun m => { m with ticks := some ⟨0, 5⟩ }))) (fun u => decide (Table.getD u.calendars 0 [] = []) && decide (u.x 5 = 2))) = true := by decide +kernel
theorem witness_sweep_registration : let s := (Claims.asked (wState 0)).2.1
    got (capCheckAt (s.cap 4) [5] { state := true } (s.cap 4).addr.toNat 16 16) (fun _ => decide ((s.cap 4).base % 16 = 0) && decide ((s.cap 4).top % 16 = 0) &&
      got (s.regionPlace (s.cap 4).base (s.cap 4)) (fun s1 => got (s1.regionPlace ((s.cap 4).top - 16) (s.cap 4)) (fun s2 =>
        decide ((Table.getD s2.regions s.myCluster []).length = 0) && goes (exec (.sswp 4 7) (wState 0)) ((s2.setP 7 (BitVec.allOnes 64) false).past 4)))) = true ∧
    next (exec (.sswp 4 6) (wState 0)) (fun t => decide (t.p 7 = ⟨0, false⟩) && decide ((Table.getD t.regions 0 []).length = 1) &&
      next (exec (.sswp 4 6) (t.modMe (fun m => { m with ticks := some ⟨0, 5⟩ }))) (fun u => decide (u.p 7 = ⟨BitVec.allOnes 64, false⟩)) &&
      next (exec (.sswp 4 7) (t.modMe (fun m => { m with ticks := some ⟨0, 5⟩ }))) (fun u => decide (u.p 7 = ⟨0, false⟩) && decide (Table.getD u.regions 0 [] = []))) = true := by decide +kernel
theorem witness_quiet_word : let s := (Claims.asked (wState 0)).2.1
    got (s.stateAt 4 .stateOp { r := true, w := true }) (fun (o, s1) => got (s1.openWord { o with ticks := ⟨0, 5⟩ }) (fun (x, _) =>
      !x.w.w && !x.w.a && !x.w.u && x.e.tsrc && decide (o.dg = false) && decide ((advanceWord x.e x.w x.n).2 = false) && atOrBefore x.w.t 3 && atOrBefore 3 x.n &&
      got (s1.updateOp { o with ticks := ⟨0, 5⟩ } (some 3) 0x40000000 false) (fun (w, _) => decide (w.v0 = 0x40C00000) && decide (w.t = 3)))) = true := by decide +kernel

theorem witness_vector_state : let s := wState 0
    Claims.noStreams s ∧ s.me.ctr.l < 255 ∧ got (capCheckAt (s.cap 4) [0, 5] { r := true, w := true, state := true } (s.cap 4).addr.toNat 1024 1024) (fun va => got (s.translate s.ctx .stateOp false va) (fun (t, _) =>
      decide (t.loc = .mem 0x20000) && next (exec (.vsadv 4 4) s) (fun u => decide (u.me.ctr.l = 1) && u.me.vstates.all (fun v => decide (v.ticks = ⟨0, 5⟩) && decide (v.lanes = BitVec.allOnes 64))))) = true := by
  unfold Claims.noStreams; decide +kernel
/-- A vector read of state words that its Spring unit has taken. -/
def wLanes : State := match execVsrd 4 4 (wState 0) with
  | .next s => (match execEngineTake 0 s with
    | .next t => t
    | _ => s)
  | _ => w0
theorem witness_vector_state_lands : some' ((wLanes.strand 0).vstates[0]?) (fun v => v.lanes.getLsbD 0 && v.taken && got (wLanes.serveLane v 0) (fun (w, _, _, _) => decide (w = 0x40C00000)) &&
    next (exec (.vstateLane 0 0 0) wLanes) (fun t => decide (lane (t.me.regs.rv 4).bits 0 = 0x40C00000) && decide (t.me.ctr.l = 1))) = true := by decide +kernel
/-- One of lane 0 alone into a write stream, taken by its unit: its lane lands, and its element is stored as L falls. -/
def wPush : State := match execVsrd 29 4 (({ wState 0 with me := { (wState 0).me with streams := wStreams.me.streams } }.setE 3 2 false).setP 2 1 false) with
  | .next s => (match execEngineTake 0 s with
    | .next t => t
    | _ => s)
  | _ => w0
theorem witness_vector_state_pushes : some' ((wPush.strand 0).vstates[0]?) (fun v => v.taken && v.push.isSome && got (wPush.serveLane v 0) (fun (w, _, _, _) => decide (w = 0x40C00000)) &&
    next (exec (.vstateLane 0 0 0) wPush) (fun t => decide (t.me.ctr.l = 0) && decide (t.me.ctr.s = 1) && decide (t.me.vstates = []))) = true := by decide +kernel
/-- The same with its first word in poisoned storage. -/
def wBadLane : State := { wLanes with mem := wLanes.mem.poisonUnit 0x800 }
theorem witness_vector_state_fails : some' ((wBadLane.strand 0).vstates[0]?) (fun v => stops ((wBadLane.serveLane v 0).map (fun _ => ())) (.trap 0x13 0x20000 0) && decide (v.fault = none) &&
    next (exec (.vstateLane 0 0 0) wBadLane) (fun t => decide (lane (t.me.regs.rv 4).bits 0 = lane (wBadLane.me.regs.rv 4).bits 0))) = true := by decide +kernel
theorem witness_vector_state_stops : goes (exec (.vsadv 4 4) ((wState 0).modCtr (fun c => { c with l := 255 }))) ((wState 0).modCtr (fun c => { c with l := 255 })).spent = true ∧
    (let s := ((wState 0).setE 3 2 false).setP 2 0 false
     (s.p (Claims.memMaskOf s)).bits = 0 ∧ next (exec (.vsadv 4 4) s) (fun t => decide (t.me.ctr.l = 0) && decide (t.me.vstates = [])) = true) := by decide +kernel
theorem witness_vector_state_streams : let s := { wState 0 with me := { (wState 0).me with streams := wStreams.me.streams } }
    some' (s.stream? 29) (fun x => x.write) = true ∧ got (s.reservePush 29 ⟨true, w0.cap 2, [2, 1, 1], [256, 0, 0], 0, false⟩) (fun _ =>
      next (exec (.vsrd 29 4) s) (fun t => decide (t.me.vstates.map (fun v => v.push.map (fun p => p.1.pos)) = [some 0]) && decide (t.me.ctr.l = 1) && some' (t.stream? 29) (fun x => decide (x.pos = 1)))) = true ∧
    goes (exec (.vsrd 29 4) (s.modCtr (fun c => { c with l := 255 }))) (s.modCtr (fun c => { c with l := 255 })).spent = true ∧
    (let q := (s.setE 3 2 false).setP 2 0 false
     got (q.writeV 29 VReg.zero) (fun _ => next (exec (.vsrd 29 4) q) (fun t => decide (t.me.vstates = []) && some' (t.stream? 29) (fun x => decide (x.pos = 1)))) = true) := by
  decide +kernel
theorem witness_clocks : (wState 0).me.wait = none ∧ (wState 0).me.vstates = [] ∧ ((wState 0).modCrew myCrew (fun c => { c with lclk := 7 })).clockDone myCrew 7 = true ∧
    goes (exec (.sclkw 6) (wState 0)) (((wState 0).nextSerial.2.setClock myCrew 7).past 4) = true ∧ next (exec (.sclka 5 7) (wState 0)) (fun t => decide (t.x 5 = 21)) = true ∧
    2 ^ 48 ≤ ((w0.setG 9 (data (2 ^ 48))).x 9).toNat ∧ next (exec (.sclkw 9) (w0.setG 9 (data (2 ^ 48)))) (fun t => decide (t.me.parkCause = 1)) = true := by decide +kernel
/-- A clock move that waits: behind an earlier one of slot 4, or for the firings up to tick 7. -/
def wClock (tick : Option (BitVec 48)) (es : List CalEntry) : State := { (wState 0).modMe (fun m => { m with wait := some ⟨0, .clock 9 tick, 0, false, false⟩ }) with
  calendars := [(0, es)], others := [(4, { strand4 with wait := some ⟨0, .clock 3 (some 6), 0, false, false⟩ })] }
theorem witness_clock_waits : (wClock none []).clockTurn 0 9 = false ∧ goes (exec (.sclkw 6) (wClock none [])) ((wClock none []).beginWait (.clock 9 none)) = true ∧
    (wClock (some 7) []).clockDone myCrew 7 = true ∧ goes (exec (.sclkw 6) (wClock (some 7) [])) ((wClock (some 7) []).past 4) = true ∧
    (let s := wClock (some 7) [⟨5, .mem 0x20000, 1, true, ⟨myCrew, w0.ctx, 0x20000⟩, none, false, true⟩]
     s.clockDone myCrew 7 = false ∧ goes (exec (.sclka 5 7) s) (s.spent.beginWait (.clock 9 (some 7))) = true ∧
       (2 ^ 47 ≤ ((3 : BitVec 48) - 5).toNat ∧ (s.setClock myCrew 3).calendars = s.calendars)) := by decide +kernel
theorem witness_slaw : let s := (wState 0).setG 9 (tagged ((w0.cap 2).move 0x20800))
    got (capCheckAt (s.cap 9) [0] { r := true } 0x20800 32 32) (fun va => decide ((s.crew s.myCrew).lawb.toNat ≤ va.toNat) && decide (va.toNat < (s.crew s.myCrew).lawb.toNat + 0x4000) &&
      got (s.translate s.ctx .load false va) (fun (t, s1) => some' (((s1.settleOver t.loc 32).evictAt 0 t.loc).readHome t.loc 32) (fun g => (LawEntry.ofBits (BitVec.ofNat 256 g.nat)).valid &&
        next (exec (.slaw 9) s) (fun u => decide (u.p 7 = ⟨0, false⟩))))) = true := by decide +kernel
/-- An event record of the crew. -/
def event1 : EventRec := ⟨7, 0x20000, 1, 0x41000000, 0, false, false, 0, false⟩
def wEvents : State := { w0 with crews := [(myCrew, { Crew.fresh with events := [event1] })] }
theorem witness_events : got (capCheckAt (w0.cap 2) [0] { w := true } (w0.cap 2).addr.toNat 32 32) (fun va => got (wEvents.storeAt va event1.bytes false) (fun s1 => decide (s1.me.ctr.s < 255) &&
      next (exec (.evpop 2) wEvents) (fun t => decide ((t.crew myCrew).events = []) && decide (t.p 7 = ⟨0, false⟩)))) = true ∧ (wEvents.crew wEvents.myCrew).events ≠ [] ∧
    goes (exec .evwait wEvents) (wEvents.past 4) = true ∧ (w0.crew w0.myCrew).events = [] ∧ goes (exec .evwait w0) (w0.spent.beginWait .events) = true := by decide +kernel
/-- An armed word's calendar entry, due at tick 5. -/
def calendar1 : CalEntry := ⟨5, .mem 0x20000, 1, true, ⟨myCrew, w0.ctx, 0x20000⟩, none, false, true⟩
def wCalendar : State := { withMem (wState 1) 0x2000F [2] with calendars := [(0, [calendar1])] }
theorem witness_calendar : (Table.getD wCalendar.calendars 0 [])[0]? = some calendar1 ∧ atOrBefore calendar1.tick (wCalendar.crew myCrew).lclk = true ∧
    next (exec (.calendarFire 0 0) wCalendar) (fun t => decide (t.fires = [⟨0, calendar1, 0⟩]) && (wCalendar.rawWord (.mem 0x20000)).1.a &&
      next (exec (.fireRequestServe 0) t) (fun u => decide (u.fires = []))) = true := by decide +kernel
/-- A word that reaches 8.0 at tick 7 is served there. -/
theorem witness_fires : let s := { wCalendar with crews := [(myCrew, { Crew.fresh with lawb := 0x20800, lclk := 9 })], fires := [⟨0, { calendar1 with tick := 7, sent := true }, 0⟩], calendars := [(0, [{ calendar1 with tick := 7, sent := true }])] }
    got (s.lawAt w0.ctx 0x20800 1) (fun (e, _) => decide (e.act = 1) && crossesAt e (s.rawWord (.mem 0x20000)).1 7) = true ∧ next (exec (.fireRequestServe 0) s) (fun t =>
      decide ((t.crew myCrew).events.map (fun r => (r.tick, r.v0)) = [(7, 0x41000000)]) && decide ((t.mem.byte 0x2000F) = 1) && decide (Table.getD t.calendars 0 [] = [])) = true := by decide +kernel
theorem witness_held_record : let s := { wEvents with calendars := [(0, [{ calendar1 with held := some event1 }])] }
    s.crewLive myCrew = true ∧ s.eventRoom myCrew = true ∧ next (exec (.heldFiringPost 0 0) s) (fun t => decide ((t.crew myCrew).events.length = 2) && decide (Table.getD t.calendars 0 [] = [])) = true := by
  decide +kernel
theorem witness_sweep : next (exec (.sswp 4 6) (wState 0)) (fun s => let s := { s with time := 2 ^ 40 }
    (Table.getD s.regions 0 []).any (fun r => decide (r.lastTime + 2 ^ 40 ≤ s.time.toNat)) && next (exec (.sweepPass 0) s) (fun t => some' ((Table.getD t.regions 0 []).find? (fun r => r.next.isSome)) (fun r => decide (r.next = some 0x20000)) &&
      next (exec (.sweepWord 0) t) (fun u => decide ((Table.getD u.regions 0 []).map (fun r => r.next) = [some 0x20010])))) = true := by decide +kernel

/-! ## Chains -/

def stageAt (slot : Nat) : StageState := ⟨0x10000, 0, true, false, false, .clear, slot, false⟩
def pipe0 (prod cons : Nat) (items : List Item) (closed : Bool) : Pipe := ⟨prod, cons, 2, false, 0, items, 0, false, closed, false, 0⟩
def item (n : Nat) : Item := ⟨BitVec.ofNat 2048 n, false, false⟩
/-- A chain of two stages in slots 0 and 4: pipe 0 from stage 0, pipe 1 to it. -/
def chain1 (folded : Bool) (in' : Pipe) (triggers : List (Trigger × Nat)) : Chain where
  id := 3
  desc := 0x20000
  launch := ⟨0, 1⟩
  byLaunch := false
  save := 0x20000
  ctx := w0.ctx
  flo := 1
  pol := 0
  stages := [⟨0, false, 1, 0, 0, 8, 8⟩, ⟨0, false, 2, 0, 0, 8, 16⟩]
  states := [stageAt 0, stageAt 4]
  pipes := [pipe0 0 1 [] false, in']
  folded := folded
  pinned := false
  foldable := true
  slot := 0
  running := 0
  triggers := triggers
  lowSamples := 0
  readySamples := 0
  sched := none
  homeRing := 0
  backDue := false
def stage4 : Strand := { strand4 with chain := some ⟨0, 3, 1⟩ }
/-- The strand runs stage 0, the strand of slot 4 stage 1; the items stand in the queue region of the consumer's window. -/
def wChain (folded : Bool) (in' : Pipe) (triggers : List (Trigger × Nat)) : State :=
  { withMem w0 0x30040 (in'.items.flatMap (fun x => toBytes (if in'.wide then 256 else 16) x.bits.toNat)) with
  me := { strand0 with chain := some ⟨0, 3, 0⟩ }, others := if folded then [] else [(4, stage4)], chains := [(0, [chain1 folded in' triggers])] }
theorem witness_stage : let s := wChain false (pipe0 1 0 [item 9] false) []
    Claims.stageOf s ⟨0, 3, 0⟩ (chain1 false (pipe0 1 0 [item 9] false) []) ∧ Claims.noCut s (chain1 false (pipe0 1 0 [item 9] false) []) ∧ Claims.noStreams s := by
  unfold Claims.stageOf Claims.noCut Claims.noStreams; decide +kernel
theorem witness_pipe_items : let s := wChain false (pipe0 1 0 [item 9, item 8] false) []
    next (exec (.get 5 1) s) (fun t => decide (t.me.regs = (Claims.cleared s).wg 5 (data 9)) && some' (t.findChain 0 3) (fun k => decide ((k.pipe? 1).map (·.items) = some [item 8]))) = true ∧
    next (exec (.gett 5 1) s) (fun t => decide (t.me.regs = ((Claims.cleared s).wg 5 ⟨9, false, true⟩).wp 7 ⟨0, true⟩)) = true ∧
    (chain1 false (pipe0 1 0 [] false) []).ready 0 false = true ∧ next (exec (.cPut 6 0) s) (fun t => some' (t.findChain 0 3) (fun k => decide ((k.pipe? 0).map (·.items) = some [item 7]))) = true := by
  decide +kernel
theorem witness_pipe_empty : let s := wChain false (pipe0 1 0 [] false) []
    goes (exec (.get 5 1) s) (s.spent.beginWait (.pipe 0 3 1 true)) = true ∧ next (exec (.gett 5 1) s) (fun t => decide (t.p 7 = ⟨BitVec.allOnes 64, true⟩)) = true := by decide +kernel
theorem witness_pipe_closed : let s := wChain false (pipe0 1 0 [] true) []
    next (exec (.gete 5 1) s) (fun t => decide (t.x 5 = 0x101) && decide (t.p 7 = ⟨BitVec.allOnes 64, false⟩)) = true ∧ next (exec (.get 5 1) s) (fun t => decide (t.me.parkCause = 0x0C)) = true := by
  decide +kernel
theorem witness_pipe_closed_put : let c := { chain1 false (pipe0 1 0 [] false) [] with pipes := [pipe0 0 1 [] true, pipe0 1 0 [] false] }
    let s := { wChain false (pipe0 1 0 [] false) [] with chains := [(0, [c])] }
    goes (exec (.put 6 0) s) (s.spent.takeTrap 0x0C 4 0) = true ∧ goes (exec (.putt 6 0) s) (s.spent.takeTrap 0x0C 4 0) = true := by decide +kernel
theorem witness_pipe_folded : let s := wChain true (pipe0 1 0 [] false) []
    (chain1 true (pipe0 1 0 [] false) []).canProceed 1 = true ∧ next (exec (.get 5 1) s) (fun t => decide (t.me.chain = some ⟨0, 3, 1⟩)) = true := by decide +kernel
theorem witness_no_groups_in_stage : let s := wChain true (pipe0 1 0 [] false) []
    ¬ Claims.mayGroup s ∧ Claims.foldedWithOthers s ∧ s.me.ctr.l = 0 ∧ s.me.ctr.t = 0 ∧ next (exec (.follow 7 3) s) (fun t => decide (t.me.parkCause = 0x0C)) = true ∧
    (goes (exec .exit (s.modCtr (fun c => { c with l := 1 }))) (s.modCtr (fun c => { c with l := 1 })).spent = true) := by
  refine ⟨fun h => absurd (h ⟨0, 3, 0⟩ _ rfl rfl) (by decide), ⟨_, _, rfl, by decide, by decide⟩, by decide, by decide, by decide +kernel, by decide +kernel⟩
theorem witness_pipe_full : let c := { chain1 false (pipe0 1 0 [] false) [] with pipes := [pipe0 0 1 [item 1, item 2] false, pipe0 1 0 [] false] }
    let s := { wChain false (pipe0 1 0 [] false) [] with chains := [(0, [c])] }
    c.ready 0 false = false ∧ goes (exec (.put 6 0) s) (s.spent.beginWait (.pipe 0 3 0 false)) = true ∧ next (exec (.putt 6 0) s) (fun t => decide (t.p 7 = ⟨BitVec.allOnes 64, true⟩)) = true := by decide +kernel
def pipeV (items : List Item) : Pipe := { pipe0 1 0 items false with wide := true }
theorem witness_pipe_wide : let s := wChain false (pipeV [item 9]) []
    next (exec (.vget 5 1) s) (fun t => decide (t.me.regs = (Claims.cleared s).wv 5 ⟨9, false⟩)) = true ∧ next (exec (.gete 5 1) s) (fun t => decide (t.p 7 = ⟨0, false⟩) && decide (t.g 5 = GReg.zero)) = true := by
  decide +kernel
/-- The same stage with streams on v28 and v29. -/
def wStage (q : Pipe) : State := { wChain false q [] with me := { (wChain false q []).me with streams := wStreams.me.streams } }
theorem witness_pipe_streams : next (exec (.vget 29 1) (wStage (pipeV [item 9]))) (fun t => some' (t.stream? 29) (fun x => decide (x.pos = 1))) = true ∧
    (let c := { chain1 false (pipe0 1 0 [] false) [] with pipes := [{ pipe0 0 1 [] false with wide := true }, pipe0 1 0 [] false] }
     let s := { wStage (pipe0 1 0 [] false) with chains := [(0, [c])] }
     c.ready 0 false = true ∧ next (exec (.vput 28 0) s) (fun t => some' (t.findChain 0 3) (fun k => decide (((k.pipe? 0).map (·.items.length)) = some 1))) = true) := by decide +kernel
theorem witness_chbnd : let s := w0.setG 9 (tagged (capOver 0x20000 0x1000 0xFFF))
    s.me.status = .ready ∧ (s.e 0).toNat < 3 ∧ got (capCheckAt (s.cap 2) [0] { r := true } (s.cap 2).addr.toNat 256 64) (fun va => got ((s.release 2).readVirt s.ctx va 256) (fun (bs, _, _) =>
      got (capCheckAt (s.cap 9) [0] { r := true, w := true } (s.cap 9).addr.toNat (ChainDesc.ofNat (ofBytes bs)).saveSize 4096) (fun _ =>
        next (exec (.chbnd 5 2 9) s) (fun t => decide (t.g 5 = tagged (chainCapability 0x20000)) && decide (t.p 7 = ⟨0, false⟩) && decide ((Table.getD t.chains 0 []).length = 1)) &&
        next (exec (.chbnd 5 2 9) (withMem s 0x20001 [4])) (fun t => decide (t.x 5 = 1) && decide (t.p 7 = ⟨BitVec.allOnes 64, false⟩))))) = true := by decide +kernel
theorem witness_chst : let s := (wChain false (pipe0 1 0 [] true) []).setG 9 (tagged (chainCapability 0x20000))
    got (s.chainOperand 9 [3, 6]) (fun x => decide (x.1.id = 3) && decide (x.2 = none)) = true ∧ next (exec (.chst 5 9 0) s) (fun t => decide (t.x 5 = 4 + 2 ^ 21) && (t.g 5).taint) = true ∧
    next (exec (.chwt 5 9) { s with me := { s.me with chain := none } }) (fun t => decide (t.me.status = .waiting)) = true ∧
    next (exec (.chspr 9) { s with me := { s.me with chain := none } }) (fun t => decide (t.p 7 = ⟨0, true⟩)) = true := by decide +kernel
theorem witness_chst_pipe : let s := (wChain false (pipe0 1 0 [item 1] false) []).setG 9 (tagged ((chainCapability 0x200C8).withKind 6))
    got (s.chainOperand 9 [3, 6]) (fun x => decide (x.2 = some 1)) = true ∧ next (exec (.chst 5 9 0) s) (fun t => decide (t.x 5 = 1)) = true := by decide +kernel
theorem witness_chend : let s := wChain false (pipe0 1 0 [] false) []
    Claims.stageOf s ⟨0, 3, 0⟩ (chain1 false (pipe0 1 0 [] false) []) ∧ s.myCluster = 0 ∧
    next (exec (.chend 0 0 true) s) (fun t => some' (t.findChain 0 3) (fun k => some' (k.pipe? 0) (fun q => q.closed && q.broken))) = true := by unfold Claims.stageOf; decide +kernel
theorem witness_chend_closed : let s := wChain false (pipe0 1 0 [] false) []
    let c := { chain1 false (pipe0 1 0 [] false) [] with pipes := [pipe0 0 1 [] true, pipe0 1 0 [] false] }
    let q := { s.setG 9 (tagged ((chainCapability 0x200C0).withKind 6)) with chains := [(0, [c])] }
    goes (exec (.chend 0 0 true) { s with chains := [(0, [c])] }) (({ s with chains := [(0, [c])] } : State).past 4) = true ∧
    got (q.chainOperand 9 [6]) (fun x => decide (x.1 = c) && decide (x.2 = some 0)) = true ∧ goes (exec (.chend 9 0 false) q) (q.past 4) = true := by decide +kernel
/-- The strand outside the chain, whose capability is in g9. -/
def wAsks (folded pinned : Bool) : State := { (wChain folded (pipe0 1 0 [] false) []).setG 9 (tagged (chainCapability 0x20000)) with
  me := { (w0.setG 9 (tagged (chainCapability 0x20000))).me with wait := none }, chains := [(0, [{ chain1 folded (pipe0 1 0 [] false) [] with pinned := pinned }])] }
theorem witness_chain_asks : let s := wAsks false false
    goes (exec (.chfld 9) s) ((s.addTrigger 0 3 (.request 0 true)).beginWait (.chainForm 0 3 true)) = true ∧
    next (exec (.chfld 9) (wAsks false true)) (fun t => decide (t.p 7 = ⟨BitVec.allOnes 64, true⟩)) = true ∧
    (let q := wAsks true false; goes (exec (.chspr 9) q) ((q.addTrigger 0 3 (.request 0 false)).beginWait (.chainForm 0 3 false)) = true) ∧
    next (exec (.chfld 9) (wAsks true false)) (fun t => decide (t.p 7 = ⟨0, true⟩)) = true ∧
    next (exec (.chst 5 9 8) s) (fun t => decide (t.x 5 = 0)) = true ∧ next (exec (.chst 5 9 16) s) (fun t => decide (t.cap 5 = pipeEnd (chain1 false (pipe0 1 0 [] false) []) 0)) = true ∧
    (let q := s.modMe (fun m => { m with wait := some ⟨0, .chainForm 0 3 true, 0, false, true⟩ })
     next (exec (.chspr 9) q) (fun t => decide (t.p 7 = ⟨BitVec.allOnes 64, true⟩)) = true) := by decide +kernel
theorem witness_chwt_ended : let c := { chain1 false (pipe0 1 0 [] true) [] with states := [{ stageAt 0 with ended := true }, { stageAt 4 with ended := true, killed := true }] }
    let s := { w0.setG 9 (tagged (chainCapability 0x20000)) with chains := [(0, [c])] }
    c.ended = true ∧ next (exec (.chwt 5 9) s) (fun t => decide (t.x 5 = 2) && decide (t.findChain 0 3 = none)) = true := by decide +kernel
theorem witness_cheq : w0.me.chain = none ∧ goes (exec (.cheq 5 9) w0) ((w0.setG 5 GReg.zero).past 4) = true ∧ (let s := wChain false (pipe0 1 0 [] false) []
    next (exec (.cheq 5 0) s) (fun t => decide (t.g 5 = ⟨0, false, true⟩)) = true) := by decide +kernel
/-- A fold sought of the spread chain, whose stages both wait in a pipe instruction. -/
def wCut : State := { wChain false (pipe0 1 0 [] false) [(.preempt, 0)] with
  me := { strand0 with chain := some ⟨0, 3, 0⟩, status := .waiting, wait := some ⟨0, .pipe 0 3 1 true, 0, false, false⟩ }
  others := [(4, { stage4 with status := .waiting, wait := some ⟨0, .pipe 0 3 0 true, 0, false, false⟩ })] }
theorem witness_chain_fold : some' (wCut.findChain 0 3) (fun c => some' (wCut.sought c) (fun tr => tr.fold && decide (c.live = [0, 1]) && !c.folded && !c.pinned && wCut.foldCut 0 c (c.slotOf 0))) = true ∧
    next (exec (.chainFold 0 3) wCut) (fun t => some' (t.findChain 0 3) (fun k => k.folded && decide (k.slot = 0) && decide ((t.strand 4).status = .free))) = true := by decide +kernel
/-- A spread sought of the folded chain. -/
def wSpread : State := { wChain true (pipe0 1 0 [] false) [(.back, 0)] with
  me := { strand0 with chain := some ⟨0, 3, 0⟩, status := .waiting, wait := some ⟨0, .pipe 0 3 1 true, 0, false, false⟩ } }
theorem witness_chain_spread : some' (wSpread.findChain 0 3) (fun c => some' (wSpread.sought c) (fun tr => !tr.fold && c.folded && some' (wSpread.unfoldSlots 0 c) (fun slots => decide (slots.length = 2)) && wSpread.spreadCut 0 c)) = true ∧
    next (exec (.chainSpread 0 3) wSpread) (fun t => some' (t.findChain 0 3) (fun k => !k.folded)) = true := by decide +kernel
theorem witness_chain_upkeep : let s := { wCut with time := 2000 }
    next (exec (.chainTriggerTimeout 0 3) s) (fun t => some' (t.findChain 0 3) (fun k => decide (k.triggers = []))) = true ∧
    next (exec (.chainPolicySample 0 3) wCut) (fun t => some' (t.findChain 0 3) (fun k => decide (k.lowSamples = 0))) = true ∧
    next (exec (.chainStateFree 0 3) { w0 with chains := [(0, [{ chain1 false (pipe0 1 0 [] true) [] with byLaunch := true, states := [{ stageAt 0 with ended := true }] }])] })
      (fun t => decide (t.findChain 0 3 = none)) = true := by decide +kernel

/-! ## Handles -/

/-- An entry of slice 0 in a state, its use number 1. -/
def entry1 (st : HState) : HEntry where
  state := st
  gen := 1
  slice := 0
  value := data 33
  box := none
  home := 0
  resp := none
  invk := 0
  invkLaunch := ⟨0, 1⟩
  cause := 0
  reason := 7
  user := 5
  origin := 0
  drop := false
  xdev := false
  msgs := []
def handleId : Dword := (entry1 .unbound).id 0 2
/-- Entry 2 of the partition, its handle in g9. -/
def wHandle (h : HEntry) : State := ({ w0 with parts := [(0, { part0 with entries := [(2, h)], nextSerial := 3, regs := (0x050, 4) :: part0.regs })] }).setG 9
  (tagged ⟨Cap.make 0 0 0 0 1 0xFFF handleId, true⟩)
theorem witness_handles : Claims.handleOk ((wHandle (entry1 .fulfilled)).cap 9) true ∧ (wHandle (entry1 .fulfilled)).handleView handleId = .here 0 2 (entry1 .fulfilled) ∧
    Claims.resolved (wHandle (entry1 .fulfilled)) handleId = some (data 33, false) ∧ (entry1 .unbound).unresolved = true ∧ Claims.resolved w0 handleId = some (⟨Claims.reason 6 0 0 handleId, false, false⟩, true) := by
  unfold Claims.handleOk; decide +kernel
theorem witness_handle_reads : next (exec (.await 5 9) (wHandle (entry1 .fulfilled))) (fun t => decide (t.g 5 = data 33) && decide (t.p 7 = ⟨0, false⟩)) = true ∧
    next (exec (.awaitt 5 9) (wHandle (entry1 .broken))) (fun t => decide (t.me.parkCause = 0x0B)) = true ∧ next (exec (.await 5 9) (wHandle (entry1 .unbound))) (fun t => decide (t.me.status = .waiting)) = true ∧
    next (exec (.hstat 5 9) (wHandle (entry1 .broken))) (fun t => decide (t.x 5 = 4 + 16 * 7)) = true ∧
    (let s := w0.setG 9 (tagged ⟨Cap.make 0 0 0 0 1 0xFFE handleId, true⟩)
     (s.cap 9).permR = false ∧ next (exec (.await 5 9) s) (fun t => decide (t.me.parkCause = 3)) = true) := by decide +kernel
theorem witness_handle_changes : next (exec (.hful 9 6) (wHandle (entry1 .unbound))) (fun t => decide ((Table.find? (t.part 0).entries 2).map (·.value) = some (data 7)) && decide (t.p 7 = ⟨0, false⟩)) = true ∧
    next (exec (.hbrk 9 6) (wHandle (entry1 .fulfilled))) (fun t => decide (t.p 7 = ⟨BitVec.allOnes 64, false⟩)) = true ∧ (w0.handleView handleId = .stale) ∧
    next (exec (.hdrop 9) (wHandle (entry1 .unbound))) (fun t => decide ((Table.find? (t.part 0).entries 2).map (·.drop) = some true)) = true := by decide +kernel
/-- A message of the strand's to the entry, still on its way, and a handle of another device. -/
def wOnWay : State := { wHandle (entry1 .unbound) with hmsgs := [⟨handleId, 0, (w0.strandSrc 0), 0, 0, .send (data 9), 0⟩] }
def wFar : State := { w0 with parts := [(0, { part0 with regs := (0x030, 0x100) :: part0.regs })] }.setG 9 (tagged ⟨Cap.make 0 0 0 0 1 0xFFF (handleId + 0x0100000000000000), true⟩)
theorem witness_handle_order : Claims.handleOk (wOnWay.cap 9) (wOnWay.cap 9).permW ∧ ¬ Claims.arrived wOnWay handleId ∧ goes (exec (.hful 9 6) wOnWay) wOnWay.spent = true ∧
    goes (exec (.hdrop 9) wOnWay) wOnWay.spent = true := by
  refine ⟨by unfold Claims.handleOk; decide +kernel, fun h => absurd (h _ (List.mem_singleton.2 rfl) (by decide +kernel)) (by decide +kernel), by decide +kernel, by decide +kernel⟩
/-- Where a peer holds the domain's partition set, an id of its device names an entry there (log entry 16). -/
theorem witness_remote_handle (h : Config.peerHolds 1 1 = true) : Claims.handleOk (wFar.cap 9) (wFar.cap 9).permW ∧ wFar.handleView (wFar.cap 9).addr = .remote ∧
    Claims.arrived wFar (wFar.cap 9).addr := by
  refine ⟨by unfold Claims.handleOk; decide +kernel, ?_, fun m hm => absurd hm List.not_mem_nil⟩
  have e : ((wFar.cap 9).addr.extractLsb' 56 8).toNat = 1 ∧ (((wFar.part wFar.myPart).reg 0x030).extractLsb' 8 8).toNat = 1 ∧
      ¬ 32 ≤ ((wFar.cap 9).addr.extractLsb' 48 6).toNat ∧ ((wFar.part wFar.myPart).reg 0x030).extractLsb' 8 8 ≠ 0 ∧ wFar.devId = 0 := by decide +kernel
  unfold State.handleView State.handleIn
  simp only [e.1, e.2.1, e.2.2.1, e.2.2.2.2, h]
  simpa using e.2.2.2.1
theorem witness_handle_drops : next (exec (.hful 9 6) (wHandle { entry1 .unbound with drop := true })) (fun t => decide ((Table.find? (t.part 0).entries 2).map (·.state) = some .free)) = true ∧
    next (exec (.hdrop 9) (wHandle (entry1 .fulfilled))) (fun t => decide ((Table.find? (t.part 0).entries 2).map (·.state) = some .free) && decide ((Table.find? (t.part 0).entries 2).map (·.gen) = some 2)) = true ∧
    next (exec (.hbrk 9 6) (wHandle (entry1 .unbound))) (fun t => decide ((Table.find? (t.part 0).entries 2).map (fun h => (h.state, h.reason, h.user)) = some (.broken, 7, 7))) = true ∧
    next (exec (.hful 9 6) (w0.setG 9 (tagged ⟨Cap.make 0 0 0 0 1 0xFFF handleId, true⟩))) (fun t => decide (t.p 7 = ⟨BitVec.allOnes 64, false⟩)) = true := by decide +kernel
/-- A mailbox of two slots in the data page. -/
def wBox : State := withMem (wHandle (entry1 .unbound)) 0x20000 [2]
theorem witness_hbind : got (capCheckAt (wBox.cap 2) [0] { r := true, w := true } (wBox.cap 2).addr.toNat 64 64) (fun va => got (wBox.loadAt .load va 4) (fun (g, s1) => decide (g.nat = 2) &&
    got (capCheckAt (wBox.cap 2) [0] { r := true, w := true } (wBox.cap 2).addr.toNat (64 + 32 * g.nat) 64) (fun _ => decide (s1.burden.1 < 16)) &&
    next (exec (.hbind 9 2) wBox) (fun t => decide ((Table.find? (t.part 0).entries 2).map (·.state) = some .bound)))) = true := by decide +kernel
theorem witness_sendh : (wHandle (entry1 .unbound)).handleView handleId ≠ .remote ∧ next (exec (.sendh 9 6) (wHandle (entry1 .unbound))) (fun t => decide (t.hmsgs.map (·.id) = [handleId])) = true := by decide +kernel
theorem witness_invon : let s := wHandle (entry1 .unbound)
    got s.invokeArgs (fun args => decide (args = []) && got ((TaskRec.ofGranules (s.g 8) GReg.zero GReg.zero GReg.zero none).check.mapError (fun c => .trap c 0 0)) (fun c => decide (c = s.cap 8))) = true ∧
    (s.allocate 0 false false).isSome = true ∧ next (exec (.invon 5 9 8) s) (fun t => decide (t.p 7 = ⟨0, false⟩) && (t.g 5).tag && decide (t.hmsgs.length = 1)) = true := by decide +kernel
theorem witness_no_handle_left : let s := { wHandle (entry1 .unbound) with parts := [(0, { part0 with nextSerial := 2 ^ 16 })] }
    s.allocate 0 false false = none ∧ next (exec (.invon 5 9 8) s) (fun t => decide (t.p 7 = ⟨BitVec.allOnes 64, false⟩) && decide (t.x 5 = 0)) = true := by decide +kernel
theorem witness_invat : let s := { wHandle (entry1 .unbound) with mem := w0.mem.storeCap 0x20000 (w0.cap 8).bits true false }
    let s := (s.setG 10 (tagged ((w0.cap 2).withKind 2))).setG 11 (data 1)
    placeFlaw (s.x 11) = false ∧ next (exec (.invat 5 10 11) s) (fun t => (t.g 5).tag && decide (t.p 7 = ⟨0, false⟩) && decide (t.hmsgs.length = 1)) = true := by decide +kernel
theorem witness_invoke : let s := { wHandle (entry1 .unbound) with mem := w0.mem.storeCap 0x20000 (w0.cap 8).bits true false }
    let s := s.setG 10 (tagged ((w0.cap 2).withKind 2))
    got (s.invokeService 5 10 none) (fun u => goes (exec (.invoke 5 10) s) (u.past 4) && (u.g 5).tag && decide (u.p 7 = ⟨0, false⟩) && decide (u.hmsgs.length = 1)) = true := by decide +kernel
/-- A message to the entry, and the entry bound to a mailbox with it buffered. -/
def msg1 : HMsg := ⟨handleId, 0, 0, 1, 0, .send (data 9), 0⟩
def box1 : Mailbox := ⟨0x20000, 2, w0.ctx, true, w0.me?⟩
theorem witness_handle_message : let s := { wHandle (entry1 .unbound) with hmsgs := [msg1] }
    s.msgBlocked 0 msg1 = false ∧ s.msgForHalted msg1 = false ∧ s.routed msg1 = true ∧ next (exec (.handleMessage 0) s) (fun t => decide ((Table.find? (t.part 0).entries 2).map (fun h => h.msgs.map (fun m => (m.id, m.body))) = some [(handleId, msg1.body)]) && decide (t.hmsgs = [])) = true ∧
    next (exec (.handleMessage 0) { wHandle (entry1 .fulfilled) with hmsgs := [msg1] }) (fun t => decide (Table.getD (t.part 0).counters 0x358 0 = 1)) = true := by decide +kernel
/-- A message for slice 2, of a cluster outside the partition. -/
theorem witness_route_drop : let m : HMsg := { msg1 with id := handleId + 0x0002000000000000 }
    let s := { wHandle (entry1 .unbound) with hmsgs := [m] }
    s.msgBlocked 0 m = false ∧ s.msgForHalted m = false ∧ s.routed m = false ∧ next (exec (.handleMessage 0) s) (fun t =>
      decide (Table.getD (t.part 0).counters 0x340 0 = 1) && decide (t.hmsgs = [])) = true := by decide +kernel
theorem witness_mailbox : let s := withMem (wHandle { entry1 .bound with box := some box1, msgs := [msg1] }) 0x20000 [2]
    s.boxHalted box1 = false ∧ got (s.readVirt box1.ctx (box1.addr + 8) 16) (fun (bs, _, _) => decide ((ofBytes bs % 2 ^ 64 + 2 ^ 64 - ofBytes bs / 2 ^ 64) % 2 ^ 64 < 2)) = true ∧
    next (exec (.mailboxDeliver 0 2) s) (fun t => decide (t.mem.nat 0x20040 16 = 9) && decide (t.mem.nat 0x20008 8 = 1) && decide ((Table.find? (t.part 0).entries 2).map (·.msgs) = some [])) = true := by decide +kernel
theorem witness_spill : let s := { wHandle { entry1 .bound with box := some box1 } with hmsgs := [msg1], me := { (wHandle (entry1 .bound)).me with status := .halted } }
    s.boxHalted box1 = true ∧ s.msgBlocked 0 msg1 = false ∧ next (exec (.spillCatch 0) s) (fun t => decide ((Table.getD t.spills 0 []).length = 1) && decide (t.hmsgs = []) &&
      next (exec (.spillReplay 0) { t with me := { t.me with status := .ready } }) (fun u => decide (Table.getD u.spills 0 [] = []) && decide ((Table.find? (u.part 0).entries 2).map (fun h => h.msgs.map (fun m => (m.id, m.body))) = some [(handleId, msg1.body)]))) = true := by
  decide +kernel
theorem witness_link_timeout : (entry1 .unbound).unresolved = true ∧ next (exec (.handleLinkTimeout 0 2) (wHandle { entry1 .unbound with xdev := true })) (fun t =>
    decide ((Table.find? (t.part 0).entries 2).map (fun h => (h.state, h.reason)) = some (.broken, 8))) = true := by decide +kernel

/-! ## Control registers, traps, privileged instructions -/

/-- The same strand without SYS. -/
def user0 : State := { w0 with me := { strand0 with pcc := capOver 0x10000 0x1000 0x7FF } }
theorem witness_csrr : Claims.shows w0 0x66 = some 1024 ∧ goes (exec (.csrr 5 0x66) w0) ((w0.setG 5 (data 1024)).past 4) = true ∧
    some' (Claims.showsSys w0 0x4004) (fun g => decide (g = data (2 ^ 32)) && goes (exec (.csrr 5 0x4004) w0) ((w0.setG 5 g).past 4)) = true ∧ w0.sysMode = true ∧ user0.sysMode = false ∧
    next (exec (.csrr 5 0x4000) user0) (fun t => decide (t.me.parkCause = 3)) = true ∧ Claims.shows w0 0x17 = none ∧ Claims.showsSys w0 0x17 = none ∧
    next (exec (.csrr 5 0x17) w0) (fun t => decide (t.me.parkCause = 1)) = true := by decide +kernel
theorem witness_csrw : some' (Claims.takes w0.me.csr 0x13 (w0.x 6)) (fun c => decide (c.scla = 4) && goes (exec (.csrw 6 0x13) w0) ((w0.modCsr (fun _ => c)).past 4)) = true ∧
    some' (Claims.takesSys w0.me.csr 0x4000 (w0.x 6)) (fun c => decide (c.asid = 7) && goes (exec (.csrw 6 0x4000) w0) ((w0.modCsr (fun _ => c)).past 4)) = true ∧
    next (exec (.csrw 6 0x16) w0) (fun t => decide ((t.core 0).chkn = 4)) = true ∧ next (exec (.csrw 6 0x32) w0) (fun t => decide ((t.crew myCrew).stick = 7)) = true ∧
    Claims.takes w0.me.csr 0x30 (w0.x 6) = none ∧ Claims.takesSys w0.me.csr 0x30 (w0.x 6) = none ∧ next (exec (.csrw 6 0x30) w0) (fun t => decide (t.me.parkCause = 1)) = true := by decide +kernel

theorem witness_eret : w0.me.csr.tepc.getLsbD 0 = false ∧ next (exec .eret (w0.modCsr (fun c => { c with tepc := 0x10100, inh := true }))) (fun t => decide (t.pc = 0x10100) && !t.me.csr.inh && t.me.resumed) = true ∧
    (w0.modCsr (fun c => { c with tepc := 1 })).me.csr.tepc.getLsbD 0 = true ∧ next (exec .eret (w0.modCsr (fun c => { c with tepc := 1, inh := true }))) (fun t => decide (t.me.parkCause = 8) && t.me.csr.inh) = true := by
  decide +kernel
theorem witness_trap_entry : let s := w0.modCsr (fun c => { c with trapv := 1 + 2 * 0x8100 })
    w0.me.follow = none ∧ s.me.csr.trapv.getLsbD 0 = true ∧ next (exec (.trap 0x04) s) (fun t => decide (t.pc = 0x10200) && decide (t.me.csr.tcause = 4) && decide (t.me.csr.tepc = 0x10000) && t.me.csr.inh &&
      decide (t.me.status = .ready) && next (exec (.trap 0x04) t) (fun u => decide (u.me.status = .parked) && decide (u.me.parkCause = 4))) = true := by decide +kernel
theorem witness_ecall : w0.sysMode = true ∧ next (exec .ecall w0) (fun t => decide (t.me.status = .parked) && decide (t.pc = 0x10004) && decide (t.sys.faults.length = 1)) = true ∧ (user0.part user0.myPart).state ≠ 0 ∧
    next (exec .ecall user0) (fun t => decide ((t.part 0).faults.map (fun r => r.1.cause) = [0]) && decide (t.sys.faults = [])) = true := by decide +kernel
/-- Slot 1 PARKED. -/
def wParked : State := ({ w0 with others := [(1, { strand4 with status := .parked })] }).setG 9 (data 1)
theorem witness_sret : (wParked.strand 1).status = .parked ∧ (wParked.strand 1).launch.part = wParked.myPart ∧ next (exec (.sret 5 9) wParked) (fun t => decide ((t.strand 1).status = .ready) && decide (t.p 7 = ⟨0, false⟩)) = true ∧
    (let s := wParked.setG 9 (data (2 ^ 63 + 1))
     BitVec.getLsbD (s.x 9) 63 = true ∧ (s.strand 1).chain = none ∧ next (exec (.sret 5 9) s) (fun t => decide ((t.strand 1).status = .free)) = true) ∧
    next (exec (.sret 5 6) wParked) (fun t => decide (t.p 7 = ⟨BitVec.allOnes 64, false⟩)) = true ∧ next (exec (.sret 5 9) user0) (fun t => decide (t.me.parkCause = 3)) = true := by decide +kernel
/-- The record of slot 1 is still on the chip. -/
theorem witness_sret_early : let s := wParked.modPart 0 (fun p => { p with faults := [(⟨0, 0x10000, 0, 0, 0, 0, 2, (w0.strandSrc 1), true⟩, 0)] })
    (s.strand 1).status = .parked ∧ s.recordWaits 1 = true ∧ wParked.recordWaits 1 = false ∧ goes (exec (.sret 5 9) s) s.spent = true := by decide +kernel

def wRange : State := ((w0.setG 9 (data 0x20000)).setG 10 (data 0x1000)).setE 0 5 false
theorem witness_invalidate : (wRange.x 9).toNat % 4096 = 0 ∧ (wRange.x 10).toNat % 4096 = 0 ∧ (wRange.x 10).toNat ≠ 0 ∧ Claims.spaceOk wRange ∧ ¬ Claims.spaceOk (wRange.setE 0 0x40000 false) ∧ wRange.me.wait = none ∧ wRange.me.ctr.inval < 8 ∧
    goes (exec (.tlbir 9 10) wRange) ((Claims.inval wRange 0x20000 0x21000 false).beginWait .inval) = true ∧
    goes (exec (.tlbira 9 10) wRange) (((Claims.inval wRange 0x20000 0x21000 true).modCtr (fun c => { c with inval := c.inval + 1 })).past 4) = true := by unfold Claims.spaceOk; decide +kernel
theorem witness_invalidate_limits : let s := wRange.modCtr (fun c => { c with inval := 8 })
    8 ≤ s.me.ctr.inval ∧ goes (exec (.tlbira 9 10) s) s.spent = true ∧ goes (exec .tlbia s) s.spent = true ∧ goes (exec .tlbw s) (s.spent.beginWait .invalAll) = true ∧ goes (exec .tlbw w0) ((w0.acquire 4).past 4) = true ∧
    next (exec (.tlbir 6 10) wRange) (fun t => decide (t.me.parkCause = 1)) = true ∧ next (exec .tlbia (wRange.setE 0 0x40000 false)) (fun t => decide (t.me.parkCause = 1)) = true ∧
    (let d := { wRange with me := { wRange.me with wait := some ⟨0, .inval, 0, true, false⟩ } }
     goes (exec (.tlbir 9 10) d) ((d.acquire 4).past 4) = true) ∧
    (let d := { wRange with me := { wRange.me with wait := some ⟨0, .inval, 0, false, false⟩ } }
     goes (exec (.tlbir 9 10) d) (d.spent.beginWait .inval) = true) := by decide +kernel
/-- A request to invalidate the data page. -/
def inval1 : Inval := ⟨⟨0, 1⟩, 0, some 0, false, 0x20000, 0x21000, true⟩
theorem witness_acknowledge : let s := { w0 with invals := [inval1] }
    s.invals[0]? = some inval1 ∧ s.invalBusy inval1 = false ∧ (s.core 0).tlb.any inval1.drops = true ∧ next (exec (.tlbInvalidateAck 0) s) (fun t => !(t.core 0).tlb.any inval1.drops && decide ((t.core 0).tlb.length = 2)) = true := by
  decide +kernel
/-- An entry with M over the frame 0x20000 stored at 0x20800, which g9 addresses; g10 the new frame. -/
def wMigr : State := (((withMem w0 0x20800 (toBytes 8 0x2009F)).setG 9 (tagged ((w0.cap 2).move 0x20800))).setG 10 (data 0x40000))
theorem witness_migr : wMigr.me.wait = none ∧ got (wMigr.translate wMigr.ctx .load false 0x20800) (fun (_, s1) => got (s1.translate wMigr.ctx .store false 0x20800) (fun (tr, s2) =>
      let s3 := ((s2.settleOver tr.loc 8).release 4).evictAt 0 tr.loc
      some' (s3.readHome tr.loc 8) (fun g => Pte.m (BitVec.ofNat 64 g.nat) && decide (0x40000 % 2 ^ (s3.leafAtEntry tr.loc (BitVec.ofNat 64 g.nat)).1 = 0) && s3.layerPresent 0 0x40000 &&
        next (exec (.migr 9 10) wMigr) (fun t => decide (t.migrations.length = 1) && decide (t.me.status = .waiting))))) = true ∧
    next (exec (.migr 9 6) (withMem wMigr 0x20800 [0x1F])) (fun t => decide (t.p 7 = ⟨BitVec.allOnes 64, false⟩)) = true := by decide +kernel
/-- The same with its wait: hit, or ended without the copy. -/
def wMigrating (hit ended : Bool) : State := { wMigr with me := { wMigr.me with wait := some ⟨0, .migrate, 0, hit, ended⟩ } }
theorem witness_migr_ends : goes (exec (.migr 9 10) (wMigrating true false)) ((((wMigrating true false).acquire 4).setP 7 0 false).past 4) = true ∧
    goes (exec (.migr 9 10) (wMigrating false true)) (((wMigrating false true).setP 7 (BitVec.allOnes 64) false).past 4) = true ∧
    goes (exec (.migr 9 10) (wMigrating false false)) ((wMigrating false false).spent.beginWait .migrate) = true := by decide +kernel
def migr1 : Migration := ⟨⟨0, 1⟩, 0, 0, .mem 0x20800, 0x20000, 0x40000, 64, 0x20000, 0x20040⟩
theorem witness_migration_commit : let s := { withMem wMigr 0x20000 [5] with migrations := [migr1] }
    s.mem.wf = true ∧ s.mem.anyPoison 0x20000 64 = false ∧ s.mem.anyPoison 0x40000 64 = false ∧ s.layerPresent 0 0x40000 = true ∧ next (exec (.migrationCommit 0) s) (fun t => decide (t.mem.byte 0x40000 = 5) && decide (t.invals.length = 1)) = true := by decide +kernel
theorem witness_pins : let s := w0.setG 9 (data 0x7F0000000000)
    inScratchRange (s.x 9).toNat = true ∧ inScratchRange (w0.x 6).toNat = false ∧ got (s.translate s.ctx .load false (s.x 9)) (fun (tr, _) => decide (tr.loc = .scratch 0 0 0x30000 0)) = true ∧
    next (exec (.pins 9) s) (fun t => (t.core 0).pages.all (·.explicit) && decide ((t.core 0).pages.length = 1) && next (exec (.unpn 9) t) (fun u => !(u.core 0).pages.any (fun p => p.explicit || p.pinned))) = true ∧
    next (exec (.pins 6) w0) (fun t => decide (t.p 7 = ⟨BitVec.allOnes 64, false⟩)) = true := by decide +kernel
/-- Each of the window's 64 slots holds a page that PINS has pinned. -/
def wPinned : State := w0.modCore 0 (fun k => { k with pages := (List.range 64).map (fun i => ⟨1, i, 0x30000, Memory.empty, 0, 0, 0, false, true, false, 12⟩) })
theorem witness_pins_stall : let s := wPinned.setG 9 (data 0x7F0000000000)
    stops (s.translate s.ctx .load false (s.x 9)) .stall = true ∧ goes (exec (.pins 9) s) ((s.setP 7 (BitVec.allOnes 64) false).past 4) = true ∧
    goes (exec (.unpn 6) w0) (w0.past 4) = true := by decide +kernel
/-- Tables for the page at 0x30000 of the space rooted at 0x50000. -/
def wWalk : State := { withMem (withMem (withMem (withMem w0 0x50000 (toBytes 8 0x51001)) 0x51000 (toBytes 8 0x52001)) 0x52000 (toBytes 8 0x53001)) 0x53180 (toBytes 8 0x6001F) with
  me := { strand0 with csr := { Csr.fresh with ptbr := 0x50 } } }
theorem witness_walk : got ((wWalk.leaf (wWalk.ctxOf 0) 0x30000).mapError (fun _ => .stall)) (fun (n, pte, s1) => decide (n = 12) && decide (pte = 0x6001F) && goes (exec (.pageWalk 0 0x30000) wWalk) s1) = true := by decide +kernel
theorem witness_page_events : w0.me.status = .ready ∧ w0.me.exiting = false ∧ got (w0.translate (w0.ctxOf 0) .load false 0x7F0000000000) (fun (_, s1) => goes (exec (.pageFill 0 0) w0) s1 && decide ((s1.core 0).pages.length = 1)) = true := by
  decide +kernel
theorem witness_page_drain : next (exec (.st 7 3 0 0) w0) (fun s => let s := s.modCore 0 (fun k => { k with pages := k.pages.map (fun p => { p with pinned := false }) })
    ((s.core 0).pages.find? (fun p => p.page == 0 && !p.pinned && !p.explicit && p.dirty != 0)).isSome && next (exec (.pageDrain 0 0) s) (fun t => decide (t.mem.byte 0x30000 = 16))) = true := by decide +kernel
theorem witness_rows : w0.sys.layers.getLsbD 0 = true ∧ w0.devId = 0 ∧ (Table.getD w0.rows (bankKey 0x20000) []) = [] ∧ (openWay []).2 = none ∧
    next (exec (.rowCacheFill 0x800 true) w0) (fun t => t.mem.poisonAt 0x2000) = true ∧ next (exec (.rowCacheFill 0x800 false) w0) (fun t => decide (t.mem = w0.mem)) = true := by decide +kernel
theorem witness_memory_events : next (exec (.l1Evict 0 0x400) wLine) (fun t => decide (t.mem.nat 0x20000 4 = 0x04039901) && decide ((t.core 0).lines = [])) = true ∧
    (let s := w0.modCore 0 (fun k => { k with tlb := ⟨0, 0x20000, 12, 0x2009F⟩ :: k.tlb })
     next (exec (.stalledWriteRetry 0) s) (fun t => decide ((t.core 0).tlb = leaves)) = true) := by decide +kernel

theorem witness_preq : some' (w0.launchAt 0) (fun l => decide (l.id = ⟨0, 1⟩)) = true ∧ w0.launchAt 7 = none ∧ next (exec (.preq 6 9) w0) (fun t => decide (t.p 7 = ⟨BitVec.allOnes 64, false⟩)) = true ∧
    next (exec (.preq 9 9) w0) (fun t => decide (t.me.status = .waiting) && some' (t.placed? ⟨⟨0, 1⟩, 0⟩) (fun c => c.halting.isSome)) = true ∧
    (let s := { w0 with me := { strand0 with wait := some ⟨0, .preempt ⟨0, 1⟩ true, 0, true, false⟩ } }
     goes (exec (.preq 9 9) s) ((s.setP 7 0 false).past 4) = true) ∧
    (let s := { w0 with me := { strand0 with wait := some ⟨0, .preempt ⟨0, 1⟩ true, 0, false, false⟩ } }
     goes (exec (.preq 9 9) s) (s.spent.beginWait (.preempt ⟨0, 1⟩ true)) = true) := by decide +kernel
/-- Slot 1 HALTED, the save area in g10. -/
def wHalted : State := ({ w0 with others := [(1, { strand4 with status := .halted })] }.modPart 0 (fun p => { p with launches := [{ launch1 with crews := [⟨0, 0, 0, none, true, false, false, false, [], []⟩] }] })).setG 9 (data 1)
/-- To resume it: its section stands loaded or it does not. -/
theorem witness_preq_resume : let s := wHalted.modCrew myCrew (fun c => { c with loaded := true })
    BitVec.getLsbD (s.x 9) 0 = true ∧ s.sectionAway myCrew = false ∧ next (exec (.preq 0 9) { s with parts := [] }) (fun t => decide (t.p 7 = ⟨BitVec.allOnes 64, false⟩)) = true ∧
    next (exec (.preq 0 9) s) (fun t => decide (t.me.status = .waiting) && some' (t.placed? myCrew) (·.resuming)) = true ∧
    (let u := s.modCrew myCrew (fun c => { c with loaded := false })
     u.sectionAway myCrew = true ∧ next (exec (.preq 0 9) u) (fun t => decide (t.p 7 = ⟨BitVec.allOnes 64, false⟩)) = true) := by decide +kernel
theorem witness_savable : wHalted.savable 1 = true ∧ w0.savable 7 = false ∧ next (exec (.sctx 2 6) w0) (fun t => decide (t.p 7 = ⟨BitVec.allOnes 64, false⟩)) = true ∧
    (w0.strand 0).status ≠ .free ∧ next (exec (.lctx 2 9) w0) (fun t => decide (t.p 7 = ⟨BitVec.allOnes 64, false⟩)) = true := by decide +kernel
theorem witness_telw : got (capCheckAt (w0.cap 2) [0] { r := true } (w0.cap 2).addr.toNat 32 1) (fun va => got (w0.readThrough va 32) (fun (_, _, u) => !u.telFull 0 &&
    next (exec (.telw 2) w0) (fun t => decide ((t.part 0).tel.length = 1) && decide (t.p 7 = ⟨0, false⟩)))) = true ∧
    (let s := withMem w0 (w0.telSlot 0 0 + 33) [1]
     got (s.readThrough 0x20000 32) (fun (_, _, u) => u.telFull 0) = true ∧ next (exec (.telw 2) s) (fun t => decide (t.p 7 = ⟨BitVec.allOnes 64, false⟩)) = true) := by decide +kernel
/-- A save area of 1 MiB in g10. -/
def wSave : State := (wHalted.modCore 0 (fun k => { k with tlb := ⟨0, 0x200000, 21, 0x20015F⟩ :: k.tlb })).setG 10 (tagged (capOver 0x200000 0x100000 0xFFF))
theorem witness_context : got (capCheckAt (wSave.cap 10) [0] { w := true } (wSave.cap 10).addr.toNat (wSave.ctxImage 1 0).size 4096) (fun va => decide (va = 0x200000) &&
    got (wSave.draw.2.storeParts va (wSave.ctxImage 1 0).parts) (fun _ => true)) = true := by decide +kernel
/-- The head of an image for slot 1, with no section, at 0x200000. -/
def wImage : State := withMem { wSave with others := [] } 0x200000 (toBytes 16 (0x5343 + 2 ^ 20 + 2 ^ 64 * 0x3000))
theorem witness_load_context : (wImage.strand 1).status = .free ∧ got (capCheckAt (wImage.cap 10) [0] { r := true } (wImage.cap 10).addr.toNat 0x3000 4096) (fun va => got (wImage.readThrough va 0x3000) (fun (low, _, u) =>
      let h := CtxHead.ofNat (ofBytes (low.take 64))
      decide (h.bits % 2 ^ 16 = 0x5343) && decide (h.bits / 2 ^ 20 % 2 ^ 13 = 1) && !wImage.ctxHeld 0 h &&
      got (capCheckAt (wImage.cap 10) [0] { r := true } (wImage.cap 10).addr.toNat h.at3 4096) (fun q => decide (q = va) && got (u.readImage va h) (fun _ => true)))) = true ∧
    next (exec (.lctx 10 9) (withMem wImage 0x200000 [0])) (fun t => decide (t.p 7 = ⟨BitVec.allOnes 64, false⟩)) = true := by decide +kernel

/-! ## Events of strands, tasks, reductions, copies, gathers, pre-emption -/

/-- Slot 0 WAITING for something since the beginning, at a TIME. -/
def wWaits (on : WaitOn) (time : Dword) : State := { w0 with time := time, me := { strand0 with status := .waiting, wait := some ⟨0, on, 0, false, false⟩ } }
def isWoken (o : Out) : Bool := next o (fun t => decide (t.me.status = .ready) && some' t.me.wait (fun w => w.hit || w.expired))
theorem witness_wakes : (wWaits (.counters 0 0 0 0) 0).waitHolds 0 ⟨0, .counters 0 0 0 0, 0, false, false⟩ = true ∧ isWoken (exec (.wake 0) (wWaits (.counters 0 0 0 0) 0)) = true ∧
    (wWaits (.sleep 50) 0).waitHolds 0 ⟨0, .sleep 50, 0, false, false⟩ = false ∧ goes (exec (.wake 0) (wWaits (.sleep 50) 0)) (wWaits (.sleep 50) 0) = true ∧
    goes (exec (.sleepExpiry 0) (wWaits (.sleep 50) 49)) (wWaits (.sleep 50) 49) = true ∧ isWoken (exec (.sleepExpiry 0) (wWaits (.sleep 50) 50)) = true ∧
    isWoken (exec (.waitaTimeout 0) (wWaits (.word (.mem 0) 4 0 1 false 1) 1024)) = true ∧ isWoken (exec (.waitaTimeout 0) (wWaits (.word (.mem 0) 4 0 1 false 1) 1023)) = false ∧
    isWoken (exec (.waitaTimeout 0) (wWaits (.word (.mem 0) 4 0 1 false 0) 1024)) = false ∧ isWoken (exec (.rjoinTimeout 0) (wWaits (.join 3 true) 5)) = true := by decide +kernel
theorem witness_illegal : next (exec (.illegalInstruction 0xFFFF0003 false) w0) (fun t => decide (t.me.status = .parked) && decide (t.me.parkCause = 1)) = true := by decide +kernel
/-- Slot 4 follows at one hop with n instructions on the ring. -/
def wLag (n : Nat) : State := { withFollow w0 (leads 3) with others := [(4, { strand4 with follow := some ⟨3, 0, 1, 2, true, false, List.replicate n (.insn 0x10000 0x61 4 0x10004 false), false⟩ })] }
theorem witness_followers : next (exec (.followerLagDetach 4) (wLag 16)) (fun t => some' (t.strand 4).follow (fun f => !f.attached && decide (f.stream = []))) = true ∧
    goes (exec (.followerLagDetach 4) (wLag 15)) (wLag 15) = true ∧ next (exec (.followerIssue 4) (wLag 1)) (fun t => decide (t.agenda = [⟨0, .issue 4⟩])) = true := by decide +kernel
theorem witness_retires : let s := w0.modMe (fun m => { m with exiting := true })
    s.me.status = .ready ∧ s.me.ctr.l = 0 ∧ next (exec (.strandRetire 0) s) (fun t => decide (t.me.status = .free)) = true ∧
    (let u := s.modCtr (fun c => { c with t := 1 })
     goes (exec (.strandRetire 0) u) u = true) := by decide +kernel

/-- A task record for the code page with the data page as its frame; and one that has no code. -/
def rec1 : TaskRec := TaskRec.ofGranules (tagged (capOver 0x10000 0x1000 0xFFF)) (tagged (capOver 0x20000 0x1000 0xFFF)) (data (5 + 2 ^ 96 * 9)) GReg.zero (some ⟨0, 1⟩)
def rec2 : TaskRec := TaskRec.ofGranules GReg.zero GReg.zero GReg.zero GReg.zero (some ⟨0, 1⟩)
def wRing (r : List TaskRec) : State := r.foldl (fun (s : State) x => (s.pushRing 0 x).getD s) w0
theorem witness_dispatch : (wRing [rec1]).noDispatch 1 = false ∧ (wRing [rec1]).claimed 0 1 = false ∧ (wRing [rec1]).partOfCluster 0 = some 0 ∧ got (rec1.check.mapError (fun _ => .stall)) (fun c =>
      decide (c = rec1.code) && next (exec (.dispatch 1) (wRing [rec1])) (fun t => decide ((t.strand 1).status = .ready) && decide ((t.strand 1).pcc = c) && decide ((t.core 0).ring = []) &&
        decide ((t.strand 1).regs.rg 4 = data (5 + 2 ^ 64 * 9)))) = true ∧
    got (rec2.check.mapError (fun _ => .stall)) (fun _ => true) = false ∧ next (exec (.dispatch 1) (wRing [rec2])) (fun t => decide ((t.strand 1).status = .free) && decide ((t.part 0).faults.length = 1)) = true ∧
    goes (exec (.dispatch 0) (wRing [rec1])) (wRing [rec1]) = true := by decide +kernel
theorem witness_held_push : let s := w0.modPart 0 (fun p => { p with heldRecs := [(2, [rec1])], regs := (0x048, 4) :: p.regs })
    next (exec (.heldRecordPush 0 2) s) (fun t => decide ((t.part 0).segments.getD 2 [] = [rec1]) && decide ((t.part 0).heldRecs.getD 2 [] = [])) = true ∧
    (let u := s.modPart 0 (fun p => { p with segments := [(2, List.replicate 16 rec2)] })
     goes (exec (.heldRecordPush 0 2) u) u = true) := by decide +kernel
theorem witness_balance : next (exec (.balanceRound 0) (wRing (List.replicate 8 rec1))) (fun t => decide (t = wRing (List.replicate 8 rec1)) || decide ((t.core 0).ring.length = 8)) = true ∧
    next (exec (.balanceRound 0) (wRing (List.replicate 20 rec1))) (fun t => decide ((t.core 0).ring.length < 20) && decide (t.me = w0.me) && decide (((List.range 32).map (fun p => (t.core p).ring.length)).sum = 20)) = true := by decide +kernel

/-- Adding 5 to the doubleword at 0x20000, for the strand of slot 0. -/
def red5 : RedReq := ⟨w0.me?, [], 0, 0, w0.ctx, 0x20000, .mem 0x20000, .add, 8, false, 4, 5, false, 1⟩
theorem witness_reductions : next (exec (.storeComplete 0) (w0.modCtr (fun c => { c with s := 2 }))) (fun t => decide (t.me.ctr.s = 1)) = true ∧ goes (exec (.storeComplete 0) w0) w0 = true ∧
    (let s := w0.modCore 0 (fun k => { k with combine := [red5] })
     s.mustFlush red5 = false ∧ goes (exec (.combiningFlush 0) s) s = true ∧ (s.modMe (fun m => { m with exiting := true })).mustFlush red5 = true ∧
     next (exec (.combiningFlush 0) (s.modMe (fun m => { m with exiting := true }))) (fun t => decide (t.reds = [red5]) && decide ((t.core 0).combine = [])) = true) ∧
    (let s := withMem { w0 with reds := [red5, red5] } 0x20000 [250]
     goes (exec (.homeRequest 1) s) s = true ∧ s.mem.wf = true ∧ (s.evictAt 0 red5.loc).homeFault 0 red5.loc 8 = none ∧ next (exec (.homeRequest 0) s) (fun t => decide (t.mem.nat 0x20000 8 = 255) && decide (t.reds = [red5])) = true ∧
     s.homeRouted red5 = true ∧ next (exec (.routerMerge 0 1) s) (fun t => decide (t.reds.map (fun r => (r.operand, r.count)) = [(10, 2)]) && decide (∀ x ∈ s.reds, x.matches' red5 = true)) = true) ∧
    next (exec (.orphanReduction 0) { w0 with orphans := [(red5, 0x06)] }) (fun t => decide (t.orphans = []) && decide ((t.part 0).faults.map (fun f => (f.1.cause, f.1.addr)) = [(0x14, 0x20000)])) = true := by decide +kernel

/-- The copy of wCopy in its engine: 64 bytes from the second half of the page to the first. -/
def wCopying : State := match exec (.copy 5 2 9) wCopy with
  | .next s => s.modCore 0 (fun k => { k with queue := [], copies := k.queue.filterMap (fun c => match c with
      | .copy c => some { c with total := 64 }
      | _ => none) })
  | _ => wCopy
theorem witness_copy_lands : some' (wCopying.core 0).copies[0]? (fun c => decide (c.error = none) && decide (c.broken = none) && wCopying.mayRun c.owner && decide (c.pos < c.total) &&
    got (wCopying.copyUnit c) (fun (u, c1) => decide (c.pos < c1.pos) && goes (exec (.copyUnitLand 0 0) wCopying) (u.setCopy 0 0 c1))) = true := by decide +kernel
def wCopied : State := wCopying.modCore 0 (fun k => { k with copies := k.copies.map (fun c => { c with pos := 64 }) })
theorem witness_copy_ends : some' (wCopied.core 0).copies[0]? (fun c => wCopied.channelHead 0 c && decide (c.total ≤ c.pos) && decide (c.chan < 8) && !wCopied.spilled c.sender && !c.acted && got (wCopied.finalAct c) (fun _ =>
      next (exec (.copyComplete 0 0) wCopied) (fun t => decide ((t.core 0).copies = []) && decide ((t.channel 0 c.chan).done = 1) && decide (t.me.ctr.c = 0)))) = true := by decide +kernel
/-- The same where its source page is not mapped. -/
def wFailing : State := wCopying.modCore 0 (fun k => { k with tlb := k.tlb.filter (fun e => e.va != 0x20000) })
theorem witness_copy_fails : some' (wFailing.core 0).copies[0]? (fun c => some' (wFailing.copyFault 0 c) (fun (cause, a, _) => wFailing.mayRun c.owner && decide (c.tmma = none) &&
      next (exec (.copyError 0 0 cause a) wFailing) (fun t => decide (t.channel 0 c.chan = (wFailing.channel 0 c.chan).record c.id cause a) && decide ((t.part 0).faults = [])))) = true := by decide +kernel
/-- The gather of wGather in its engine. -/
def wGathering : State := match exec (.gath 2 9 9) wGather with
  | .next s => s.modCore 0 (fun k => { k with queue := [], gathers := k.queue.filterMap (fun c => match c with
      | .gather g => some g
      | _ => none) })
  | _ => wGather
theorem witness_gather_elements : some' (wGathering.core 0).gathers[0]? (fun g => decide (1 ∈ g.todo) && decide (9 ∉ g.todo) && wGathering.mayRun g.owner && !wGathering.statusAway g && got (wGathering.serve g 1) (fun (g1, u) =>
      let g2 := { g1 with todo := g.todo.filter (· != 1), done := g1.done + 1 }
      goes (exec (.gatherElement 0 0 1) wGathering) (((u.markElement g2 1).writeStatus g2).setGather 0 0 g2)) && goes (exec (.gatherElement 0 0 9) wGathering) wGathering && goes (exec (.gatherComplete 0 0) wGathering) wGathering) = true ∧
    (let s := wGathering.modCore 0 (fun k => { k with gathers := k.gathers.map (fun g => { g with todo := [] }) })
     next (exec (.gatherComplete 0 0) s) (fun t => decide ((t.core 0).gathers = []) && decide (t.me.ctr.c = 0)) = true) ∧
    (let s := wGathering.modCore 0 (fun k => { k with tlb := k.tlb.filter (fun e => e.va != 0x20000) })
     some' (s.core 0).gathers[0]? (fun g => stops (s.serve g 1) (.trap 0x06 0x20000 0) || !got (s.serve g 1) (fun _ => true)) = true ∧ next (exec (.gatherElement 0 0 1) s) (fun t => ((t.core 0).gathers.map (·.failed)) == [[1]]) = true) := by
  decide +kernel

/-- A gather whose status area lies in the window of a halted context waits. -/
theorem witness_gather_waits : let s := wGathering.modStrand 1 (fun m => { m with status := .halted, csr := { m.csr with asid := wGathering.ctx.asid } })
    some' (s.core 0).gathers[0]? (fun g => s.mayRun g.owner && s.statusAway g && goes (exec (.gatherElement 0 0 1) s) s) = true := by decide +kernel

/-- The crew of launch 1 asked to halt by slot 5's strand, its cores reached at TIME 100. -/
def wHalting (reached : Option Nat) (time : Dword) : State := { w0 with time := time, parts := [(0, { part0 with launches :=
  [{ launch1 with crews := [⟨0, 0, 0, some ⟨5, none, reached, false, reached⟩, false, false, false, false, [], []⟩] }] })] }
theorem witness_preempt_request : next (exec (.preemptRequest 0 1 0 5) (wHalting none 100)) (fun t => decide ((t.placed? ⟨⟨0, 1⟩, 0⟩).bind (·.halting) = some ⟨5, none, some 100, false, some 100⟩)) = true := by decide +kernel
theorem witness_drain_expiry : next (exec (.copyDrainExpiry 0 1 0) (wHalting (some 100) 1100)) (fun t => decide ((t.placed? ⟨⟨0, 1⟩, 0⟩).bind (·.halting) = some ⟨5, none, some 100, true, some 100⟩)) = true ∧
    goes (exec (.copyDrainExpiry 0 1 0) (wHalting (some 100) 1099)) (wHalting (some 100) 1099) = true := by decide +kernel
theorem witness_halt_complete : (wHalting (some 100) 200).haltReady ⟨⟨0, 1⟩, 0⟩ ⟨5, none, some 100, false, some 100⟩ = true ∧ next (exec (.preemptHaltComplete 0 1 0) (wHalting (some 100) 200)) (fun t =>
      decide (t.me.status = .halted) && decide ((t.part 0).faults.map (fun f => (f.1.cause, f.1.src)) = [(0x11, 5)])) = true := by decide +kernel
theorem witness_halt_waits : let s := (wHalting (some 100) 200).modMe (fun m => { m with rep := some ⟨[0x61, 0x61], 0, 4, 0, 1⟩ })
    s.haltReady ⟨⟨0, 1⟩, 0⟩ ⟨5, none, some 100, false, some 100⟩ = false ∧ goes (exec (.preemptHaltComplete 0 1 0) s) s = true := by decide +kernel
theorem witness_resume : next (exec (.crewResume 0 1 0) { w0 with me := { strand0 with status := .halted, prior := .waiting }, parts := [(0, { part0 with launches :=
    [{ launch1 with crews := [⟨0, 0, 0, none, true, false, true, false, [], []⟩] }] })] }) (fun t => decide (t.me.status = .waiting)) = true := by decide +kernel
/-- The crew's spread chain is sought; the crew resumes with a chain that the pre-emption folded. -/
theorem witness_preempt_chain : let s := { wChain false (pipe0 1 0 [] false) [] with parts := (wHalting none 100).parts }
    next (exec (.preemptRequest 0 1 0 5) s) (fun t => some' (t.findChain 0 3) (fun c => decide (c.triggers.map (·.1) = [.preempt])) &&
      decide (((t.placed? myCrew).bind (·.halting)).map (·.shut) = some none) && goes (exec (.copyDrainExpiry 0 1 0) t) t) = true ∧
    (let u := { w0 with me := { strand0 with status := .halted, prior := .ready }, chains := [(0, [{ chain1 true (pipe0 1 0 [] false) [] with sched := some false }])], parts := [(0, { part0 with launches := [{ launch1 with crews := [⟨0, 0, 0, none, true, false, true, false, [], []⟩] }] })] }
     next (exec (.crewResume 0 1 0) u) (fun t => some' (t.findChain 0 3) (fun c => c.backDue && decide (c.triggers.map (·.1) = [.back]))) = true) := by decide +kernel
/-- A unit of the copy is caught for its halted context. -/
theorem witness_copy_spilled : some' (wCopied.core 0).copies[0]? (fun c =>
    let s : State := { wCopied with spills := [(0, [⟨⟨4, 9⟩, .write c.sender c.ctx 0x20000 [1] false false false⟩])] }
    s.spilled c.sender && goes (exec (.copyComplete 0 0) s) s) = true := by decide +kernel
/-- LOGM's update of one address, and its end. -/
theorem witness_log_update : let s := wGathering.modCore 0 (fun k => { k with gathers := k.gathers.map (fun g => { g with kind := .logm, todo := [0], merges := [(0x20000, [5])], fresh := false }) })
    some' (s.core 0).gathers[0]? (fun g => s.mayRun g.owner && !s.mergeStalls g 0x20000 && goes (exec (.gatherElement 0 0 0) s) ((s.applyMerge g 0x20000 [5]).setGather 0 0 { g with todo := [] })) = true ∧
    (let u := s.modCore 0 (fun k => { k with gathers := k.gathers.map (fun g => { g with todo := [] }) })
     some' (u.core 0).gathers[0]? (fun g => decide (g.failed = []) && !u.logAway g && next (exec (.gatherComplete 0 0) u) (fun t => decide ((t.core 0).gathers = []) && decide (t.mem = (u.clearLog g).mem))) = true) := by decide +kernel
/-- Reductions of slot 4's strand and, twice, of slot 0's to one word: the last is merged with the first at its own place, behind the one between. -/
def redOther : RedReq := { red5 with owner := ⟨4, 9⟩ }
theorem witness_merge_late : let s := { w0 with reds := [redOther, { red5 with op := .xor' }, red5] }
    ({ red5 with op := .xor' } : RedReq).before red5 = true ∧ redOther.before { red5 with op := .xor' } = false ∧
    next (exec (.routerMerge 0 2) s) (fun t => decide (t.reds.map (fun r => (r.operand, r.count)) = [(5, 1), (10, 2)])) = true := by decide +kernel
/-- Where routers check requests to homes (log entry 127), one to a slice outside the partition's rectangle is dropped. -/
theorem witness_home_outside (h : Config.homeRouted = true) : let r := { red5 with loc := .mem 0x20800, va := 0x20800 }
    ({ w0 with reds := [r] } : State).homeRouted r = false := by
  have e : (natBits 0x20800 47 40 != w0.devId || (w0.part 0).hasCluster (homeSlice 0x20800 / 2) || (w0.part 0).pendingMap.any (·.getLsbD (meshOf (homeSlice 0x20800 / 2)))) = false := by decide +kernel
  exact (congrArg₂ or e (congrArg not h)).trans rfl
/-- A halted strand's context is away: what an engine writes for it goes to the ring; once it runs again the ring's write lands. -/
theorem witness_caught : let s := w0.modMe (fun m => { m with status := .halted })
    let b : SpillBody := .write (.copy 0 0 1) w0.ctx 0x7F0000000000 [7] false false false
    s.contextAway s.me? = true ∧ got (s.caught s.me? b) (fun t => decide (Table.getD t.spills 0 [] = [⟨s.me?, b⟩])) = true ∧
    (let u := { w0 with spills := [(0, [⟨w0.me?, b⟩])] }
     u.contextAway w0.me? = false ∧ got (({ u with spills := Table.set u.spills 0 [] } : State).landSpill b) (fun v => goes (exec (.spillReplay 0) u) v) = true) := by decide +kernel

/-! ## Events of the launch unit and the system die -/

/-- Partition 0's launch queue at 0x40000 with 16 slots, and an address space of id 5 rooted at 0x50000 registered at 0x60000. -/
def wQueue : State := withMem (w0.modPart 0 (fun p => { p with regs := (0x038, 0x40000) :: (0x070, 0x60001) :: p.regs })) 0x60000 (toBytes 8 5 ++ toBytes 8 0x50000)
/-- A launch record of one crew of class pri, that depends on nothing; the code page as its code. -/
def record1 (pri : Nat) : Nat := 1 + 2 ^ 40 * pri + 2 ^ 64 * 0x10000 + 2 ^ 128 * 0x10000 + 2 ^ 192 * 0x1000 + 2 ^ 384 * 5 + 2 ^ 448 * 0x50000
def wDoorbell : State := withMem wQueue 0x40080 (toBytes 128 (record1 1))
theorem witness_doorbell : goes (exec (.doorbell 0 16 9) wDoorbell) (wDoorbell.count 0 0x338 1) = true ∧ goes (exec (.doorbell 7 0 9) wDoorbell) (wDoorbell.count 7 0x338 1) = true ∧
    wDoorbell.mem.nat 0x40080 128 = record1 1 ∧ wDoorbell.homeFault 0 (.mem 0x40080) 128 = none ∧ wDoorbell.rejectReason 0 1 (record1 1) = none ∧ record1 1 / 2 ^ 896 % 2 ^ 64 = 0 ∧
    next (exec (.doorbell 0 1 9) wDoorbell) (fun t => decide ((t.part 0).launches.map (fun l => (l.id.age, l.qidx, l.ringer, l.state, l.pri)) = [(1, 0, 0, .running, 1), (2, 1, 9, .ready, 1)])) = true := by decide +kernel
theorem witness_refused_record : let s := withMem wDoorbell 0x40080 [0]
    s.rejectReason 0 1 (record1 1 - 1) = some 1 ∧ s.mem.nat 0x40080 128 = record1 1 - 1 ∧
    ((s.modPart 0 (fun p => { p with ages := p.ages + 1 })).writeLaunchStatus 0 5 0x50000 0 1 9 (4 + 256)).isSome = true ∧
    next (exec (.doorbell 0 1 9) s) (fun t => decide ((t.part 0).launches.length = 1)) = true ∧
    (let f := wDoorbell.modPart 0 (fun p => { p with regs := Table.set p.regs 0x018 2 })
     f.homeFault 0 (.mem 0x40080) 128 = some 0x12 ∧ next (exec (.doorbell 0 1 9) f) (fun t => decide ((t.part 0).faults.map (fun r => (r.1.cause, r.1.addr, r.1.src)) = [(0x12, 0x40080, 9)])) = true) := by
  decide +kernel
def wLaunch (l : Launch) : State := { w0 with me := Strand.fresh, parts := [(0, { part0 with launches := [l] })] }
theorem witness_dependences : next (exec (.dependenceResolved 0 1) (wLaunch { launch1 with state := .waitDep, crews := [] })) (fun t => some' (t.launch? ⟨0, 1⟩) (fun l => decide (l.state = .ready))) = true ∧
    (let s := wLaunch { launch1 with state := .waitDep, crews := [], deps := [0x1234] }
     s.depState 0 0x1234 0 = some false) ∧
    (let s := wLaunch { launch1 with state := .waitDep, crews := [], deps := [0x1234], seen := [some true] }
     next (exec (.dependenceResolved 0 1) s) (fun t => decide ((t.launch? ⟨0, 1⟩).map (·.state) = some .ready)) = true) ∧
    (let s := wLaunch { launch1 with state := .waitDep, crews := [], deps := [0x1234], seen := [some false] }
     next (exec (.dependenceResolved 0 1) s) (fun t => decide (t.launch? ⟨0, 1⟩ = none)) = true) ∧
    (let s := wLaunch launch1
     goes (exec (.dependenceResolved 0 1) s) s = true) := by decide +kernel
theorem witness_launch_end : let s := wLaunch { launch1 with crews := [⟨0, 0, 0, none, false, false, false, true, [], []⟩] }
    (some' (s.launch? ⟨0, 1⟩) s.launchOver) = true ∧ next (exec (.launchEnd 0 1) s) (fun t => decide ((t.launch? ⟨0, 1⟩).map (·.state) = some .ended)) = true ∧ w0.launchOver launch1 = false ∧
    goes (exec (.launchEnd 0 1) w0) w0 = true := by decide +kernel
theorem witness_crew_place : let s := wLaunch { launch1 with crews := [] }
    s.freeClusters 0 = [0] ∧ s.bestFor 0 0 = some ⟨⟨0, 1⟩, 0, false, 1⟩ ∧ s.candidateSlots ⟨⟨0, 1⟩, 0, false, 1⟩ 0 = [0] ∧ next (exec (.crewPlace 0) s) (fun t =>
      decide (t.me.status = .ready) && decide (t.me.pcc = launch1.code) && decide (t.me.launch = ⟨0, 1⟩)) = true := by decide +kernel

/-- A second launch waits with its one crew for cluster 0, which launch 1 holds with the class pri. -/
def wWaiting (held waits : Nat) : State := { w0 with parts := [(0, { part0 with launches := [{ launch1 with pri := held }, { launch1 with id := ⟨0, 2⟩, state := .ready, pri := waits, crews := [] }], ages := 3 })], time := 5000 }
theorem witness_priority : let s := wWaiting 3 0
    (s.waitingCandidates 0 = [(⟨⟨0, 2⟩, 0, false, 0⟩, [0])]) ∧ s.beingServed 0 ⟨⟨0, 2⟩, 0, false, 0⟩ = false ∧
    some' (State.youngest ((s.runningOn 0 [0]).filter (fun x => x.1.pri == 3))) (fun x => goes (exec (.priorityPreempt 0) s) (s.haltFor ⟨⟨0, 2⟩, 0, false, 0⟩ x)) = true ∧
    goes (exec (.priorityPreempt 0) (wWaiting 3 1)) (wWaiting 3 1) = true := by decide +kernel
theorem witness_quantum : let s := (wWaiting 1 1).modPart 0 (fun p => { p with regs := (0x058, 5) :: p.regs })
    ((s.part 0).reg 0x058).toNat % 2 ^ 32 * 1000 = 5000 ∧ some' (State.youngest ((s.runningOn 0 [0]).filter (fun x => decide (x.2.since + 5000 ≤ s.time.toNat) && decide (1 ≤ x.1.pri)))) (fun x =>
      goes (exec (.quantumExpiry 0) s) (s.haltFor ⟨⟨0, 2⟩, 0, false, 1⟩ x)) = true ∧ goes (exec (.quantumExpiry 0) (wWaiting 1 1)) (wWaiting 1 1) = true ∧
    (let u := { s with time := 4999 }
     goes (exec (.quantumExpiry 0) u) u = true) := by decide +kernel
def fault1 : FaultRec := ⟨0, 0x10000, 7, 3, 0, 0, 0x02, 5, true⟩
theorem witness_fault_ring : let s := ({ w0 with time := 2003 } : State).modPart 0 (fun p => { p with faults := [(fault1, 3)], regs := (0x088, 0x42000) :: p.regs })
    leastOf (fun (x : FaultRec × Nat) => (x.1.time, x.1.src)) (s.part 0).faults = some (0, fault1, 3) ∧ next (exec (.faultRecordPlace 0) s) (fun t =>
      decide (t.mem = s.mem.store 0x42000 (fault1.bytes 0 0) false) && decide ((t.part 0).faultSeq = 1) && decide ((t.part 0).faults = [])) = true ∧
    (let u := withMem s 0x42008 [1]
     goes (exec (.faultRecordPlace 0) u) u = true) ∧
    (let u := { s with time := 2002 }
     goes (exec (.faultRecordPlace 0) u) u = true) := by decide +kernel
theorem witness_system_ring : let s := { w0 with time := 2003, sys := { w0.sys with faults := [(fault1, 3, 0)], regs := [(0x0060, 0x43000)] } }
    leastOf (fun (x : FaultRec × Nat × Nat) => (x.1.time, x.1.src)) s.sys.faults = some (0, fault1, 3, 0) ∧ next (exec (.faultRecordPlace 64) s) (fun t =>
      decide (t.mem = s.mem.store 0x43000 (fault1.bytes 0 0) false) && decide (t.sys.faultSeq = 1)) = true ∧
    (let u := { s with time := 2002 }
     goes (exec (.faultRecordPlace 64) u) u = true) := by decide +kernel
def tel1 : TelRec := ⟨77, false, 2, 4, 5⟩
theorem witness_telemetry : let s := ({ w0 with time := 2004 } : State).modPart 0 (fun p => { p with tel := [tel1], regs := (0x090, 0x44000) :: p.regs })
    leastOf (fun (x : TelRec) => (x.time, x.src)) (s.part 0).tel = some (0, tel1) ∧ next (exec (.telemetryRecordPlace 0) s) (fun t =>
      decide (t.mem.nat 0x44000 32 = 77) && decide (t.mem.nat 0x44020 32 = 0x102) && decide ((t.part 0).tel = [])) = true ∧
    (let u := { s with time := 2003 }
     goes (exec (.telemetryRecordPlace 0) u) u = true) := by decide +kernel

/-- The clock at mhz, a hold or none. -/
def wPower (mhz : Nat) (held : Bool) : State := { w0 with sys := { w0.sys with mhz := mhz, held := held } }
theorem witness_power : next (exec (.thermalClockStep 600) (wPower 1400 false)) (fun t => decide (t.sys.mhz = 600)) = true ∧ goes (exec (.thermalClockStep 599) (wPower 1400 false)) (wPower 1400 false) = true ∧
    next (exec (.thermalClockRaise 1400) (wPower 600 false)) (fun t => decide (t.sys.mhz = 1400)) = true ∧ goes (exec (.thermalClockRaise 1401) (wPower 600 false)) (wPower 600 false) = true ∧
    next (exec .thermalHold (wPower 600 false)) (fun t => t.sys.held && decide (t.sys.heldCrews = [⟨⟨0, 1⟩, 0⟩])) = true ∧ goes (exec .thermalHold (wPower 700 false)) (wPower 700 false) = true ∧
    next (exec .thermalRelease (wPower 600 true)) (fun t => !t.sys.held) = true ∧ goes (exec .thermalRelease w0) w0 = true := by decide +kernel

theorem witness_boot : let s := { w0 with sys := { w0.sys with stage := 1 } }
    s.sys.result = 0 ∧ next (exec (.bootStage2 3 [] false) s) (fun t => decide (t.sys.stage = 2) && decide (t.sys.reason = 6) && decide (t.sys.result = 3) && decide (t.sys.layers = 3)) = true ∧
    next (exec (.bootStage2 3 [] false) { s with sys := { s.sys with lmsOk := true } }) (fun t => decide (t.sys.result = 1)) = true ∧ goes (exec .bootStage1 s) s = true ∧
    w0.sys.stage = 0 ∧ (let u := { w0 with sys := { w0.sys with bootCopy := 1 } }
      u.sys.result = 0 ∧ u.sys.bootCopy ≠ 0) := by decide +kernel
theorem witness_attest : next (exec (.attestRequest 0 1) w0) (fun t => (t.part 0).areqBusy) = true ∧ goes (exec (.attestRequest 0 0) w0) w0 = true ∧
    goes (exec (.attestDone 0) w0) w0 = true ∧ (part0.areqBusy = false) := by decide +kernel
theorem witness_update : let s := { w0 with sys := { w0.sys with update := some ⟨0x400000, [1, 2, 3], some (1, 4)⟩ } }
    BitVec.getLsbD (2 ^ 63 : Dword) 63 = true ∧ BitVec.getLsbD (2 ^ 63 + 2 ^ 32 : Dword) 32 = true ∧
    next (exec .firmwareUpdateDone s) (fun t => decide (t.sys.flash = bytesSet 0xFF s.sys.flash 0x400000 [1, 2, 3]) && decide (t.sys.update = none) && decide (Table.getD t.sys.rpmc 1 0 = 4)) = true := by decide +kernel

/-- Partition 0 with domain set 7 and VF 2, DZIAC port 3 trained. -/
def wOutside : State := { w0 with parts := [(0, { part0 with regs := (0x030, 0x0702) :: part0.regs })], sys := { w0.sys with regs := [(0x0010, 8)] } }
def frame1 (dset : Nat) : Frame := ⟨1, dset, .access 0x45000 (.write [1, 2] true)⟩
theorem witness_frames_in : (wOutside.sys.regs.getD 0x0010 0).getLsbD 3 = true ∧ (frame1 7).device ≠ wOutside.devId ∧ wOutside.layerPresent 0 0x45000 = true ∧
    goes (exec (.dziacFrameReceive 3 true false (frame1 6)) wOutside) wOutside = true ∧
    goes (exec (.dziacFrameReceive 4 true false (frame1 7)) wOutside) wOutside = true ∧ goes (exec (.dziacFrameReceive 36 true false (frame1 7)) wOutside) wOutside = true ∧
    next (exec (.dziacFrameReceive 3 false false (frame1 7)) wOutside) (fun t => decide (t.sys.regs.getD 0x3030 0 = 1) && decide (t.sys.regs.getD 0x3038 0 = 1)) = true ∧
    wOutside.layerPresent 0 0x45001 = true ∧ next (exec (.dziacFrameReceive 3 true false (frame1 7)) wOutside) (fun t => decide (t.mem = wOutside.mem.store 0x45000 [1, 2] true)) = true ∧
    goes (exec (.dziacFrameReceive 3 true false ⟨1, 7, .access 0x45000 (.read 2)⟩) wOutside) wOutside = true ∧
    goes (exec (.dziacFrameReceive 3 true false ⟨1, 0, .access 0x45000 (.write [1] false)⟩) wOutside) wOutside = true ∧
    next (exec (.dziacFrameReceive 3 true false ⟨1, 7, .handle 9 3 5 .drop⟩) wOutside) (fun t => decide (t.hmsgs = [⟨5, 0, 0x10009, 3, 256, .drop, 0⟩])) = true ∧
    next (exec (.dziacFrameReceive 3 true false ⟨1, 7, .access 0x45000 (.amo (.red 0 false) true 5 false)⟩) (withMem wOutside 0x45000 [7])) (fun t => decide (t.mem.nat 0x45000 8 = 12)) = true ∧
    next (exec (.dziacFrameReceive 3 true false ⟨1, 7, .access 0x45000 (.writeCap ⟨(capOver 0x20000 0x1000 0xFFF).bits, true, false⟩)⟩) wOutside) (fun t => t.mem.tagAt 0x4500) = true ∧
    next (exec (.dziacFrameReceive 3 true false ⟨1, 7, .access 0x45000 (.state 9 false)⟩) wOutside) (fun t => decide (t.mem.nat 0x45000 16 = 9)) = true := by decide +kernel
theorem witness_host_access : next (exec (.hostAccess ⟨0, 0x45000, 0, some [1, 2]⟩) wOutside) (fun t => decide (t.mem.nat 0x45000 2 = 0x201)) = true ∧
    next (exec (.hostAccess ⟨2, 0x45000, 0, some [1, 2]⟩) wOutside) (fun t => decide (t.mem.nat 0x45000 2 = 0x201)) = true ∧ goes (exec (.hostAccess ⟨3, 0x45000, 0, some [1, 2]⟩) wOutside) wOutside = true ∧
    goes (exec (.hostAccess ⟨2, 0x3FFFFFFF, 0, some [1, 2]⟩) wOutside) wOutside = true ∧ wOutside.layerPresent 0 0x3FFFFFFF = true ∧
    next (exec (.hostAccess ⟨2, 0x3FFFFFFE, 0, some [1, 2]⟩) wOutside) (fun t => decide (t.mem.nat 0x3FFFFFFE 2 = 0x201)) = true := by decide +kernel
theorem witness_flr : next (exec (.functionLevelReset 2) wOutside) (fun t => decide ((t.part 0).launches = []) && decide (t.me.status = .free)) = true ∧
    goes (exec (.functionLevelReset 3) wOutside) wOutside = true := by decide +kernel

theorem witness_sysres : BitVec.getLsbD (2 ^ 63 + 1 : Dword) 63 = true ∧ next (exec (.sysresResume (2 ^ 63 + 1)) wParked) (fun t => decide ((t.strand 1).status = .ready)) = true ∧
    next (exec (.sysresKill (2 ^ 63 + 2 ^ 32 + 1)) wParked) (fun t => decide ((t.strand 1).status = .free)) = true ∧
    next (exec (.sysresResume (2 ^ 63 + 2)) wParked) (fun t => decide (t.sys.regs.getD 0x0070 0 = 1)) = true ∧
    (let s := wParked.modPart 0 (fun p => { p with faults := [(⟨0, 0x10000, 0, 0, 0, 0, 2, (w0.strandSrc 1), true⟩, 0)] })
     s.recordWaits 1 = true ∧ goes (exec (.sysresResume (2 ^ 63 + 1)) s) s = true ∧ goes (exec (.sysresKill (2 ^ 63 + 2 ^ 32 + 1)) s) s = true) := by decide +kernel
theorem witness_host_registers : next (exec (.intmaskWrite 0 1) (w0.modPart 0 (fun p => { p with pendingVec := 3 }))) (fun t => decide ((t.part 0).reg 0x0A0 = 1) && decide ((t.part 0).pendingVec = 1)) = true ∧
    goes (exec (.counterClear 0 0x338) (w0.count 0 0x338 1)) (w0.modPart 0 (fun p => { p with counters := [(0x338, 0)] })) = true ∧
    some' (partMask 0x058) (fun m => goes (exec (.registerWrite 0 0x10058 (BitVec.allOnes 64)) w0) (w0.modPart 0 (fun p => { p with regs := Table.set p.regs 0x058 m }))) = true ∧
    goes (exec (.registerWrite 2 0x0C8 9) wOutside) (wOutside.modPart 0 (fun p => { p with regs := Table.set p.regs 0x0C8 9 })) = true ∧ goes (exec (.registerWrite 2 0x0E0 9) wOutside) wOutside = true := by decide +kernel

/-- Partition 0 in a state with a rectangle; the registers are those that R390 asks for. -/
def wPart (state : Nat) (rect : Dword) : State := { w0 with me := Strand.fresh, sys := { w0.sys with stage := 2 }, parts := [(0, { part0 with
  state := state, launches := [], regs := [(0x008, rect), (0x018, 1), (0x038, 0x100000), (0x048, 0x20000A), (0x050, 0x30000C), (0x088, 0x400000), (0x090, 0x410000)] })] }
theorem witness_activate : (wPart 0 0).mayActivate 0 = true ∧ next (exec (.partitionActivate 0) (wPart 0 0)) (fun t => decide ((t.part 0).state = 1) && decide ((t.part 0).bitmap = 1)) = true ∧
    (wPart 0 1).mayActivate 0 = false ∧ next (exec (.partitionActivate 0) (wPart 0 1)) (fun t => decide ((t.part 0).state = 0) && decide ((t.part 0).outcome = 1)) = true ∧
    next (exec (.partitionDeactivate 0) (wPart 1 0)) (fun t => decide ((t.part 0).state = 0)) = true ∧
    next (exec (.partitionDeactivate 0) w0) (fun t => decide ((t.part 0).state = 1) && decide ((t.part 0).outcome = 2)) = true := by decide +kernel
/-- The clusters (0, 0) and (1, 0), the second leaving. -/
def wLeave (cleared : Bool) : State := (wPart 2 0x00010000).modPart 0 (fun p => { p with bitmap := 3, resize := some ⟨0, false, cleared⟩, rszBusy := true, pendingMap := if cleared then some 1 else none })
theorem witness_resize : let s := (wPart 1 0x00010000).modPart 0 (fun p => { p with bitmap := 3 })
    rectOk 0 = true ∧ rectStep 0x00010000 0 = true ∧ rectMap 0 &&& ~~~(3 : Dword) = 0 ∧ next (exec (.resizeRequest 0 0) s) (fun t => decide ((t.part 0).state = 2) && (t.part 0).rszBusy) = true ∧
    rectStep 0x00010000 0x01010000 = true ∧ rectStep 0x00010000 0x02010000 = false ∧ next (exec (.resizeRequest 0 0x02010000) s) (fun t => decide ((t.part 0).state = 1) && decide ((t.part 0).rszResult = 1)) = true ∧
    goes (exec (.resizeRequest 0 0) (wLeave false)) (wLeave false) = true := by decide +kernel
theorem witness_leaving : next (exec (.resizeLeaveClear 0) (wLeave false)) (fun t => decide ((t.part 0).pendingMap = some 1)) = true ∧
    (let s := (wLeave false).modPart 0 (fun p => { p with launches := [{ launch1 with crews := [⟨0, 1, 0, none, false, false, false, false, [], []⟩] }] })
     (s.part 0).leaving 1 = true ∧ goes (exec (.resizeLeaveClear 0) s) s = true) ∧
    next (exec (.resizeCommit 0) (wLeave true)) (fun t => decide ((t.part 0).state = 1) && decide ((t.part 0).bitmap = 1) && decide ((t.part 0).reg 0x008 = 0)) = true ∧
    goes (exec (.resizeCommit 0) w0) w0 = true := by decide +kernel
theorem witness_layers : let s := ({ w0 with sys := { w0.sys with layers := 7 } }.modPart 0 (fun p => { p with regs := Table.set p.regs 0x018 3 }))
    s.partOfLayer 2 = none ∧ next (exec (.layerAdd 0 0x102) s) (fun t => decide ((t.part 0).layers = 7) && decide ((t.part 0).faults.map (fun f => (f.1.cause, f.1.extra)) = [(0x12, 0x203)])) = true ∧
    next (exec (.layerAdd 0 0x103) s) (fun t => decide ((t.part 0).layers = 3) && decide ((t.part 0).layResult = 1)) = true ∧
    next (exec (.layerPredictiveRemove 0 0x500000200) s) (fun t => decide ((t.part 0).faults.map (fun f => f.1.extra) = [0x500000001])) = true ∧
    next (exec (.layerFinalRemove 0 0x301) s) (fun t => decide ((t.part 0).layers = 1) && decide ((t.part 0).faults.map (fun f => f.1.extra) = [0x102])) = true ∧
    (let u := s.modPart 0 (fun p => { p with layBusy := true })
     goes (exec (.layerAdd 0 0x102) u) u = true ∧ goes (exec (.layerErrorLimit 1 true) u) u = true) ∧
    next (exec (.layerFinalRemove 0 0x302) s) (fun t => decide ((t.part 0).layers = 3) && decide ((t.part 0).layResult = 1)) = true ∧
    next (exec (.laycmdNop 0 5) s) (fun t => decide ((t.part 0).layCmd = 5)) = true ∧ next (exec (.layerErrorLimit 1 true) s) (fun t => decide (t.sys.layers = 5)) = true ∧
    goes (exec (.layerErrorLimit 9 true) s) s = true := by decide +kernel

/-! ## Frames, exceptions, reset, the step -/

theorem witness_frames : Claims.dests (.add 5 6 7) = some ([5], [], []) ∧ w0.me.status = .ready ∧ w0.me.chain = none ∧ next (exec (.add 5 6 7) w0) (fun t => decide (t.me.regs = w0.me.regs.wg 5 (data 23)) &&
    decide (t.me.csr = w0.me.csr) && decide (t.mem = w0.mem) && decide (t.cores = w0.cores)) = true ∧ Claims.onlyRegisters (.add 5 6 7) = true ∧ (∀ d k, (Instr.add 5 6 7) ≠ .csrw d k) ∧ (Instr.add 5 6 7) ≠ .eret := by
  refine ⟨rfl, rfl, rfl, by decide +kernel, rfl, ?_, ?_⟩ <;> simp
theorem witness_load_frame : some' (Claims.loadForm w0 (.ld 5 2 3 false 0)) (fun f => got (capCheckAt (w0.cap f.a) [0] { r := true } f.addr f.n f.n) (fun va => got (w0.translate w0.ctx f.acc false va) (fun (tr, s1) =>
    decide (tr.loc = .mem 0x20000) && next (exec (.ld 5 2 3 false 0) w0) (fun t => decide (t.mem = s1.mem) && decide (t.hostMem = w0.hostMem))))) = true ∧ Claims.noReductions w0 := by
  unfold Claims.noReductions; decide +kernel
theorem witness_store_frame : some' (Claims.storeForm w0 (.st 7 2 2 8)) (fun f => got (capCheckAt (w0.cap f.a) [0] { w := true } f.addr f.bytes.length f.bytes.length) (fun va => got (w0.translate w0.ctx .store false va) (fun (tr, s1) =>
    next (exec (.st 7 2 2 8) w0) (fun t => decide (t.mem = s1.mem) && (match tr.loc with
      | .mem pa => decide (pa % 128 + f.bytes.length ≤ 128) && decide ((t.seenByte 0 pa) = 16) && decide (t.seenByte 4 pa = 0)
      | _ => false))))) = true ∧ Claims.noReductions w0 := by unfold Claims.noReductions; decide +kernel
/-- A load and a store that trap, and a load of a core whose L1 is full. -/
theorem witness_no_effect : next (exec (.ld 5 6 3 false 0) w0) (fun t => decide (t.mem = w0.mem) && decide (t.cores = w0.cores) && decide (t.me.status = .parked)) = true ∧
    (let s := wLine.modCore 0 (fun k => { k with lines := ((k.lines.map (fun e => (0x401, e.2))) ++ (List.range 511).map (fun i => (i, Line.empty))) })
     (s.core 0).lines.length = 512 ∧ Table.find? (s.core 0).lines 0x400 = none ∧ next (exec (.ld 5 2 3 false 0) s) (fun t => decide ((t.core 0).lines.length = 512) &&
       decide (Table.find? (t.core 0).lines 0x401 = none) && decide (t.mem = (s.evictLine 0 0x401).mem))) = true := by decide +kernel
theorem witness_exception_entry : w0.me.follow = none ∧ (w0.modCsr (fun c => { c with trapv := 1 })).me.csr.trapv.getLsbD 0 = true ∧ (w0.part w0.myPart).state ≠ 0 ∧
    (let t := (w0.modMe (fun m => { m with rep := some ⟨[0x61], 0, 9, 4, 0⟩ })).takeTrap 0x02 77 5
     t.me.status = .parked ∧ t.me.csr.repi = BitVec.ofNat 64 (2 ^ 63 + 2 ^ 28 * 9 + 4) ∧ (t.part 0).faults.map (fun f => (f.1.cause, f.1.addr, f.1.parked)) = [(0x02, 77, true)]) := by decide +kernel
theorem witness_canonical : Claims.canonical w0 ∧ Claims.canonical State.reset := by unfold Claims.canonical; decide +kernel

/-- The state with the word of ADD g5, g6, g7 at the PC, its turn next. -/
def wStep : State := withMem { w0 with agenda := [⟨3, .issue 0⟩], time := 40 } 0x10000 (toBytes 4 0x038C2801)
theorem witness_step : let u : State := (Claims.turned wStep ⟨3, .issue 0⟩ []).rotated 0
    (Claims.turned wStep ⟨3, .issue 0⟩ []).mayIssue 0 = true ∧ (u.focus 0).me.yielded = false ∧ (u.focus 0).me.rep = none ∧ got ((u.focus 0).fetchAt (u.focus 0).pc.toNat) (fun (x, s1) => decide (x = .word 0x038C2801) &&
      got ({ s1 with word := 0x038C2801, retired := false }.discipline (.add 5 6 7)) (fun s2 : State => decide (s2.x 6 = 7#64))) = true := by decide +kernel
theorem witness_step_yielded : let s := { wStep with me := { strand0 with yielded := true } }
    (({ s with agenda := [], time := 43 } : State).mayIssue 0) = true ∧ next (step s) (fun t => !t.me.yielded && decide (t.pc = 0x10000)) = true ∧
    (let r := { wStep with me := { strand0 with status := .waiting } }
     ({ r with agenda := [], time := 43 } : State).mayIssue 0 = false ∧ goes (step r) { r with agenda := [], time := 43 } = true) := by decide +kernel
theorem witness_step_rep : let s := { wStep with me := { strand0 with rep := some ⟨[0x038C2801], 0, 2, 0, 0⟩ } }
    decodeWord (stagger 0x038C2801 0) = .ok (.add 5 6 7) ∧ next (step s) (fun t => decide (t.g 5 = data 23)) = true := by decide +kernel
theorem test_step_runs : next (step wStep) (fun t => decide (t.g 5 = data 23) && decide (t.pc = 0x10004) && decide (t.time = 43)) = true := by decide +kernel
/-- A vector instruction takes a place of the dispatch queue, and stalls while it is full; ADD stalls while a vector state instruction owes an element. -/
def wStepV (n : Nat) : State := (withMem wStep 0x10000 (toBytes 4 0x08C51D11)).modCore 0 (fun k => { k with queue := List.replicate n (.vector ⟨4, 9⟩) })
theorem witness_step_vector : plainVector (.vfma 3 5 6 2) = true ∧ next (step (wStepV 7)) (fun t => decide (t.pc = 0x10004#64) && decide ((t.core 0).queue.length = 8)) = true ∧
    next (step (wStepV 8)) (fun t => decide (t.pc = 0x10000#64) && decide ((t.core 0).queue.length = 8)) = true ∧
    (let s : State := { wStep with me := { strand0 with vstates := wPush.me.vstates } }
     s.me.vstates.any (fun v => v.push.isSome) = true ∧ next (step s) (fun t => decide (t.pc = 0x10000#64) && decide (t.g 5 = strand0.regs.rg 5)) = true) := by decide +kernel
theorem witness_step_event : let s := { w0 with agenda := [⟨3, .event (.balanceRound 0)⟩] }
    (Claims.turned s ⟨3, .event (.balanceRound 0)⟩ []).mayHappen (.balanceRound 0) = true ∧ next (step s) (fun t => decide (t.time = 3)) = true := by decide +kernel
theorem test_step_illegal : next (step (withMem wStep 0x10000 (toBytes 4 0xFFFFFFFD))) (fun t => decide (t.me.status = .parked) && decide (t.me.parkCause = 1)) = true := by decide +kernel
/-- C.ADD g2, g7 : a 16-bit instruction. -/
theorem test_step_half : next (step (withMem wStep 0x10000 (encode Hint.none (.cAdd 2 5)))) (fun t => decide (t.pc = 0x10002)) = true := by decide +kernel
theorem test_first_instruction : next (step (State.reset.withFetchWord 32 0xFFFE48C1)) (fun t => decide (t.pc = 0x10004#64) && decide (t.x 9 = 0xFFFFFFFFFFFFFFFF#64)) = true := by decide +kernel
theorem witness_fixed : (5 : GIdx) ≠ 0 ∧ (w0.setG 5 (data 1)).g 5 = data 1 ∧ (w0.setG 0 (data 1)).g 0 = ⟨0, false, false⟩ := by decide +kernel
theorem witness_division : next (exec (.div 5 6 0) w0) (fun t => decide (t.x 5 = BitVec.allOnes 64)) = true ∧
    (let s := (w0.setG 9 (data (2 ^ 63))).setG 10 (data (2 ^ 64 - 1))
     (s.x 9).toInt = -(2 ^ 63) ∧ (s.x 10).toInt = -1 ∧ next (exec (.div 5 9 10) s) (fun t => decide (t.x 5 = s.x 9)) = true ∧ next (exec (.rem 5 9 10) s) (fun t => decide (t.x 5 = 0)) = true ∧
     next (exec (.div 5 7 10) s) (fun t => decide ((t.x 5).toInt = -16)) = true ∧ next (exec (.remz 5 10 6) s) (fun t => decide (t.x 5 = 1)) = true) := by decide +kernel
theorem witness_round_trip : Instr.WellFormed (.sel 5 6 7 3) ∧ (∃ p, p = decode (encode Hint.none (.sel 5 6 7 3) ++ [1, 2])) := ⟨by unfold Instr.WellFormed; decide +kernel, _, rfl⟩

end Sys2Proof.Tests
end

section
/-!
SUPPORT. Integer division (R59): the machine's quotients and remainders are the library's `sdiv`, `srem`, `udiv` and `umod` of words
except at divisor 0, and a two-operand integer instruction leaves the control registers alone.
-/
namespace Sys2Proof.Machine

/-! ## The four operations on doublewords -/

section
variable (a : Dword) {b : Dword}

theorem divS_of_ne_zero (hb : b ≠ 0) : divS a b = a.sdiv b := by
  apply BitVec.eq_of_toInt_eq
  rw [divS, if_neg hb, BitVec.toInt_ofInt, BitVec.toInt_sdiv]

theorem remS_of_ne_zero (hb : b ≠ 0) : remS a b = a.srem b := by
  rw [remS, if_neg hb, ← BitVec.toInt_srem, BitVec.ofInt_toInt]

theorem divZ_of_ne_zero (hb : b ≠ 0) : divZ a b = a / b := by
  rw [divZ, if_neg hb, ← BitVec.toNat_udiv, BitVec.ofNat_toNat, BitVec.setWidth_eq]

theorem remZ_of_ne_zero (hb : b ≠ 0) : remZ a b = a % b := by
  rw [remZ, if_neg hb, ← BitVec.toNat_umod, BitVec.ofNat_toNat, BitVec.setWidth_eq]

end

/-- R59: a divisor of zero, signed or unsigned. -/
theorem division_by_zero {a b : Dword} (hb : b = 0) :
    divS a b = BitVec.allOnes 64 ∧ remS a b = a ∧ divZ a b = BitVec.allOnes 64 ∧ remZ a b = a :=
  ⟨if_pos hb, if_pos hb, if_pos hb, if_pos hb⟩

/-- The one pair whose quotient is no signed doubleword, as words. -/
theorem signed_overflow_iff {a b : Dword} : a.toInt = -(2 ^ 63) ∧ b.toInt = -1 ↔ a = BitVec.intMin 64 ∧ b = -1#64 := by
  rw [← BitVec.toInt_inj, ← BitVec.toInt_inj (y := -1#64)]
  rfl

/-- R59: the one signed quotient that wraps. -/
theorem division_overflow {a b : Dword} (ha : a.toInt = -(2 ^ 63)) (hb : b.toInt = -1) :
    (divS a b).toInt = -(2 ^ 63) ∧ remS a b = 0 := by
  obtain ⟨rfl, rfl⟩ := signed_overflow_iff.mp ⟨ha, hb⟩
  decide

theorem toInt_divS {a b : Dword} (hb : b ≠ 0) (h : ¬ (a.toInt = -(2 ^ 63) ∧ b.toInt = -1)) :
    (divS a b).toInt = a.toInt.tdiv b.toInt := by
  rw [divS_of_ne_zero a hb]
  exact BitVec.toInt_sdiv_of_ne_or_ne a b (not_and_or.mp (signed_overflow_iff.not.mp h))

/-- The signed remainder is what the quotient leaves of the dividend. -/
theorem toInt_remS {a b : Dword} (hb : b ≠ 0) (h : ¬ (a.toInt = -(2 ^ 63) ∧ b.toInt = -1)) :
    (remS a b).toInt = a.toInt - (divS a b).toInt * b.toInt := by
  rw [remS_of_ne_zero a hb, BitVec.toInt_srem, toInt_divS hb h, Int.tmod_def, mul_comm]

theorem toNat_divZ {a b : Dword} (hb : b ≠ 0) : (divZ a b).toNat = a.toNat / b.toNat := by
  rw [divZ_of_ne_zero a hb, BitVec.toNat_udiv]

/-- The unsigned remainder is what the quotient leaves of the dividend. -/
theorem toNat_remZ {a b : Dword} (hb : b ≠ 0) : (remZ a b).toNat = a.toNat - (divZ a b).toNat * b.toNat := by
  rw [remZ_of_ne_zero a hb, BitVec.toNat_umod, toNat_divZ hb, Nat.mod_eq_sub_div_mul]

/-! ## Two-operand integer instructions -/

namespace State
variable (s : State)

@[simp] theorem past_x (n : Nat) (i : GIdx) : (s.past n).x i = s.x i :=
  congrArg (fun r : Regs => (r.rg i).bits.extractLsb' 0 64) (advance_regs s n)

@[simp] theorem past_csr (n : Nat) : (s.past n).me.csr = s.me.csr := advance_csr s n

end State

theorem int2_eq (f : Dword → Dword → Dword) (d a b : GIdx) (s : State) :
    int2 f d a b s = .next ((s.setX d (f (s.x a) (s.x b)) (s.t2 a b)).past 4) := rfl

/-- An instruction with the meaning `int2 f` runs to its end, never traps, keeps every control register, FFLG among them, and
leaves f of its operands in gD. -/
theorem int2_runs {i : Instr} {f : Dword → Dword → Dword} {d a b : GIdx} {s : State} (hd : d ≠ 0) (hi : exec i s = int2 f d a b s) :
    ∃ t, Runs i s t ∧ t.me.csr = s.me.csr ∧ t.x d = f (s.x a) (s.x b) :=
  ⟨_, hi.trans (int2_eq f d a b s), State.past_csr _ 4, (State.past_x _ 4 d).trans (State.x_setX hd _ _)⟩

section
variable (d a b : GIdx) (s : State)

theorem exec_div : exec (.div d a b) s = int2 divS d a b s := rfl
theorem exec_rem : exec (.rem d a b) s = int2 remS d a b s := rfl
theorem exec_divz : exec (.divz d a b) s = int2 divZ d a b s := rfl
theorem exec_remz : exec (.remz d a b) s = int2 remZ d a b s := rfl

end

/-- Settles O2: each instruction leaves its operation on doublewords in gD, and each case of R59's table is a law of those operations. -/
theorem divisionCases : Obligations.DivisionCases := by
  intro s d a b hd x y
  obtain ⟨q, runq, csrq, hq⟩ := int2_runs hd (exec_div d a b s)
  obtain ⟨r, runr, csrr, hr⟩ := int2_runs hd (exec_rem d a b s)
  obtain ⟨qz, runqz, csrqz, hqz⟩ := int2_runs hd (exec_divz d a b s)
  obtain ⟨rz, runrz, csrrz, hrz⟩ := int2_runs hd (exec_remz d a b s)
  refine ⟨q, r, qz, rz, runq, runr, runqz, runrz, csrq, csrr, csrqz, csrrz, ?_⟩
  rw [hq, hr, hqz, hrz]
  exact ⟨division_by_zero, division_overflow, fun hy h => ⟨toInt_divS hy h, toInt_remS hy h⟩,
    fun hy => ⟨toNat_divZ hy, toNat_remZ hy⟩⟩

end Sys2Proof.Machine
end

section
/-!
SUPPORT. Selection (R172): a data write of a g register clears its upper half and its tag, and leaves every other g register alone.
-/
namespace Sys2Proof.Machine

/-! ## g registers after a data write (R46, R48) -/

namespace State
variable (s : State)

@[simp] theorem past_g (n : Nat) (i : GIdx) : (s.past n).g i = s.g i :=
  congrArg (fun r : Regs => r.rg i) (advance_regs s n)

theorem g_setX_of_ne {i j : GIdx} (h : j ≠ i) (v : Dword) (t : Bool) : (s.setX i v t).g j = s.g j := by
  rw [setX, g_setG, if_neg h]
  split
  case isTrue hj => rw [hj]; rfl
  case isFalse => rfl

theorem g_setX_self {i : GIdx} (hi : i ≠ 0) (v : Dword) (t : Bool) : (s.setX i v t).g i = ⟨v.zeroExtend 128, false, t⟩ := by
  rw [setX, g_setG, if_neg hi, if_pos rfl]

/-- Data leaves bits 127:64 zero. -/
theorem upper_setX {i : GIdx} (hi : i ≠ 0) (v : Dword) (t : Bool) : ((s.setX i v t).g i).bits.extractLsb' 64 64 = 0 := by
  rw [g_setX_self s hi]
  ext k hk
  simp

theorem t2_iff {a b : GIdx} : s.t2 a b = true ↔ (s.g a).taint = true ∨ (s.g b).taint = true := Bool.or_eq_true_iff

end State

/-! ## SEL -/

/-- R172 as a write: the choice of SEL goes to gD as data, with the taint of the predicate and of both operands. -/
theorem exec_sel (d a b : GIdx) (p : PIdx) (s : State) : exec (.sel d a b p) s =
    .next ((s.setX d (if (s.p p).bits.getLsbD 0 then s.x a else s.x b) ((s.p p).taint || s.t2 a b)).past 4) := rfl

/-- Settles O3: SEL is one data write of gD, so the choice, the cleared upper half and tag, the taint and the frame are what such a
write leaves. -/
theorem selectChooses : Obligations.SelectChooses := by
  intro s d a b p
  refine ⟨_, exec_sel d a b p s, fun hd => ⟨?choice, ?upper, ?tag, ?taint⟩, fun j hj => ?frame⟩
  all_goals rw [State.past_g]
  case choice => exact State.x_setX hd _ _
  case upper => exact State.upper_setX s hd _ _
  case tag => rw [State.g_setX_self s hd]
  case taint => rw [State.g_setX_self s hd, Bool.or_eq_true, State.t2_iff]
  case frame => exact State.g_setX_of_ne s hj _ _

end Sys2Proof.Machine
end
